-- ==== Sys2Proof/Word.lean ====
section
/-! DEFINITION. The word types of the machine (01 R16, 02 R31) and the numbers that name its units. -/

namespace Sys2Proof

/-- A byte of memory (00 R1). -/
abbrev Byte := BitVec 8

/-- A slot word (R31). -/
abbrev SlotWord := BitVec 32

/-- A scalar register (R16). -/
abbrev Word := BitVec 64

/-- A vector register of 512 bytes (R16, R244). -/
abbrev VWord := BitVec 4096

/-- A predicate register (R16). -/
abbrev PWord := BitVec 1024

/-- A bundle (R31). -/
abbrev Bundle := BitVec 256

/-- A hardware context of the package: 2 × package core number, plus 1 for the secondary context (R14, R16). -/
abbrev CtxId := Fin 512

/-- A package core number (R14). -/
abbrev CoreId := Fin 256

/-- A die D0 to D7 (R10). -/
abbrev DieId := Fin 8

/-- A partition (R22). -/
abbrev PartId := Fin 32

/-- A queue (R438). -/
abbrev QueueId := Fin 2048

/-- A function: 0 the physical function, 1 to 512 the virtual functions (R489, R513). -/
abbrev FuncId := Fin 513

end Sys2Proof
end

