-- ==== Sys2Proof/Config.lean ====
section
/-! DEFINITION. What an implementation fixes and what the manual leaves open (00 R7, 01 R29): free values without a body,
and the opaque outcomes of cryptography, which no rule of the manual computes. -/

namespace Sys2Proof
namespace Config

/-- A free value: the `salt`-th value drawn at draw number `draw`. Nothing constrains it (00 R7; log entry 3). -/
opaque freeBits (draw salt : Nat) : Nat

/-- An elastic delay beyond the least one a rule names, in tempo (01 R29; log entry 2). -/
opaque latency (draw : Nat) : Nat

/-- The value of a digest, signature or RSA operation over the named content (18 R496, R504, R509, R510; log entry 3). -/
opaque sealValue (what content : Nat) : Nat

/-- The count of soft errors that firmware tells the host of when a die passes it (19 R518; log entry 114). -/
opaque softThreshold : Fin 65535

end Config
end Sys2Proof
end

