-- ==== Sys2Proof/Syntax.lean ====
section
/-! DEFINITION. The operations of the part: one constructor of `Instr` for each row of spec/opcode_table.json,
with the operand types of 02 R40 to R68. -/

namespace Sys2Proof

/-- Producer of a scalar last-result pair (R42). -/
inductive SLast | sa | sb | ld
  deriving DecidableEq, Repr

/-- A scalar operand code (R40): `last p old` is entry .0 (`old = false`) or .1 of the pair. -/
inductive SReg
  | s (i : Fin 48)
  | so (i : Fin 8)
  | last (p : SLast) (old : Bool)
  | zero
  | ones
  deriving DecidableEq, Repr

/-- Producer of a vector last-result pair (R42). -/
inductive VLast | va | vb | ld
  deriving DecidableEq, Repr

/-- A vector operand code (R41). -/
inductive VReg
  | v (i : Fin 32)
  | vo (i : Fin 8)
  | last (p : VLast) (old : Bool)
  | zero
  | lane
  deriving DecidableEq, Repr

/-- A vector type code (R65). -/
inductive VType | i8 | u8 | i16 | u16 | i32 | u32 | fp32 | bf16 | fp16 | e4m3 | e5m2 | n4 | n8
  deriving DecidableEq, Repr

/-- The iteration qualifier (R36, R38). -/
inductive IQ | always | first | last
  deriving DecidableEq, Repr

/-- The fields common to every ctl word but the drain bit: qualifier and stall count (R36). -/
structure CtlQ where
  iq : IQ
  sc : Fin 16
  deriving DecidableEq, Repr

/-- Rounding modes (R97). -/
inductive Rm | rne | rtz | rdn | rup | rna
  deriving DecidableEq, Repr

/-- Saturation modes (R55, R98). -/
inductive SatMode | dflt | sat | ieee | wrap
  deriving DecidableEq, Repr

/-- Element sizes of BRP, VST, VGTH and VSCT: 4, 8, 16 or 32 bits (R55, R62). -/
inductive ESize | b4 | b8 | b16 | b32
  deriving DecidableEq, Repr

/-- Access sizes of the scalar memory forms (R62). -/
inductive Size | b | h | w | d
  deriving DecidableEq, Repr

/-- Types of the atomics (R62). -/
inductive AType | i32 | i64 | fp32
  deriving DecidableEq, Repr

/-- Operations of the atomics (R62), as XATM names them too (R393). -/
inductive AOp | add | min | max | xch | and | or | cas
  deriving DecidableEq, Repr

/-- Scope of FENCE (R62). -/
inductive FScope | core | clus | die | pkg | sys
  deriving DecidableEq, Repr

/-- Kind of FENCE (R62). -/
inductive FKind | st | ld | full
  deriving DecidableEq, Repr

/-- Conditions of VCMP (R64). -/
inductive Cond | eq | ne | lt | le | gt | ge | un
  deriving DecidableEq, Repr

/-- Operations of VRED and VSCAN (R64). -/
inductive RedOp | add | min | max | and | or | xor
  deriving DecidableEq, Repr

/-- Patterns of VSHUF (R263). -/
inductive Shuf
  | dup0 | rev | evod | zip
  | bfly (c : Fin 10)
  deriving DecidableEq, Repr

/-- Cell operations of MMA (R67). -/
inductive CellOp | prod | hamm | bxnor
  deriving DecidableEq, Repr

/-- Scope of TLBI (R219). -/
inductive TlbScope | core | die | part
  deriving DecidableEq, Repr

/-- Special registers (R161). -/
inductive Spr
  | tempo | ttempo | lidx | gsize
  | tile (i : Fin 4)
  | taskn | phase | pcid | tags
  | xst (t : Fin 64)
  | csw | nfmtV | nfmtM | amax | fps
  | lix (n : Fin 6)
  | lct (n : Fin 6)
  | lsd (n : Fin 6)
  | asid | gen | frec
  deriving DecidableEq, Repr

/-- What FRD and FWR name in a frozen context (R429). -/
inductive FSel
  | s (code : Fin 62)
  | v (code : Fin 46) (word : Fin 64)
  | p (i : Fin 8) (word : Fin 16)
  | g (i : Fin 24)
  | spr (r : Spr)
  | snap (slot : Fin 8) (opnd : Fin 8) (word : Fin 64)
  | recd (word : Fin 32)
  | defr (e : Fin 24) (word : Fin 16)
  | rstk (i : Fin 8)
  | depth
  | loop (n : Fin 6) (word : Fin 6)
  deriving DecidableEq, Repr

/-- Partition configuration fields written under R486, other than PWAY and PASIDT.N, which have rows of their own. -/
inductive PCfg
  | pclus
  | pmem (k : Fin 8)
  | psrow | phbm | pring | pkeys | pasidtBase | pfrz | prkey
  deriving DecidableEq, Repr

/-- Units of the targeted self-test (R436). -/
inductive TUnit | bank | link | core | segment | hbm
  deriving DecidableEq, Repr

/-- Outcomes of the targeted self-test (R412 TEST, R437). -/
inductive TRes | pass | spare | retired
  deriving DecidableEq, Repr

/-- Management messages (R526). -/
inductive Mctp
  | control
  | pldm
  | certChain
  | attest (nonce : BitVec 512)
  | retireList
  | clearRetire (entry : Nat) (sigOk : Bool)
  | update (image : Nat) (sigOk : Bool)
  deriving DecidableEq, Repr

/-- The operations of the part, one constructor for each row of spec/opcode_table.json. -/
inductive Instr
  -- ctl slot (R54 to R56, R123)
  | nop (q : CtlQ)
  | br (cond : SReg) (ifz : Bool) (off : BitVec 12) (d : Bool) (q : CtlQ)
  | brp (m : Fin 8) (ifnone : Bool) (esz : ESize) (off : BitVec 12) (d : Bool) (q : CtlQ)
  | jmp (target : BitVec 14) (d : Bool) (q : CtlQ)
  | call (target : BitVec 14) (d : Bool) (q : CtlQ)
  | ret (d : Bool) (q : CtlQ)
  | swap (d : Bool) (q : CtlQ)
  | lset (n : Fin 6) (q : CtlQ)
  | loop (n : Fin 6) (b : BitVec 12) (q : CtlQ)
  | lbrk (n : Fin 6) (q : CtlQ)
  | pfx (rm : Rm) (sat : SatMode) (q : CtlQ)
  | bar (b : Fin 16) (q : CtlQ)
  | bara (b : Fin 16) (q : CtlQ)
  | barw (b : Fin 16) (q : CtlQ)
  | wtany (mask : SReg) (q : CtlQ)
  | wtall (mask : SReg) (q : CtlQ)
  | tend (q : CtlQ)
  | safe (id : BitVec 16) (q : CtlQ)
  | ifence (q : CtlQ)
  | trap (code : BitVec 16) (q : CtlQ)
  | brk (code : BitVec 16) (q : CtlQ)
  -- scalar slots (R57 to R60)
  | add (d a b : SReg)
  | sub (d a b : SReg)
  | and (d a b : SReg)
  | or (d a b : SReg)
  | xor (d a b : SReg)
  | andn (d a b : SReg)
  | shl (d a b : SReg)
  | shr (d a b : SReg)
  | sar (d a b : SReg)
  | rotl (d a b : SReg)
  | min (d a b : SReg)
  | max (d a b : SReg)
  | minu (d a b : SReg)
  | maxu (d a b : SReg)
  | seq (d a b : SReg)
  | sne (d a b : SReg)
  | slt (d a b : SReg)
  | sltu (d a b : SReg)
  | sle (d a b : SReg)
  | clz (d a : SReg)
  | ctz (d a : SReg)
  | popc (d a : SReg)
  | movo (d a : SReg)
  | ffrdy (d a : SReg)
  | mul (d a b : SReg)
  | mulh (d a b : SReg)
  | mulhu (d a b : SReg)
  | divu (d a b : SReg)
  | remu (d a b : SReg)
  | sel (d a b c : SReg)
  | addsc (d a b : SReg) (sh : Fin 8)
  | addi (d a : SReg) (imm : BitVec 14)
  | andImm (d a : SReg) (imm : BitVec 14)
  | orImm (d a : SReg) (imm : BitVec 14)
  | xorImm (d a : SReg) (imm : BitVec 14)
  | andnImm (d a : SReg) (imm : BitVec 14)
  | shlImm (d a : SReg) (n : Fin 64)
  | shrImm (d a : SReg) (n : Fin 64)
  | sarImm (d a : SReg) (n : Fin 64)
  | rotlImm (d a : SReg) (n : Fin 64)
  | li (d : SReg) (imm : BitVec 20)
  | lui (d : SReg) (q : Fin 4) (imm : BitVec 16)
  | bext (d a : SReg) (pos : Fin 64) (lenM1 : Fin 64)
  | bins (d a : SReg) (pos : Fin 64) (lenM1 : Fin 64)
  | movs (d : SReg) (r : Spr)
  | movt (s : SReg) (r : Spr)
  | stg (a : SReg) (g : Fin 24)
  -- handler and translation forms, sa only (R179, R219, R427)
  | frd (d : SReg) (h : Fin 4) (sel : FSel)
  | fwr (s : SReg) (h : Fin 4) (sel : FSel)
  | fres (h : Fin 4)
  | fresPc (s : SReg) (h : Fin 4)
  | fkill (s : SReg) (h : Fin 4)
  | fpassSup (s : SReg) (h : Fin 4)
  | fpassHost (s : SReg) (h : Fin 4)
  | fstat (d : SReg) (h : Fin 4)
  | hmov (hd hs : Fin 4)
  | hmovMove (hd hs : Fin 4)
  | hmovClear (hd : Fin 4)
  | tlbiAll (s : SReg) (sc : TlbScope)
  | tlbiAsid (s : SReg) (sc : TlbScope)
  | tlbiPage (s : SReg) (sc : TlbScope)
  -- memory slot (R61 to R63)
  | ld (v base : SReg) (z : Size) (x : Bool) (off : BitVec 10)
  | st (v base : SReg) (z : Size) (off : BitVec 10)
  | lde (v base : SReg) (z : Size) (x : Bool) (t : Fin 64)
  | ste (v base : SReg) (z : Size) (t : Fin 64)
  | vld (v : VReg) (base : SReg) (off : BitVec 9)
  | vst (v : VReg) (base : SReg) (m : Fin 8) (e : ESize) (off : BitVec 9)
  | vgth (v : VReg) (base : SReg) (i : VReg) (m : Fin 8) (e : ESize)
  | vsct (v : VReg) (base : SReg) (i : VReg) (m : Fin 8) (e : ESize)
  | aadd (d base val : SReg) (ty : AType)
  | amin (d base val : SReg) (ty : AType)
  | amax (d base val : SReg) (ty : AType)
  | axch (d base val : SReg) (ty : AType)
  | aand (d base val : SReg) (ty : AType)
  | aor (d base val : SReg) (ty : AType)
  | acas (d base val : SReg) (ty : AType)
  | aaddE (d base val : SReg) (t : Fin 64) (ty : AType)
  | aminE (d base val : SReg) (t : Fin 64) (ty : AType)
  | amaxE (d base val : SReg) (t : Fin 64) (ty : AType)
  | axchE (d base val : SReg) (t : Fin 64) (ty : AType)
  | aandE (d base val : SReg) (t : Fin 64) (ty : AType)
  | aorE (d base val : SReg) (t : Fin 64) (ty : AType)
  | acasE (d base val : SReg) (t : Fin 64) (ty : AType)
  | aord (seq base val : SReg) (t : Fin 64) (fl : Bool)
  | fence (sc : FScope) (k : FKind)
  | tagr (s base : SReg) (off : BitVec 10)
  | tagw (s base : SReg) (off : BitVec 10)
  -- vector slots (R64 to R66)
  | vadd (d a b : VReg) (m : Fin 8) (t : VType)
  | vsub (d a b : VReg) (m : Fin 8) (t : VType)
  | vmul (d a b : VReg) (m : Fin 8) (t : VType)
  | vfma (d a b : VReg) (m : Fin 8) (t : VType)
  | vfms (d a b : VReg) (m : Fin 8) (t : VType)
  | vfnma (d a b : VReg) (m : Fin 8) (t : VType)
  | vmin (d a b : VReg) (m : Fin 8) (t : VType)
  | vmax (d a b : VReg) (m : Fin 8) (t : VType)
  | vabs (d a : VReg) (m : Fin 8) (t : VType)
  | vneg (d a : VReg) (m : Fin 8) (t : VType)
  | vand (d a b : VReg) (m : Fin 8) (t : VType)
  | vor (d a b : VReg) (m : Fin 8) (t : VType)
  | vxor (d a b : VReg) (m : Fin 8) (t : VType)
  | vshl (d a b : VReg) (m : Fin 8) (t : VType)
  | vshr (d a b : VReg) (m : Fin 8) (t : VType)
  | vsar (d a b : VReg) (m : Fin 8) (t : VType)
  | vaddw (d a b : VReg) (m : Fin 8) (t : VType)
  | vmulw (d a b : VReg) (m : Fin 8) (t : VType)
  | vdot4 (d a b : VReg) (m : Fin 8) (t : VType)
  | vcmp (c : Cond) (p : Fin 8) (a b : VReg) (m : Fin 8) (t : VType)
  | vsel (d a b : VReg) (m : Fin 8) (t : VType)
  | vmov (d a : VReg) (m : Fin 8) (t : VType)
  | vbcst (d : VReg) (s : SReg) (m : Fin 8) (t : VType)
  | vperm (d a b : VReg) (m : Fin 8) (t : VType)
  | vshuf (d a : VReg) (p : Shuf) (m : Fin 8) (t : VType)
  | vrot (d a : VReg) (s : SReg) (m : Fin 8) (t : VType)
  | vred (d a : VReg) (op : RedOp) (m : Fin 8) (t : VType)
  | vscan (d a : VReg) (op : RedOp) (m : Fin 8) (t : VType)
  | vcvt (d a : VReg) (st : VType) (m : Fin 8) (dt : VType)
  | vpack (d a : VReg) (st : VType) (m : Fin 8) (dt : VType)
  | vunpk (d a : VReg) (st : VType) (m : Fin 8) (dt : VType)
  | vpln (d a : VReg) (pM1 : Fin 16) (m : Fin 8) (t : VType)
  | vunpl (d a : VReg) (pM1 : Fin 16) (m : Fin 8) (t : VType)
  | vrcp (d a : VReg) (m : Fin 8)
  | vrsq (d a : VReg) (m : Fin 8)
  | vsqrt (d a : VReg) (m : Fin 8)
  | vdiv (d a b : VReg) (m : Fin 8)
  | vexp2 (d a : VReg) (m : Fin 8)
  | vlog2 (d a : VReg) (m : Fin 8)
  | vrcpa (d a : VReg) (m : Fin 8)
  | vrsqa (d a : VReg) (m : Fin 8)
  | vexpa (d a : VReg) (m : Fin 8)
  | vdraw (d a : VReg) (s : SReg) (m : Fin 8)
  | vamax (a : VReg) (m : Fin 8) (t : VType)
  | pand (pd pa pb : Fin 8)
  | por (pd pa pb : Fin 8)
  | pxor (pd pa pb : Fin 8)
  | pnot (pd pa : Fin 8)
  | pcnt (d : SReg) (pa : Fin 8) (t : VType)
  -- matrix slot (R67, R298, R320)
  | mma (c l : Fin 64) (g : Bool) (op : CellOp) (at_ : Bool)
  | mlat (g : Bool)
  | mfmt (a : SReg)
  | chb (s : SReg)
  | chc (c : Fin 64) (s : SReg) (t : Fin 64)
  | chs (c : Fin 64) (s : SReg) (t : Fin 64)
  | chp (c l : Fin 64) (s : SReg)
  | chr (c l : Fin 64)
  | chf (c : Fin 64)
  | chfAbort (c : Fin 64)
  | lkr (v : Fin 32) (k : Fin 8) (row : Fin 32)
  | lkw (v : Fin 32) (k : Fin 8) (row : Fin 32)
  | lkz (k : Fin 8)
  -- exchange slot (R347, R386, R393)
  | xcp (t : Fin 64) (b : Fin 16) (ndimM1 : Fin 8) (sm dm at_ : Bool)
  | xcnvPl (t : Fin 64) (b : Fin 16) (at_ : Bool)
  | xcnvFl (t : Fin 64) (b : Fin 16) (at_ : Bool)
  | xcprGet (t : Fin 64) (b : Fin 16) (at_ : Bool)
  | xcprPut (t : Fin 64) (b : Fin 16) (at_ : Bool)
  | rfen
  | xpf (t : Fin 64) (b : Fin 16) (at_ : Bool)
  | xrte (t : Fin 64) (b : Fin 16) (at_ : Bool)
  | xcan (t : Fin 64)
  | xsnd (t : Fin 64) (b : Fin 16)
  | xrcv (t : Fin 64) (b : Fin 16)
  | xwr (t : Fin 64) (b : Fin 16) (mem at_ : Bool)
  | xrd (t : Fin 64) (b : Fin 16) (mem at_ : Bool)
  | xatm (t : Fin 64) (b : Fin 16) (mem at_ : Bool)
  -- events of a context
  | heldBundleIssue (c : CtxId)
  | branchTargetPresent (c : CtxId)
  | resultLanding (c : CtxId)
  | elasticAccessComplete (c : CtxId) (n : Nat) (lost : Bool)
  | orderedAtomicArrival (c : CtxId) (n : Nat)
  | deferredCondition (c : CtxId)
  | targetedSelfTest (place : Nat) (c : Option CtxId) (u : TUnit) (r : TRes)
  | secondSpawn (c : CtxId)
  | gangHoldEnd (g : Nat)
  | contextResume (c : CtxId)
  | barrierRelease (g : Nat) (b : Fin 16)
  | taskLengthExpiry (c : CtxId)
  | taskDrainEnd (c : CtxId)
  -- scheduling events
  | completionMsix (r : Nat)
  | enqueue (f : FuncId) (page : QueueId) (off : BitVec 12) (posted : Bool) (pasid : Option (BitVec 20)) (len : Nat) (data : BitVec 1024)
  | recordAdmit (q : QueueId)
  | gangStart (r : Nat)
  | sliceEnd (g : Nat)
  | switchOut (g : Nat)
  | switchIn (r : Nat)
  | replacementPost (q : QueueId) (addr : Word)
  | replacementLayerStep (q : QueueId)
  | flagTimePost (p : PartId) (block : BitVec 512)
  | evictionRedecide (p : PartId)
  | lastResortResign (p : PartId)
  | adjournComplete (g : Nat)
  | adjournResume (r : Nat)
  | vacancyReceipt (p : PartId)
  | ftclr (p : PartId)
  -- power, bring-up, link
  | throttleChange (tj pwr : Nat) (remote : Fin 3)
  | demandWithdrawal (src : Fin 4)
  | thermalTrip
  | ptmSample (ts : Nat)
  | packageReset (sigOk : Bool)
  | trainingComplete (dies stk : BitVec 8) (bridges : BitVec 4)
  | bgo (v : Word)
  -- fabric events
  | segmentDead (d : DieId) (desc : Bool)
  | segmentDrainEnd (d : DieId) (desc : Bool) (r : TRes)
  | packetInject (n : Nat)
  | packetReceive (n : Nat) (crcOk room : Bool)
  | requestRetry (n : Nat)
  | timedSlotSend (c : CtxId) (t : Fin 64)
  | timedSlotDeliver (g : Nat) (e : Nat × Bool)
  | holdBufferRelease (g : Nat)
  -- array, chain and engine events
  | arrayCommandStart (core : CoreId)
  | mlatLoadEnd (core : CoreId)
  | mmaLanding (core : CoreId)
  | linkFault (ch : Nat) (l : Fin 64) (reason : Fin 16)
  | closeStart (ch : Nat)
  | closeComplete (ch : Nat)
  | engineCommandStart (c : CtxId) (t : Fin 64)
  | engineCommandEnd (c : CtxId) (t : Fin 64) (lost : Bool)
  -- ends that follow a host operation, and performing in local storage
  | wsweepDone (p : PartId)
  | tlbhDone (p : PartId)
  | scrubReceipt (p : PartId)
  | keraseComplete (id : Fin 1024)
  | fixedStorePerform (c : CtxId)
  -- host, isolation and health events
  | hbmPatrolError (die : DieId) (row : Nat) (r : TRes)
  | registerWrite (off : BitVec 26) (v : Word)
  | partitionConfigWrite (p : PartId) (f : PCfg) (v : Word)
  | pasidtNWrite (p : PartId) (v : Word)
  | pwayWrite (p : PartId) (v : Word)
  | wsweep (p : PartId) (v : Word)
  | spbWrite (p : PartId) (v : Word)
  | functionLevelReset (f : FuncId)
  | partitionReset (p : PartId) (v : Word)
  | hactResume (p : PartId)
  | hactKill (p : PartId)
  | hactPass (p : PartId)
  | drel (p : PartId) (rcb : Word)
  | tlbh (p : PartId) (v : Word)
  | memoryWindowAccess (off : Nat) (wr : Option (List Byte)) (len : Nat)
  | scrubRequest (req : BitVec 512)
  | kimp (blob : BitVec 4096)
  | kerase (id : Fin 1024)
  | attest (nonce : BitVec 512)
  | lflush (p : PartId)
  | monitorWrite (p : PartId) (n : Fin 16) (w1 : Bool) (v : Word)
  | mctpMessage (m : Mctp)
  | hostLinkDown
  | hostLinkUp
  deriving DecidableEq, Repr

end Sys2Proof
end

