-- ==== Sys2Proof/Decode.lean ====
section
/-! DEFINITION. The tables of the types, the encodings of the slot words (02 R31 to R68, with the encodings of the
chapters of each slot), the decoder, the encoder, and the operands each instruction reads and writes. -/

namespace Sys2Proof

/-! ## Tables of the types -/

/-- Container size of an element in bits (R65, R244). -/
def VType.bits : VType → Nat
  | .n4 => 4
  | .i8 | .u8 | .e4m3 | .e5m2 | .n8 => 8
  | .i16 | .u16 | .bf16 | .fp16 => 16
  | .i32 | .u32 | .fp32 => 32

/-- Elements per register (R65). -/
def VType.count (t : VType) : Nat := 4096 / t.bits

/-- A floating-point type: FP32, BF16, FP16, E4M3, E5M2 (R250). -/
def VType.isFloat : VType → Bool
  | .fp32 | .bf16 | .fp16 | .e4m3 | .e5m2 => true
  | _ => false

/-- A narrow type: N4, N8 (R250). -/
def VType.isNarrow : VType → Bool
  | .n4 | .n8 => true
  | _ => false

/-- An integer type: I8 to U32 (R250). -/
def VType.isInt : VType → Bool
  | .i8 | .u8 | .i16 | .u16 | .i32 | .u32 => true
  | _ => false

/-- A signed integer type (R65). -/
def VType.isSigned : VType → Bool
  | .i8 | .i16 | .i32 => true
  | _ => false

/-- Type code of R65. -/
def VType.code : VType → Nat
  | .i8 => 0 | .u8 => 1 | .i16 => 2 | .u16 => 3 | .i32 => 4 | .u32 => 5
  | .fp32 => 8 | .bf16 => 9 | .fp16 => 10 | .e4m3 => 11 | .e5m2 => 12
  | .n4 => 16 | .n8 => 17

/-- Type of a code of R65; every other code is reserved. -/
def VType.ofCode : Nat → Option VType
  | 0 => some .i8 | 1 => some .u8 | 2 => some .i16 | 3 => some .u16 | 4 => some .i32 | 5 => some .u32
  | 8 => some .fp32 | 9 => some .bf16 | 10 => some .fp16 | 11 => some .e4m3 | 12 => some .e5m2
  | 16 => some .n4 | 17 => some .n8
  | _ => none

/-- Code of a scalar operand (R40). -/
def SReg.code : SReg → Nat
  | .s i => i.val
  | .so i => 48 + i.val
  | .last .sa false => 56 | .last .sa true => 57
  | .last .sb false => 58 | .last .sb true => 59
  | .last .ld false => 60 | .last .ld true => 61
  | .zero => 62
  | .ones => 63

/-- Operand of a 6-bit scalar code (R40). -/
def SReg.ofCode (c : Nat) : SReg :=
  if h : c < 48 then .s ⟨c, h⟩
  else if h : c < 56 then .so ⟨c - 48, by omega⟩
  else if c = 56 then .last .sa false
  else if c = 57 then .last .sa true
  else if c = 58 then .last .sb false
  else if c = 59 then .last .sb true
  else if c = 60 then .last .ld false
  else if c = 61 then .last .ld true
  else if c = 62 then .zero
  else .ones

/-- Scalar codes that may stand in a destination field (R40). -/
def SReg.destOk : SReg → Bool
  | .s _ | .so _ | .zero => true
  | .last _ _ | .ones => false

/-- Code of a vector operand (R41). -/
def VReg.code : VReg → Nat
  | .v i => i.val
  | .vo i => 32 + i.val
  | .last .va false => 40 | .last .va true => 41
  | .last .vb false => 42 | .last .vb true => 43
  | .last .ld false => 44 | .last .ld true => 45
  | .zero => 46
  | .lane => 47

/-- Operand of a vector code; 48 to 63 are reserved (R41). -/
def VReg.ofCode (c : Nat) : Option VReg :=
  if h : c < 32 then some (.v ⟨c, h⟩)
  else if h : c < 40 then some (.vo ⟨c - 32, by omega⟩)
  else if c = 40 then some (.last .va false)
  else if c = 41 then some (.last .va true)
  else if c = 42 then some (.last .vb false)
  else if c = 43 then some (.last .vb true)
  else if c = 44 then some (.last .ld false)
  else if c = 45 then some (.last .ld true)
  else if c = 46 then some .zero
  else if c = 47 then some .lane
  else none

/-- Vector codes that may stand in a destination field (R41). -/
def VReg.destOk : VReg → Bool
  | .v _ | .vo _ | .zero => true
  | .last _ _ | .lane => false

/-- A vector operand read under type `t`: the lane-index vector takes no floating-point type (R41). -/
def VReg.typeOk (r : VReg) (t : VType) : Bool :=
  match r with
  | .lane => !t.isFloat
  | _ => true

/-- A group of `k` registers at base `r`: aligned, in the main file, not past v31 (R248). -/
def VReg.groupOk (r : VReg) (k : Nat) : Bool :=
  match r with
  | .v i => i.val % k == 0 && decide (i.val + k ≤ 32)
  | _ => false

/-- Result type and group size of VADDW and VMULW; N4 and N8 follow NFMT.V, so only the size is given here (R256). -/
def VType.widenGroup : VType → Option Nat
  | .i8 | .u8 | .n8 | .n4 | .e4m3 | .e5m2 => some 4
  | .i16 | .u16 | .bf16 | .fp16 => some 2
  | .i32 | .u32 | .fp32 => none

/-- Pairs that VUNPK accepts (R268). -/
def VType.unpackOk (st dt : VType) : Bool :=
  (dt.bits == 2 * st.bits || dt.bits == 4 * st.bits) &&
  (((st.isInt || st.isNarrow) && (dt.isSigned || dt == .fp16 || dt == .bf16 || dt == .fp32)) ||
   ((st == .u8 || st == .u16) && (dt.isInt && !dt.isSigned)) ||
   (st.isFloat && (dt == .fp16 || dt == .bf16 || dt == .fp32)))

/-- Pairs that VPACK accepts (R267): distinct conversions whose size ratio is 2 or 4. -/
def VType.packOk (st dt : VType) : Bool :=
  st.bits == 2 * dt.bits || st.bits == 4 * dt.bits

/-- Types of VPLN and VUNPL, with the plane counts each accepts (R270). -/
def VType.planeOk (t : VType) (pM1 : Nat) : Bool :=
  match t with
  | .i8 | .u8 | .n8 => decide (pM1 < 8)
  | .i16 | .u16 => true
  | _ => false

/-- A spr number and index of R161, with idx 0 on a register that is not indexed (R60). -/
def Spr.ofCode (n idx : Nat) : Option Spr :=
  if n = 0x11 then (if h : idx < 64 then some (.xst ⟨idx, h⟩) else none)
  else if n = 0x20 then (if h : idx < 6 then some (.lix ⟨idx, h⟩) else none)
  else if n = 0x21 then (if h : idx < 6 then some (.lct ⟨idx, h⟩) else none)
  else if n = 0x22 then (if h : idx < 6 then some (.lsd ⟨idx, h⟩) else none)
  else if idx ≠ 0 then none
  else if n = 0x00 then some .tempo
  else if n = 0x01 then some .ttempo
  else if n = 0x02 then some .lidx
  else if n = 0x03 then some .gsize
  else if n = 0x04 then some (.tile 0)
  else if n = 0x05 then some (.tile 1)
  else if n = 0x06 then some (.tile 2)
  else if n = 0x07 then some (.tile 3)
  else if n = 0x08 then some .taskn
  else if n = 0x09 then some .phase
  else if n = 0x0A then some .pcid
  else if n = 0x10 then some .tags
  else if n = 0x12 then some .csw
  else if n = 0x18 then some .nfmtV
  else if n = 0x19 then some .nfmtM
  else if n = 0x1A then some .amax
  else if n = 0x1B then some .fps
  else if n = 0x28 then some .asid
  else if n = 0x29 then some .gen
  else if n = 0x30 then some .frec
  else none

/-- spr number and idx of a special register (R161). -/
def Spr.code : Spr → Nat × Nat
  | .tempo => (0x00, 0) | .ttempo => (0x01, 0) | .lidx => (0x02, 0) | .gsize => (0x03, 0)
  | .tile i => (0x04 + i.val, 0)
  | .taskn => (0x08, 0) | .phase => (0x09, 0) | .pcid => (0x0A, 0)
  | .tags => (0x10, 0)
  | .xst t => (0x11, t.val)
  | .csw => (0x12, 0)
  | .nfmtV => (0x18, 0) | .nfmtM => (0x19, 0) | .amax => (0x1A, 0) | .fps => (0x1B, 0)
  | .lix n => (0x20, n.val) | .lct n => (0x21, n.val) | .lsd n => (0x22, n.val)
  | .asid => (0x28, 0) | .gen => (0x29, 0) | .frec => (0x30, 0)

/-- Special registers whose access in R161 is RW or W1C; a MOVT of any other raises ILLEGAL (R163). -/
def Spr.writable : Spr → Bool
  | .tags | .csw | .nfmtV | .nfmtM | .amax | .fps | .lct _ | .lsd _ => true
  | _ => false

/-- Selector bits [17:0] of what FRD and FWR name (R429). -/
def FSel.code : FSel → Nat
  | .s c => 0x0 * 16384 + c.val * 64
  | .v c w => 0x1 * 16384 + c.val * 64 + w.val
  | .p i w => 0x2 * 16384 + i.val * 64 + w.val
  | .g i => 0x3 * 16384 + i.val * 64
  | .spr r => 0x4 * 16384 + r.code.1 * 64 + r.code.2
  | .snap sl o w => 0x5 * 16384 + (sl.val * 32 + o.val * 4) * 64 + w.val
  | .recd w => 0x6 * 16384 + w.val
  | .defr e w => 0x7 * 16384 + e.val * 64 + w.val
  | .rstk i => 0x8 * 16384 + i.val * 64
  | .depth => 0x8 * 16384 + 8 * 64
  | .loop n w => 0x8 * 16384 + (16 + n.val) * 64 + w.val

/-- What a class, idx and word of FRD or FWR name; anything outside R429's ranges is refused (detail 0x04). -/
def FSel.ofCode (cls idx word : Nat) : Option FSel :=
  if cls = 0 then (if h : idx < 62 then (if word = 0 then some (.s ⟨idx, h⟩) else none) else none)
  else if cls = 1 then (if h : idx < 46 then (if hw : word < 64 then some (.v ⟨idx, h⟩ ⟨word, hw⟩) else none) else none)
  else if cls = 2 then (if h : idx < 8 then (if hw : word < 16 then some (.p ⟨idx, h⟩ ⟨word, hw⟩) else none) else none)
  else if cls = 3 then (if h : idx < 24 then (if word = 0 then some (.g ⟨idx, h⟩) else none) else none)
  else if cls = 4 then (Spr.ofCode idx word).map .spr
  else if cls = 5 then
    (if h : idx < 256 then
      (if idx % 4 = 0 then
        (if hw : word < 64 then some (.snap ⟨idx / 32, by omega⟩ ⟨idx / 4 % 8, by omega⟩ ⟨word, hw⟩) else none)
       else none)
     else none)
  else if cls = 6 then (if idx = 0 then (if hw : word < 32 then some (.recd ⟨word, hw⟩) else none) else none)
  else if cls = 7 then (if h : idx < 24 then (if hw : word < 16 then some (.defr ⟨idx, h⟩ ⟨word, hw⟩) else none) else none)
  else if cls = 8 then
    (if h : idx < 8 then (if word = 0 then some (.rstk ⟨idx, h⟩) else none)
     else if idx = 8 then (if word = 0 then some .depth else none)
     else if h : 16 ≤ idx ∧ idx < 22 then
       (if hw : word < 6 then some (.loop ⟨idx - 16, by omega⟩ ⟨word, hw⟩) else none)
     else none)
  else none

def Rm.code : Rm → Nat | .rne => 0 | .rtz => 1 | .rdn => 2 | .rup => 3 | .rna => 4
def Rm.ofCode : Nat → Option Rm
  | 0 => some .rne | 1 => some .rtz | 2 => some .rdn | 3 => some .rup | 4 => some .rna | _ => none

def SatMode.code : SatMode → Nat | .dflt => 0 | .sat => 1 | .ieee => 2 | .wrap => 3
def SatMode.ofCode : Nat → Option SatMode
  | 0 => some .dflt | 1 => some .sat | 2 => some .ieee | 3 => some .wrap | _ => none

/-- esz of BRP: 00 names 1,024 elements, that is 4-bit ones (R55, R124). -/
def ESize.code : ESize → Nat | .b4 => 0 | .b8 => 1 | .b16 => 2 | .b32 => 3
def ESize.ofCode : Nat → Option ESize
  | 0 => some .b4 | 1 => some .b8 | 2 => some .b16 | 3 => some .b32 | _ => none

/-- Bits of an element of e or esz (R55, R62). -/
def ESize.bits : ESize → Nat | .b4 => 4 | .b8 => 8 | .b16 => 16 | .b32 => 32

def Size.code : Size → Nat | .b => 0 | .h => 1 | .w => 2 | .d => 3
def Size.ofCode : Nat → Option Size
  | 0 => some .b | 1 => some .h | 2 => some .w | 3 => some .d | _ => none

/-- Bytes of an access of size z (R62). -/
def Size.bytes : Size → Nat | .b => 1 | .h => 2 | .w => 4 | .d => 8

def AType.code : AType → Nat | .i32 => 0 | .i64 => 1 | .fp32 => 2
def AType.ofCode : Nat → Option AType
  | 0 => some .i32 | 1 => some .i64 | 2 => some .fp32 | _ => none

/-- Bytes of an atomic of type ty (R62). -/
def AType.bytes : AType → Nat | .i64 => 8 | .i32 | .fp32 => 4

/-- FP32 is accepted only with AADD, AMIN and AMAX (R62). -/
def AOp.typeOk (o : AOp) (t : AType) : Bool :=
  t != .fp32 || o == .add || o == .min || o == .max

def AOp.code : AOp → Nat
  | .add => 0 | .min => 1 | .max => 2 | .xch => 3 | .and => 4 | .or => 5 | .cas => 6
def AOp.ofCode : Nat → Option AOp
  | 0 => some .add | 1 => some .min | 2 => some .max | 3 => some .xch | 4 => some .and | 5 => some .or
  | 6 => some .cas | _ => none

def FScope.code : FScope → Nat | .core => 0 | .clus => 1 | .die => 2 | .pkg => 3 | .sys => 4
def FScope.ofCode : Nat → Option FScope
  | 0 => some .core | 1 => some .clus | 2 => some .die | 3 => some .pkg | 4 => some .sys | _ => none

def FKind.code : FKind → Nat | .st => 0 | .ld => 1 | .full => 2
def FKind.ofCode : Nat → Option FKind
  | 0 => some .st | 1 => some .ld | 2 => some .full | _ => none

def Cond.code : Cond → Nat | .eq => 0 | .ne => 1 | .lt => 2 | .le => 3 | .gt => 4 | .ge => 5 | .un => 6
def Cond.ofCode : Nat → Option Cond
  | 0 => some .eq | 1 => some .ne | 2 => some .lt | 3 => some .le | 4 => some .gt | 5 => some .ge
  | 6 => some .un | _ => none

def RedOp.code : RedOp → Nat | .add => 0 | .min => 1 | .max => 2 | .and => 3 | .or => 4 | .xor => 5
def RedOp.ofCode : Nat → Option RedOp
  | 0 => some .add | 1 => some .min | 2 => some .max | 3 => some .and | 4 => some .or | 5 => some .xor | _ => none

/-- imm6 of VSHUF (R263). -/
def Shuf.code : Shuf → Nat
  | .dup0 => 0 | .rev => 1 | .evod => 2 | .zip => 3 | .bfly c => 16 + c.val
def Shuf.ofCode (n : Nat) : Option Shuf :=
  if n = 0 then some .dup0
  else if n = 1 then some .rev
  else if n = 2 then some .evod
  else if n = 3 then some .zip
  else if h : 16 ≤ n ∧ n < 26 then some (.bfly ⟨n - 16, by omega⟩)
  else none

def CellOp.code : CellOp → Nat | .prod => 0 | .hamm => 1 | .bxnor => 2
def CellOp.ofCode : Nat → Option CellOp
  | 0 => some .prod | 1 => some .hamm | 2 => some .bxnor | _ => none

def TlbScope.code : TlbScope → Nat | .core => 0 | .die => 1 | .part => 2
def TlbScope.ofCode : Nat → Option TlbScope
  | 0 => some .core | 1 => some .die | 2 => some .part | _ => none

def IQ.code : IQ → Nat | .always => 0 | .first => 1 | .last => 2
def IQ.ofCode : Nat → Option IQ
  | 0 => some .always | 1 => some .first | 2 => some .last | _ => none

/-! ## What a typed instruction still may not be

The conditions of R51 that a decoded word can still break: the first broken one, 0x04 before 0x05. -/

/-- The first broken condition of a list of (holds, detail). -/
def firstFlaw : List (Bool × Nat) → Option Nat
  | [] => none
  | (ok, d) :: rest => if ok then firstFlaw rest else some d

/-- Conditions of a scalar destination (R40). -/
def flawS (d : SReg) : Option Nat := firstFlaw [(d.destOk, 5)]

/-- Conditions of an element-wise vector form with the given accepted types and sources (R41, R250). -/
def flawV (accepted : Bool) (d : VReg) (srcs : List VReg) (t : VType) : Option Nat :=
  firstFlaw [(accepted, 4), (srcs.all (·.typeOk t), 4), (d.destOk, 5)]

/-- Types of the arithmetic rows of R250: INT, NAR, FLT and F8, that is every type. -/
def VType.arith (t : VType) : Bool := t.isInt || t.isNarrow || t.isFloat

/-- The ILLEGAL detail of R51 that a decoded instruction raises, if any (0x04 before 0x05; log entry 8). -/
def Instr.flaw : Instr → Option Nat
  -- ctl (R55)
  | .jmp t _ _ | .call t _ _ => firstFlaw [(decide (t.toNat < 8320), 4)]
  | .loop _ b _ => firstFlaw [(decide (1 ≤ b.toNat), 4)]
  -- scalar (R40, R57, R59)
  | .add d _ _ | .sub d _ _ | .and d _ _ | .or d _ _ | .xor d _ _ | .andn d _ _ | .shl d _ _ | .shr d _ _
  | .sar d _ _ | .rotl d _ _ | .min d _ _ | .max d _ _ | .minu d _ _ | .maxu d _ _ | .seq d _ _ | .sne d _ _
  | .slt d _ _ | .sltu d _ _ | .sle d _ _ | .mul d _ _ | .mulh d _ _ | .mulhu d _ _ | .divu d _ _ | .remu d _ _
    => flawS d
  | .clz d _ | .ctz d _ | .popc d _ | .ffrdy d _ => flawS d
  | .movo d _ => firstFlaw [((match d with | .so _ => true | _ => false), 5)]
  | .sel d _ _ _ => flawS d
  | .addsc d _ _ _ => flawS d
  | .addi d _ _ | .andImm d _ _ | .orImm d _ _ | .xorImm d _ _ | .andnImm d _ _ => flawS d
  | .shlImm d _ _ | .shrImm d _ _ | .sarImm d _ _ | .rotlImm d _ _ => flawS d
  | .li d _ | .lui d _ _ => flawS d
  | .bext d _ pos len | .bins d _ pos len => firstFlaw [(decide (pos.val + len.val + 1 ≤ 64), 4), (d.destOk, 5)]
  | .movs d _ => flawS d
  | .movt _ r => firstFlaw [(r.writable, 4)]
  | .frd d _ _ => flawS d
  | .fstat d _ => flawS d
  -- memory (R62)
  | .ld v _ _ _ _ => flawS v
  | .lde v _ _ _ _ => flawS v
  | .vld v _ _ => firstFlaw [(v.destOk, 5)]
  | .vgth v _ _ _ e => firstFlaw [(e != .b4, 4), (v.destOk, 5)]
  | .vsct _ _ _ _ e => firstFlaw [(e != .b4, 4)]
  | .aadd d _ _ t => firstFlaw [(AOp.typeOk .add t, 4), (d.destOk, 5)]
  | .amin d _ _ t => firstFlaw [(AOp.typeOk .min t, 4), (d.destOk, 5)]
  | .amax d _ _ t => firstFlaw [(AOp.typeOk .max t, 4), (d.destOk, 5)]
  | .axch d _ _ t => firstFlaw [(AOp.typeOk .xch t, 4), (d.destOk, 5)]
  | .aand d _ _ t => firstFlaw [(AOp.typeOk .and t, 4), (d.destOk, 5)]
  | .aor d _ _ t => firstFlaw [(AOp.typeOk .or t, 4), (d.destOk, 5)]
  | .acas d _ _ t => firstFlaw [(AOp.typeOk .cas t, 4), (d.destOk, 5)]
  | .aaddE d _ _ _ t => firstFlaw [(AOp.typeOk .add t, 4), (d.destOk, 5)]
  | .aminE d _ _ _ t => firstFlaw [(AOp.typeOk .min t, 4), (d.destOk, 5)]
  | .amaxE d _ _ _ t => firstFlaw [(AOp.typeOk .max t, 4), (d.destOk, 5)]
  | .axchE d _ _ _ t => firstFlaw [(AOp.typeOk .xch t, 4), (d.destOk, 5)]
  | .aandE d _ _ _ t => firstFlaw [(AOp.typeOk .and t, 4), (d.destOk, 5)]
  | .aorE d _ _ _ t => firstFlaw [(AOp.typeOk .or t, 4), (d.destOk, 5)]
  | .acasE d _ _ _ t => firstFlaw [(AOp.typeOk .cas t, 4), (d.destOk, 5)]
  | .tagr s _ _ => flawS s
  -- vector (R250, R256, R257, R260 to R273)
  | .vadd d a b _ t | .vsub d a b _ t | .vmul d a b _ t | .vmin d a b _ t | .vmax d a b _ t
    => flawV t.arith d [a, b] t
  | .vfma d a b _ t | .vfms d a b _ t | .vfnma d a b _ t => flawV t.arith d [a, b] t
  | .vabs d a _ t | .vneg d a _ t => flawV t.arith d [a] t
  | .vand d a b _ t | .vor d a b _ t | .vxor d a b _ t => flawV true d [a, b] t
  | .vshl d a b _ t | .vshr d a b _ t | .vsar d a b _ t => flawV (t.isInt || t.isNarrow) d [a, b] t
  | .vaddw d a b _ t | .vmulw d a b _ t =>
    firstFlaw [(t.widenGroup.isSome, 4), ([a, b].all (·.typeOk t), 4), (d.groupOk (t.widenGroup.getD 1), 5)]
  | .vdot4 d a b _ t =>
    flawV (t == .i8 || t == .u8 || t == .n8 || t == .e4m3 || t == .e5m2) d [a, b] t
  | .vcmp c p a b _ t =>
    firstFlaw [(c != .un || t.isFloat, 4), ([a, b].all (·.typeOk t), 4), (p != 0, 5)]
  | .vsel d a b _ t => flawV true d [a, b] t
  | .vmov d a _ t => flawV true d [a] t
  | .vbcst d _ _ t => flawV true d [] t
  | .vperm d a b _ t => flawV (t != .n4) d [a, b] t
  | .vshuf d a p _ t =>
    flawV (match p with | .bfly c => decide (2 ^ c.val < t.count) | _ => true) d [a] t
  | .vrot d a _ _ t => flawV true d [a] t
  | .vred d a op _ t | .vscan d a op _ t =>
    flawV (t.isInt || t.isNarrow || (t.isFloat && (op == .add || op == .min || op == .max))) d [a] t
  | .vcvt d a sty _ dt => firstFlaw [(sty != dt, 4), (a.typeOk sty, 4), (d.destOk, 5)]
  | .vpack d a sty _ dt =>
    firstFlaw [(VType.packOk sty dt, 4), (a.groupOk (sty.bits / dt.bits), 5), (d.destOk, 5)]
  | .vunpk d a sty _ dt =>
    firstFlaw [(VType.unpackOk sty dt, 4), (a.typeOk sty, 4), (d.groupOk (dt.bits / sty.bits), 5)]
  | .vpln d a pM1 _ t | .vunpl d a pM1 _ t => flawV (t.planeOk pM1.val) d [a] t
  | .vrcp d a _ | .vrsq d a _ | .vsqrt d a _ | .vexp2 d a _ | .vlog2 d a _ | .vrcpa d a _ | .vrsqa d a _
  | .vexpa d a _ => flawV true d [a] .fp32
  | .vdiv d a b _ => flawV true d [a, b] .fp32
  | .vdraw d a _ _ => firstFlaw [(a.groupOk 2, 5), (d.destOk, 5)]
  | .vamax a _ t => firstFlaw [(t.isFloat, 4), (a.typeOk t, 4)]
  | .pand pd _ _ | .por pd _ _ | .pxor pd _ _ | .pnot pd _ => firstFlaw [(pd != 0, 5)]
  | .pcnt d _ _ => firstFlaw [(d.destOk && d != .zero, 5)]
  | _ => none

/-! ## Decoding -/

/-- Bits [lo+n−1:lo] of a slot word. -/
def fld (w lo n : Nat) : Nat := w / 2 ^ lo % 2 ^ n

/-- Major opcode (R33). -/
def major (w : Nat) : Nat := fld w 26 6

/-- What decoding a slot answers: `none` for an empty slot, or the ILLEGAL detail of R51. -/
abbrev Parsed := Except Nat Instr

/-- Reserved bits must be zero (R51, detail 0x03). -/
def rsv (zero : Nat) (k : Parsed) : Parsed := if zero = 0 then k else .error 3

/-- An assigned field whose value may be reserved (R51, detail 0x04). -/
def val {α : Type} (o : Option α) (k : α → Parsed) : Parsed :=
  match o with
  | some x => k x
  | none => .error 4

def sr (w lo : Nat) : SReg := SReg.ofCode (fld w lo 6)
def bit (w i : Nat) : Bool := fld w i 1 == 1

/-- IQ and SC of a ctl word (R36); IQ = 11 is a reserved value (R38). -/
def ctlq (w : Nat) (k : CtlQ → Parsed) : Parsed :=
  val (IQ.ofCode (fld w 4 2)) fun iq => k { iq := iq, sc := Fin.ofNat 16 (fld w 0 4) }

/-- A loop level, 0 to 5 (R55). -/
def level (w : Nat) (k : Fin 6 → Parsed) : Parsed :=
  val (if h : fld w 23 3 < 6 then some ⟨fld w 23 3, h⟩ else none) k

/-- ctl words (R54 to R56, R123). -/
def decodeCtl (w : Nat) : Parsed :=
  match major w with
  | 0x00 => rsv (fld w 6 20) <| ctlq w fun q => .ok (.nop q)
  | 0x01 => ctlq w fun q => .ok (.br (sr w 20) (bit w 19) (BitVec.ofNat 12 (fld w 7 12)) (bit w 6) q)
  | 0x02 => rsv (fld w 19 1) <| val (ESize.ofCode (fld w 20 2)) fun e => ctlq w fun q =>
      .ok (.brp (Fin.ofNat 8 (fld w 23 3)) (bit w 22) e (BitVec.ofNat 12 (fld w 7 12)) (bit w 6) q)
  | 0x03 => rsv (fld w 21 5) <| ctlq w fun q => .ok (.jmp (BitVec.ofNat 14 (fld w 7 14)) (bit w 6) q)
  | 0x04 => rsv (fld w 21 5) <| ctlq w fun q => .ok (.call (BitVec.ofNat 14 (fld w 7 14)) (bit w 6) q)
  | 0x05 => rsv (fld w 7 19) <| ctlq w fun q => .ok (.ret (bit w 6) q)
  | 0x06 => rsv (fld w 7 19) <| ctlq w fun q => .ok (.swap (bit w 6) q)
  | 0x08 => rsv (fld w 6 17) <| level w fun n => ctlq w fun q => .ok (.lset n q)
  | 0x09 => rsv (fld w 6 5) <| level w fun n => ctlq w fun q => .ok (.loop n (BitVec.ofNat 12 (fld w 11 12)) q)
  | 0x0A => rsv (fld w 6 17) <| level w fun n => ctlq w fun q => .ok (.lbrk n q)
  | 0x0C => rsv (fld w 6 15) <| val (Rm.ofCode (fld w 23 3)) fun r => val (SatMode.ofCode (fld w 21 2)) fun s =>
      ctlq w fun q => .ok (.pfx r s q)
  | 0x10 => rsv (fld w 6 16) <| ctlq w fun q => .ok (.bar (Fin.ofNat 16 (fld w 22 4)) q)
  | 0x11 => rsv (fld w 6 16) <| ctlq w fun q => .ok (.bara (Fin.ofNat 16 (fld w 22 4)) q)
  | 0x12 => rsv (fld w 6 16) <| ctlq w fun q => .ok (.barw (Fin.ofNat 16 (fld w 22 4)) q)
  | 0x14 => rsv (fld w 6 14) <| ctlq w fun q => .ok (.wtany (sr w 20) q)
  | 0x15 => rsv (fld w 6 14) <| ctlq w fun q => .ok (.wtall (sr w 20) q)
  | 0x18 => rsv (fld w 6 20) <| ctlq w fun q => .ok (.tend q)
  | 0x19 => rsv (fld w 23 3 + fld w 6 1) <| ctlq w fun q => .ok (.safe (BitVec.ofNat 16 (fld w 7 16)) q)
  | 0x1A => rsv (fld w 6 20) <| ctlq w fun q => .ok (.ifence q)
  | 0x1C => rsv (fld w 23 3 + fld w 6 1) <| ctlq w fun q => .ok (.trap (BitVec.ofNat 16 (fld w 7 16)) q)
  | 0x1D => rsv (fld w 23 3 + fld w 6 1) <| ctlq w fun q => .ok (.brk (BitVec.ofNat 16 (fld w 7 16)) q)
  | _ => .error 1

/-- Functions of major 0x01 (R59, R171). -/
def decodeInt (w : Nat) : Parsed :=
  let d := sr w 20
  let a := sr w 14
  let b := sr w 8
  match fld w 0 8 with
  | 0x00 => .ok (.add d a b) | 0x01 => .ok (.sub d a b) | 0x02 => .ok (.and d a b) | 0x03 => .ok (.or d a b)
  | 0x04 => .ok (.xor d a b) | 0x05 => .ok (.andn d a b) | 0x06 => .ok (.shl d a b) | 0x07 => .ok (.shr d a b)
  | 0x08 => .ok (.sar d a b) | 0x09 => .ok (.rotl d a b) | 0x0A => .ok (.min d a b) | 0x0B => .ok (.max d a b)
  | 0x0C => .ok (.minu d a b) | 0x0D => .ok (.maxu d a b) | 0x0E => .ok (.seq d a b) | 0x0F => .ok (.sne d a b)
  | 0x10 => .ok (.slt d a b) | 0x11 => .ok (.sltu d a b) | 0x12 => .ok (.sle d a b)
  | 0x13 => rsv (fld w 8 6) (.ok (.clz d a))
  | 0x14 => rsv (fld w 8 6) (.ok (.ctz d a))
  | 0x15 => rsv (fld w 8 6) (.ok (.popc d a))
  | 0x16 => rsv (fld w 8 6) (.ok (.movo d a))
  | 0x17 => rsv (fld w 8 6) (.ok (.ffrdy d a))
  | _ => .error 2

/-- Functions of major 0x02 (R59, R172). -/
def decodeMul (w : Nat) : Parsed :=
  let d := sr w 20
  let a := sr w 14
  let b := sr w 8
  match fld w 0 8 with
  | 0x00 => .ok (.mul d a b) | 0x01 => .ok (.mulh d a b) | 0x02 => .ok (.mulhu d a b)
  | 0x03 => .ok (.divu d a b) | 0x04 => .ok (.remu d a b)
  | _ => .error 2

/-- Handler and translation forms, majors 0x20 to 0x27 (R179, R219, R427). -/
def decodeHandler (w : Nat) : Parsed :=
  let s := sr w 20
  let h := Fin.ofNat 4 (fld w 18 2)
  match major w with
  | 0x20 => val (FSel.ofCode (fld w 14 4) (fld w 6 8) (fld w 0 6)) fun f => .ok (.frd s h f)
  | 0x21 => val (FSel.ofCode (fld w 14 4) (fld w 6 8) (fld w 0 6)) fun f => .ok (.fwr s h f)
  | 0x22 => rsv (fld w 0 16) <|
      match fld w 16 2 with
      | 0 => if fld w 20 6 = 62 then .ok (.fres h) else .error 3
      | 1 => .ok (.fresPc s h)
      | _ => .error 4
  | 0x23 => rsv (fld w 0 18) (.ok (.fkill s h))
  | 0x24 => rsv (fld w 0 17) (.ok (if bit w 17 then .fpassHost s h else .fpassSup s h))
  | 0x25 => rsv (fld w 0 18) (.ok (.fstat s h))
  | 0x26 => rsv (fld w 20 6 + fld w 0 14) <|
      match fld w 14 2 with
      | 0 => .ok (.hmov h (Fin.ofNat 4 (fld w 16 2)))
      | 1 => .ok (.hmovMove h (Fin.ofNat 4 (fld w 16 2)))
      | 2 => rsv (fld w 16 2) (.ok (.hmovClear h))
      | _ => .error 4
  | 0x27 => rsv (fld w 18 2 + fld w 0 14) <|
      val (TlbScope.ofCode (fld w 14 2)) fun sc =>
        match fld w 16 2 with
        | 0 => .ok (.tlbiAll s sc)
        | 1 => .ok (.tlbiAsid s sc)
        | 2 => .ok (.tlbiPage s sc)
        | _ => .error 4
  | _ => .error 1

/-- Scalar words of both slots (R57 to R60); `slotA` tells sa from sb. -/
def decodeScalar (slotA : Bool) (w : Nat) : Parsed :=
  let d := sr w 20
  let a := sr w 14
  let imm := BitVec.ofNat 14 (fld w 0 14)
  match major w with
  | 0x01 => decodeInt w
  | 0x02 => decodeMul w
  | 0x03 => rsv (fld w 0 2) (.ok (.sel d a (sr w 8) (sr w 2)))
  | 0x04 => rsv (fld w 0 5) (.ok (.addsc d a (sr w 8) (Fin.ofNat 8 (fld w 5 3))))
  | 0x08 => .ok (.addi d a imm)
  | 0x09 => .ok (.andImm d a imm)
  | 0x0A => .ok (.orImm d a imm)
  | 0x0B => .ok (.xorImm d a imm)
  | 0x0C => .ok (.andnImm d a imm)
  | 0x0D => rsv (fld w 2 6) <|
      let n := Fin.ofNat 64 (fld w 8 6)
      match fld w 0 2 with
      | 0 => .ok (.shlImm d a n)
      | 1 => .ok (.shrImm d a n)
      | 2 => .ok (.sarImm d a n)
      | _ => .ok (.rotlImm d a n)
  | 0x10 => .ok (.li d (BitVec.ofNat 20 (fld w 0 20)))
  | 0x11 => rsv (fld w 16 2) (.ok (.lui d (Fin.ofNat 4 (fld w 18 2)) (BitVec.ofNat 16 (fld w 0 16))))
  | 0x12 => rsv (fld w 0 2) (.ok (.bext d a (Fin.ofNat 64 (fld w 8 6)) (Fin.ofNat 64 (fld w 2 6))))
  | 0x13 => rsv (fld w 0 2) (.ok (.bins d a (Fin.ofNat 64 (fld w 8 6)) (Fin.ofNat 64 (fld w 2 6))))
  | 0x18 => rsv (fld w 0 6) <| val (Spr.ofCode (fld w 12 8) (fld w 6 6)) fun r => .ok (.movs d r)
  | 0x19 => rsv (fld w 0 6) <| val (Spr.ofCode (fld w 12 8) (fld w 6 6)) fun r => .ok (.movt d r)
  | 0x1A => rsv (fld w 0 15) <|
      if h : fld w 15 5 < 24 then .ok (.stg d ⟨fld w 15 5, h⟩) else .error 5
  | _ => if slotA then decodeHandler w else .error 1

/-- Memory words (R61 to R63). -/
def decodeMem (w : Nat) : Parsed :=
  let v := sr w 20
  let base := sr w 14
  let z := Size.ofCode (fld w 11 3)
  let vv := VReg.ofCode (fld w 20 6)
  let m := Fin.ofNat 8 (fld w 11 3)
  let off10 := BitVec.ofNat 10 (fld w 0 10)
  let off9 := BitVec.ofNat 9 (fld w 0 9)
  let tag := Fin.ofNat 64 (fld w 4 6)
  let tagB := Fin.ofNat 64 (fld w 2 6)
  let elas (f : SReg → SReg → SReg → Fin 64 → AType → Instr) : Parsed :=
    val (AType.ofCode (fld w 0 2)) fun t => .ok (f v base (sr w 8) tagB t)
  match major w with
  | 0x01 => rsv (if fld w 11 3 = 3 then fld w 10 1 else 0) <| val z fun z => .ok (.ld v base z (bit w 10) off10)
  | 0x02 => rsv (fld w 10 1) <| val z fun z => .ok (.st v base z off10)
  | 0x03 => rsv (fld w 0 4 + if fld w 11 3 = 3 then fld w 10 1 else 0) <|
      val z fun z => .ok (.lde v base z (bit w 10) tag)
  | 0x04 => rsv (fld w 0 4 + fld w 10 1) <| val z fun z => .ok (.ste v base z tag)
  | 0x08 => rsv (fld w 9 5) <| val vv fun v => .ok (.vld v base off9)
  | 0x09 => val vv fun v => val (ESize.ofCode (fld w 9 2)) fun e => .ok (.vst v base m e off9)
  | 0x0A => rsv (fld w 0 3) <| val vv fun v => val (VReg.ofCode (fld w 8 6)) fun i =>
      val (ESize.ofCode (fld w 3 2)) fun e => .ok (.vgth v base i (Fin.ofNat 8 (fld w 5 3)) e)
  | 0x0B => rsv (fld w 0 3) <| val vv fun v => val (VReg.ofCode (fld w 8 6)) fun i =>
      val (ESize.ofCode (fld w 3 2)) fun e => .ok (.vsct v base i (Fin.ofNat 8 (fld w 5 3)) e)
  | 0x10 => rsv (fld w 0 3) <| val (AOp.ofCode (fld w 5 3)) fun o => val (AType.ofCode (fld w 3 2)) fun t =>
      let x := sr w 8
      .ok (match o with
        | .add => .aadd v base x t | .min => .amin v base x t | .max => .amax v base x t
        | .xch => .axch v base x t | .and => .aand v base x t | .or => .aor v base x t
        | .cas => .acas v base x t)
  | 0x18 => elas .aaddE
  | 0x19 => elas .aminE
  | 0x1A => elas .amaxE
  | 0x1B => elas .axchE
  | 0x1C => elas .aandE
  | 0x1D => elas .aorE
  | 0x1E => elas .acasE
  | 0x1F => rsv (fld w 1 1) (.ok (.aord v base (sr w 8) tagB (bit w 0)))
  | 0x20 => rsv (fld w 0 21) <| val (FScope.ofCode (fld w 23 3)) fun s => val (FKind.ofCode (fld w 21 2)) fun k =>
      .ok (.fence s k)
  | 0x24 => rsv (fld w 10 4) (.ok (.tagr v base off10))
  | 0x25 => rsv (fld w 10 4) (.ok (.tagw v base off10))
  | _ => .error 1

/-- A vector field (R41). -/
def vr (w lo : Nat) (k : VReg → Parsed) : Parsed := val (VReg.ofCode (fld w lo 6)) k

/-- A type field (R65). -/
def ty (w lo : Nat) (k : VType → Parsed) : Parsed := val (VType.ofCode (fld w lo 5)) k

/-- Format VR with three vector fields (R64). -/
def dec3 (w : Nat) (f : VReg → VReg → VReg → Fin 8 → VType → Instr) : Parsed :=
  vr w 20 fun d => vr w 14 fun a => vr w 8 fun b => ty w 0 fun t => .ok (f d a b (Fin.ofNat 8 (fld w 5 3)) t)

/-- Format VR with b reserved (R66). -/
def dec2 (w : Nat) (f : VReg → VReg → Fin 8 → VType → Instr) : Parsed :=
  rsv (fld w 8 6) <| vr w 20 fun d => vr w 14 fun a => ty w 0 fun t => .ok (f d a (Fin.ofNat 8 (fld w 5 3)) t)

/-- Format VR of a function of FP32 elements: any other type raises detail 0x04 (R275). -/
def decF (w : Nat) (f : VReg → VReg → Fin 8 → Instr) : Parsed :=
  rsv (fld w 8 6) <| vr w 20 fun d => vr w 14 fun a =>
    if fld w 0 5 = 8 then .ok (f d a (Fin.ofNat 8 (fld w 5 3))) else .error 4

/-- Format VC (R64). -/
def decC (w : Nat) (f : VReg → VReg → VType → Fin 8 → VType → Instr) : Parsed :=
  rsv (fld w 8 1) <| vr w 20 fun d => vr w 14 fun a => ty w 9 fun sty => ty w 0 fun dt =>
    .ok (f d a sty (Fin.ofNat 8 (fld w 5 3)) dt)

/-- Format VX (R64). -/
def decX (w : Nat) (f : VReg → VReg → RedOp → Fin 8 → VType → Instr) : Parsed :=
  rsv (fld w 8 3) <| vr w 20 fun d => vr w 14 fun a => val (RedOp.ofCode (fld w 11 3)) fun o => ty w 0 fun t =>
    .ok (f d a o (Fin.ofNat 8 (fld w 5 3)) t)

/-- Format VI with a plane parameter (R270): imm6 [5:4] = 00. -/
def decP (w : Nat) (f : VReg → VReg → Fin 16 → Fin 8 → VType → Instr) : Parsed :=
  vr w 20 fun d => vr w 14 fun a => ty w 0 fun t =>
    if fld w 12 2 = 0 then .ok (f d a (Fin.ofNat 16 (fld w 8 4)) (Fin.ofNat 8 (fld w 5 3)) t) else .error 4

/-- Format PP (R64, R272). -/
def decPP (w : Nat) (f : Fin 8 → Fin 8 → Fin 8 → Instr) : Parsed :=
  rsv (fld w 0 17) (.ok (f (Fin.ofNat 8 (fld w 23 3)) (Fin.ofNat 8 (fld w 20 3)) (Fin.ofNat 8 (fld w 17 3))))

/-- Vector words of both slots (R64 to R66). -/
def decodeVec (w : Nat) : Parsed :=
  let m := Fin.ofNat 8 (fld w 5 3)
  match major w with
  | 0x01 => dec3 w .vadd
  | 0x02 => dec3 w .vsub
  | 0x03 => dec3 w .vmul
  | 0x04 => dec3 w .vfma
  | 0x05 => dec3 w .vfms
  | 0x06 => dec3 w .vfnma
  | 0x07 => dec3 w .vmin
  | 0x08 => dec3 w .vmax
  | 0x09 => dec2 w .vabs
  | 0x0A => dec2 w .vneg
  | 0x0B => dec3 w .vand
  | 0x0C => dec3 w .vor
  | 0x0D => dec3 w .vxor
  | 0x0E => dec3 w .vshl
  | 0x0F => dec3 w .vshr
  | 0x10 => dec3 w .vsar
  | 0x11 => dec3 w .vaddw
  | 0x12 => dec3 w .vmulw
  | 0x13 => dec3 w .vdot4
  | 0x14 => val (Cond.ofCode (fld w 23 3)) fun c => vr w 14 fun a => vr w 8 fun b => ty w 0 fun t =>
      .ok (.vcmp c (Fin.ofNat 8 (fld w 20 3)) a b m t)
  | 0x15 => dec3 w .vsel
  | 0x16 => dec2 w .vmov
  | 0x17 => rsv (fld w 14 6) <| vr w 20 fun d => ty w 0 fun t => .ok (.vbcst d (sr w 8) m t)
  | 0x18 => dec3 w .vperm
  | 0x19 => vr w 20 fun d => vr w 14 fun a => val (Shuf.ofCode (fld w 8 6)) fun p => ty w 0 fun t =>
      .ok (.vshuf d a p m t)
  | 0x1A => vr w 20 fun d => vr w 14 fun a => ty w 0 fun t => .ok (.vrot d a (sr w 8) m t)
  | 0x1B => decX w .vred
  | 0x1C => decX w .vscan
  | 0x1D => decC w .vcvt
  | 0x1E => decC w .vpack
  | 0x1F => decC w .vunpk
  | 0x20 => decP w .vpln
  | 0x21 => decP w .vunpl
  | 0x22 => decF w .vrcp
  | 0x23 => decF w .vrsq
  | 0x24 => decF w .vsqrt
  | 0x25 => vr w 20 fun d => vr w 14 fun a => vr w 8 fun b => if fld w 0 5 = 8 then .ok (.vdiv d a b m) else .error 4
  | 0x26 => decF w .vexp2
  | 0x27 => decF w .vlog2
  | 0x28 => decF w .vrcpa
  | 0x29 => decF w .vrsqa
  | 0x2A => decF w .vexpa
  | 0x2B => vr w 20 fun d => vr w 14 fun a => if fld w 0 5 = 5 then .ok (.vdraw d a (sr w 8) m) else .error 4
  | 0x2C => rsv (fld w 20 6 + fld w 8 6) <| vr w 14 fun a => ty w 0 fun t => .ok (.vamax a m t)
  | 0x30 => decPP w .pand
  | 0x31 => decPP w .por
  | 0x32 => decPP w .pxor
  | 0x33 => rsv (fld w 17 3 + fld w 0 17) (.ok (.pnot (Fin.ofNat 8 (fld w 23 3)) (Fin.ofNat 8 (fld w 20 3))))
  | 0x34 => rsv (fld w 5 12) <| ty w 0 fun t => .ok (.pcnt (sr w 20) (Fin.ofNat 8 (fld w 17 3)) t)
  | _ => .error 1

/-- Matrix words (R67, R298, R320). -/
def decodeMx (w : Nat) : Parsed :=
  let c := Fin.ofNat 64 (fld w 20 6)
  let l := Fin.ofNat 64 (fld w 14 6)
  let t := Fin.ofNat 64 (fld w 8 6)
  let k := Fin.ofNat 8 (fld w 17 3)
  let row := Fin.ofNat 32 (fld w 12 5)
  match major w with
  | 0x01 => rsv (fld w 0 10) <| val (CellOp.ofCode (fld w 11 2)) fun o => .ok (.mma c l (bit w 13) o (bit w 10))
  | 0x02 => rsv (fld w 14 12 + fld w 0 13) (.ok (.mlat (bit w 13)))
  | 0x03 => rsv (fld w 0 20) (.ok (.mfmt (sr w 20)))
  | 0x08 => rsv (fld w 0 20) (.ok (.chb (sr w 20)))
  | 0x09 => rsv (fld w 0 8) (.ok (.chc c (sr w 14) t))
  | 0x0A => rsv (fld w 0 8) (.ok (.chs c (sr w 14) t))
  | 0x0B => rsv (fld w 0 8) (.ok (.chp c l (sr w 8)))
  | 0x0C => rsv (fld w 0 14) (.ok (.chr c l))
  | 0x0D => rsv (fld w 0 19) (.ok (if bit w 19 then .chfAbort c else .chf c))
  | 0x10 => rsv (fld w 0 12) (if h : fld w 20 6 < 32 then .ok (.lkr ⟨fld w 20 6, h⟩ k row) else .error 5)
  | 0x11 => rsv (fld w 0 12) (if h : fld w 20 6 < 32 then .ok (.lkw ⟨fld w 20 6, h⟩ k row) else .error 5)
  | 0x12 => rsv (fld w 20 6 + fld w 0 17) (.ok (.lkz k))
  | _ => .error 1

/-- Exchange words, format E (R68, R347, R386, R393). -/
def decodeXe (w : Nat) : Parsed :=
  let t := Fin.ofNat 64 (fld w 20 6)
  let b := Fin.ofNat 16 (fld w 16 4)
  let at_ := bit w 8
  match major w with
  | 0x01 => rsv (fld w 9 2 + fld w 0 8) (.ok (.xcp t b (Fin.ofNat 8 (fld w 13 3)) (bit w 12) (bit w 11) at_))
  | 0x02 => rsv (fld w 9 6 + fld w 0 8) (.ok (if bit w 15 then .xcnvFl t b at_ else .xcnvPl t b at_))
  | 0x03 => rsv (fld w 9 6 + fld w 0 8) (.ok (if bit w 15 then .xcprPut t b at_ else .xcprGet t b at_))
  | 0x04 => rsv (fld w 0 26) (.ok .rfen)
  | 0x08 => rsv (fld w 9 7 + fld w 0 8) (.ok (.xpf t b at_))
  | 0x0C => rsv (fld w 9 7 + fld w 0 8) (.ok (.xrte t b at_))
  | 0x0D => rsv (fld w 0 20) (.ok (.xcan t))
  | 0x10 => rsv (fld w 0 16) (.ok (.xsnd t b))
  | 0x11 => rsv (fld w 0 16) (.ok (.xrcv t b))
  | 0x14 => rsv (fld w 9 6 + fld w 0 8) (.ok (.xwr t b (bit w 15) at_))
  | 0x15 => rsv (fld w 9 6 + fld w 0 8) (.ok (.xrd t b (bit w 15) at_))
  | 0x16 => rsv (fld w 9 6 + fld w 0 8) (.ok (.xatm t b (bit w 15) at_))
  | _ => .error 1

/-- The instruction of a word by the map of its slot (R32), before the checks of `Instr.flaw`. -/
def parseSlot (slot : Fin 8) (w : Nat) : Parsed :=
  match slot with
  | 0 => decodeCtl w
  | 1 => decodeScalar true w
  | 2 => decodeScalar false w
  | 3 => decodeVec w
  | 4 => decodeVec w
  | 5 => decodeMem w
  | 6 => decodeMx w
  | 7 => decodeXe w

/-- Decoding of one slot word (R32, R35, R51): the instruction, `none` for an empty slot that is not ctl, or the
ILLEGAL detail. A word of major 0 in another slot with any bit set is detail 0x03 (R35, R51). -/
def decodeSlot (slot : Fin 8) (w : SlotWord) : Except Nat (Option Instr) :=
  if slot ≠ 0 ∧ major w.toNat = 0 then
    if w = 0 then .ok none else .error 3
  else
    match parseSlot slot w.toNat with
    | .error d => .error d
    | .ok i =>
      match i.flaw with
      | none => .ok (some i)
      | some d => .error d

/-- Word k of a bundle (R31). -/
def slotWord (b : Bundle) (k : Fin 8) : SlotWord := b.extractLsb' (32 * k.val) 32

/-! ## Encoding -/

/-- A word of a major and fields [25:20], [19:14], [13:0]. -/
def word4 (maj f25 f19 f13 : Nat) : Nat := maj * 67108864 + f25 * 1048576 + f19 * 16384 + f13

/-- IQ and SC of a ctl word (R36). -/
def CtlQ.code (q : CtlQ) : Nat := q.iq.code * 16 + q.sc.val

/-- A ctl word: major, bits [25:7], drain bit, qualifier and stall (R36). -/
def wordC (maj body : Nat) (d : Bool) (q : CtlQ) : Nat := maj * 67108864 + body * 128 + d.toNat * 64 + q.code

def wordSR (maj f : Nat) (d a b : SReg) : Nat := word4 maj d.code a.code (b.code * 256 + f)
def wordSI (maj : Nat) (d a : SReg) (imm : BitVec 14) : Nat := word4 maj d.code a.code imm.toNat
def wordSX (kind : Nat) (d a : SReg) (n : Fin 64) : Nat := word4 0x0D d.code a.code (n.val * 256 + kind)
def wordSB (maj : Nat) (d a : SReg) (pos len : Fin 64) : Nat := word4 maj d.code a.code (pos.val * 256 + len.val * 4)
def wordSS (maj : Nat) (s : SReg) (r : Spr) : Nat := maj * 67108864 + s.code * 1048576 + r.code.1 * 4096 + r.code.2 * 64
def wordSH (maj s : Nat) (h : Fin 4) (sel : Nat) : Nat := maj * 67108864 + s * 1048576 + h.val * 262144 + sel
def wordMA (o : AOp) (d base v : SReg) (t : AType) : Nat :=
  word4 0x10 d.code base.code (v.code * 256 + o.code * 32 + t.code * 8)
def wordMB (o : AOp) (d base v : SReg) (tag : Fin 64) (t : AType) : Nat :=
  word4 (0x18 + o.code) d.code base.code (v.code * 256 + tag.val * 4 + t.code)
def wordVR (maj : Nat) (d a b : Nat) (m : Fin 8) (t : VType) : Nat :=
  word4 maj d a (b * 256 + m.val * 32 + t.code)
def wordVC (maj : Nat) (d a : VReg) (sty : VType) (m : Fin 8) (dt : VType) : Nat :=
  word4 maj d.code a.code (sty.code * 512 + m.val * 32 + dt.code)
def wordPP (maj : Nat) (pd pa pb : Fin 8) : Nat :=
  maj * 67108864 + pd.val * 8388608 + pa.val * 1048576 + pb.val * 131072
def wordE (maj : Nat) (t : Fin 64) (b : Fin 16) (flags : Nat) : Nat :=
  maj * 67108864 + t.val * 1048576 + b.val * 65536 + flags * 256

/-- The word of an instruction (R54 to R68 and the encodings of each chapter); `none` for an event, which has none. -/
def encodeNat : Instr → Option Nat
  | .nop q => some (wordC 0x00 0 false q)
  | .br c z o d q => some (wordC 0x01 (c.code * 8192 + z.toNat * 4096 + o.toNat) d q)
  | .brp m z e o d q => some (wordC 0x02 (m.val * 65536 + z.toNat * 32768 + e.code * 8192 + o.toNat) d q)
  | .jmp t d q => some (wordC 0x03 t.toNat d q)
  | .call t d q => some (wordC 0x04 t.toNat d q)
  | .ret d q => some (wordC 0x05 0 d q)
  | .swap d q => some (wordC 0x06 0 d q)
  | .lset n q => some (wordC 0x08 (n.val * 65536) false q)
  | .loop n b q => some (wordC 0x09 (n.val * 65536 + b.toNat * 16) false q)
  | .lbrk n q => some (wordC 0x0A (n.val * 65536) false q)
  | .pfx r s q => some (wordC 0x0C (r.code * 65536 + s.code * 16384) false q)
  | .bar b q => some (wordC 0x10 (b.val * 32768) false q)
  | .bara b q => some (wordC 0x11 (b.val * 32768) false q)
  | .barw b q => some (wordC 0x12 (b.val * 32768) false q)
  | .wtany m q => some (wordC 0x14 (m.code * 8192) false q)
  | .wtall m q => some (wordC 0x15 (m.code * 8192) false q)
  | .tend q => some (wordC 0x18 0 false q)
  | .safe i q => some (wordC 0x19 i.toNat false q)
  | .ifence q => some (wordC 0x1A 0 false q)
  | .trap c q => some (wordC 0x1C c.toNat false q)
  | .brk c q => some (wordC 0x1D c.toNat false q)
  | .add d a b => some (wordSR 1 0x00 d a b)
  | .sub d a b => some (wordSR 1 0x01 d a b)
  | .and d a b => some (wordSR 1 0x02 d a b)
  | .or d a b => some (wordSR 1 0x03 d a b)
  | .xor d a b => some (wordSR 1 0x04 d a b)
  | .andn d a b => some (wordSR 1 0x05 d a b)
  | .shl d a b => some (wordSR 1 0x06 d a b)
  | .shr d a b => some (wordSR 1 0x07 d a b)
  | .sar d a b => some (wordSR 1 0x08 d a b)
  | .rotl d a b => some (wordSR 1 0x09 d a b)
  | .min d a b => some (wordSR 1 0x0A d a b)
  | .max d a b => some (wordSR 1 0x0B d a b)
  | .minu d a b => some (wordSR 1 0x0C d a b)
  | .maxu d a b => some (wordSR 1 0x0D d a b)
  | .seq d a b => some (wordSR 1 0x0E d a b)
  | .sne d a b => some (wordSR 1 0x0F d a b)
  | .slt d a b => some (wordSR 1 0x10 d a b)
  | .sltu d a b => some (wordSR 1 0x11 d a b)
  | .sle d a b => some (wordSR 1 0x12 d a b)
  | .clz d a => some (word4 1 d.code a.code 0x13)
  | .ctz d a => some (word4 1 d.code a.code 0x14)
  | .popc d a => some (word4 1 d.code a.code 0x15)
  | .movo d a => some (word4 1 d.code a.code 0x16)
  | .ffrdy d a => some (word4 1 d.code a.code 0x17)
  | .mul d a b => some (wordSR 2 0x00 d a b)
  | .mulh d a b => some (wordSR 2 0x01 d a b)
  | .mulhu d a b => some (wordSR 2 0x02 d a b)
  | .divu d a b => some (wordSR 2 0x03 d a b)
  | .remu d a b => some (wordSR 2 0x04 d a b)
  | .sel d a b c => some (word4 3 d.code a.code (b.code * 256 + c.code * 4))
  | .addsc d a b sh => some (word4 4 d.code a.code (b.code * 256 + sh.val * 32))
  | .addi d a i => some (wordSI 0x08 d a i)
  | .andImm d a i => some (wordSI 0x09 d a i)
  | .orImm d a i => some (wordSI 0x0A d a i)
  | .xorImm d a i => some (wordSI 0x0B d a i)
  | .andnImm d a i => some (wordSI 0x0C d a i)
  | .shlImm d a n => some (wordSX 0 d a n)
  | .shrImm d a n => some (wordSX 1 d a n)
  | .sarImm d a n => some (wordSX 2 d a n)
  | .rotlImm d a n => some (wordSX 3 d a n)
  | .li d i => some (0x10 * 67108864 + d.code * 1048576 + i.toNat)
  | .lui d q i => some (0x11 * 67108864 + d.code * 1048576 + q.val * 262144 + i.toNat)
  | .bext d a p l => some (wordSB 0x12 d a p l)
  | .bins d a p l => some (wordSB 0x13 d a p l)
  | .movs d r => some (wordSS 0x18 d r)
  | .movt s r => some (wordSS 0x19 s r)
  | .stg a g => some (0x1A * 67108864 + a.code * 1048576 + g.val * 32768)
  | .frd d h f => some (wordSH 0x20 d.code h f.code)
  | .fwr s h f => some (wordSH 0x21 s.code h f.code)
  | .fres h => some (wordSH 0x22 62 h 0)
  | .fresPc s h => some (wordSH 0x22 s.code h 65536)
  | .fkill s h => some (wordSH 0x23 s.code h 0)
  | .fpassSup s h => some (wordSH 0x24 s.code h 0)
  | .fpassHost s h => some (wordSH 0x24 s.code h 131072)
  | .fstat d h => some (wordSH 0x25 d.code h 0)
  | .hmov hd hs => some (wordSH 0x26 0 hd (hs.val * 65536))
  | .hmovMove hd hs => some (wordSH 0x26 0 hd (hs.val * 65536 + 16384))
  | .hmovClear hd => some (wordSH 0x26 0 hd 32768)
  | .tlbiAll s sc => some (wordSH 0x27 s.code 0 (sc.code * 16384))
  | .tlbiAsid s sc => some (wordSH 0x27 s.code 0 (65536 + sc.code * 16384))
  | .tlbiPage s sc => some (wordSH 0x27 s.code 0 (131072 + sc.code * 16384))
  | .ld v b z x o => some (word4 1 v.code b.code (z.code * 2048 + x.toNat * 1024 + o.toNat))
  | .st v b z o => some (word4 2 v.code b.code (z.code * 2048 + o.toNat))
  | .lde v b z x t => some (word4 3 v.code b.code (z.code * 2048 + x.toNat * 1024 + t.val * 16))
  | .ste v b z t => some (word4 4 v.code b.code (z.code * 2048 + t.val * 16))
  | .vld v b o => some (word4 8 v.code b.code o.toNat)
  | .vst v b m e o => some (word4 9 v.code b.code (m.val * 2048 + e.code * 512 + o.toNat))
  | .vgth v b i m e => some (word4 0x0A v.code b.code (i.code * 256 + m.val * 32 + e.code * 8))
  | .vsct v b i m e => some (word4 0x0B v.code b.code (i.code * 256 + m.val * 32 + e.code * 8))
  | .aadd d b v t => some (wordMA .add d b v t)
  | .amin d b v t => some (wordMA .min d b v t)
  | .amax d b v t => some (wordMA .max d b v t)
  | .axch d b v t => some (wordMA .xch d b v t)
  | .aand d b v t => some (wordMA .and d b v t)
  | .aor d b v t => some (wordMA .or d b v t)
  | .acas d b v t => some (wordMA .cas d b v t)
  | .aaddE d b v g t => some (wordMB .add d b v g t)
  | .aminE d b v g t => some (wordMB .min d b v g t)
  | .amaxE d b v g t => some (wordMB .max d b v g t)
  | .axchE d b v g t => some (wordMB .xch d b v g t)
  | .aandE d b v g t => some (wordMB .and d b v g t)
  | .aorE d b v g t => some (wordMB .or d b v g t)
  | .acasE d b v g t => some (wordMB .cas d b v g t)
  | .aord q b v g fl => some (word4 0x1F q.code b.code (v.code * 256 + g.val * 4 + fl.toNat))
  | .fence s k => some (0x20 * 67108864 + s.code * 8388608 + k.code * 2097152)
  | .tagr s b o => some (word4 0x24 s.code b.code o.toNat)
  | .tagw s b o => some (word4 0x25 s.code b.code o.toNat)
  | .vadd d a b m t => some (wordVR 0x01 d.code a.code b.code m t)
  | .vsub d a b m t => some (wordVR 0x02 d.code a.code b.code m t)
  | .vmul d a b m t => some (wordVR 0x03 d.code a.code b.code m t)
  | .vfma d a b m t => some (wordVR 0x04 d.code a.code b.code m t)
  | .vfms d a b m t => some (wordVR 0x05 d.code a.code b.code m t)
  | .vfnma d a b m t => some (wordVR 0x06 d.code a.code b.code m t)
  | .vmin d a b m t => some (wordVR 0x07 d.code a.code b.code m t)
  | .vmax d a b m t => some (wordVR 0x08 d.code a.code b.code m t)
  | .vabs d a m t => some (wordVR 0x09 d.code a.code 0 m t)
  | .vneg d a m t => some (wordVR 0x0A d.code a.code 0 m t)
  | .vand d a b m t => some (wordVR 0x0B d.code a.code b.code m t)
  | .vor d a b m t => some (wordVR 0x0C d.code a.code b.code m t)
  | .vxor d a b m t => some (wordVR 0x0D d.code a.code b.code m t)
  | .vshl d a b m t => some (wordVR 0x0E d.code a.code b.code m t)
  | .vshr d a b m t => some (wordVR 0x0F d.code a.code b.code m t)
  | .vsar d a b m t => some (wordVR 0x10 d.code a.code b.code m t)
  | .vaddw d a b m t => some (wordVR 0x11 d.code a.code b.code m t)
  | .vmulw d a b m t => some (wordVR 0x12 d.code a.code b.code m t)
  | .vdot4 d a b m t => some (wordVR 0x13 d.code a.code b.code m t)
  | .vcmp c p a b m t =>
    some (0x14 * 67108864 + c.code * 8388608 + p.val * 1048576 + a.code * 16384 + b.code * 256 + m.val * 32 + t.code)
  | .vsel d a b m t => some (wordVR 0x15 d.code a.code b.code m t)
  | .vmov d a m t => some (wordVR 0x16 d.code a.code 0 m t)
  | .vbcst d s m t => some (wordVR 0x17 d.code 0 s.code m t)
  | .vperm d a b m t => some (wordVR 0x18 d.code a.code b.code m t)
  | .vshuf d a p m t => some (wordVR 0x19 d.code a.code p.code m t)
  | .vrot d a s m t => some (wordVR 0x1A d.code a.code s.code m t)
  | .vred d a o m t => some (word4 0x1B d.code a.code (o.code * 2048 + m.val * 32 + t.code))
  | .vscan d a o m t => some (word4 0x1C d.code a.code (o.code * 2048 + m.val * 32 + t.code))
  | .vcvt d a sty m dt => some (wordVC 0x1D d a sty m dt)
  | .vpack d a sty m dt => some (wordVC 0x1E d a sty m dt)
  | .vunpk d a sty m dt => some (wordVC 0x1F d a sty m dt)
  | .vpln d a p m t => some (wordVR 0x20 d.code a.code p.val m t)
  | .vunpl d a p m t => some (wordVR 0x21 d.code a.code p.val m t)
  | .vrcp d a m => some (wordVR 0x22 d.code a.code 0 m .fp32)
  | .vrsq d a m => some (wordVR 0x23 d.code a.code 0 m .fp32)
  | .vsqrt d a m => some (wordVR 0x24 d.code a.code 0 m .fp32)
  | .vdiv d a b m => some (wordVR 0x25 d.code a.code b.code m .fp32)
  | .vexp2 d a m => some (wordVR 0x26 d.code a.code 0 m .fp32)
  | .vlog2 d a m => some (wordVR 0x27 d.code a.code 0 m .fp32)
  | .vrcpa d a m => some (wordVR 0x28 d.code a.code 0 m .fp32)
  | .vrsqa d a m => some (wordVR 0x29 d.code a.code 0 m .fp32)
  | .vexpa d a m => some (wordVR 0x2A d.code a.code 0 m .fp32)
  | .vdraw d a s m => some (wordVR 0x2B d.code a.code s.code m .u32)
  | .vamax a m t => some (wordVR 0x2C 0 a.code 0 m t)
  | .pand pd pa pb => some (wordPP 0x30 pd pa pb)
  | .por pd pa pb => some (wordPP 0x31 pd pa pb)
  | .pxor pd pa pb => some (wordPP 0x32 pd pa pb)
  | .pnot pd pa => some (wordPP 0x33 pd pa 0)
  | .pcnt d pa t => some (0x34 * 67108864 + d.code * 1048576 + pa.val * 131072 + t.code)
  | .mma c l g o at_ => some (word4 1 c.val l.val (g.toNat * 8192 + o.code * 2048 + at_.toNat * 1024))
  | .mlat g => some (2 * 67108864 + g.toNat * 8192)
  | .mfmt a => some (3 * 67108864 + a.code * 1048576)
  | .chb s => some (8 * 67108864 + s.code * 1048576)
  | .chc c s t => some (word4 9 c.val s.code (t.val * 256))
  | .chs c s t => some (word4 0x0A c.val s.code (t.val * 256))
  | .chp c l s => some (word4 0x0B c.val l.val (s.code * 256))
  | .chr c l => some (word4 0x0C c.val l.val 0)
  | .chf c => some (0x0D * 67108864 + c.val * 1048576)
  | .chfAbort c => some (0x0D * 67108864 + c.val * 1048576 + 524288)
  | .lkr v k r => some (0x10 * 67108864 + v.val * 1048576 + k.val * 131072 + r.val * 4096)
  | .lkw v k r => some (0x11 * 67108864 + v.val * 1048576 + k.val * 131072 + r.val * 4096)
  | .lkz k => some (0x12 * 67108864 + k.val * 131072)
  | .xcp t b n sm dm at_ =>
    some (wordE 0x01 t b (n.val * 32 + sm.toNat * 16 + dm.toNat * 8 + at_.toNat))
  | .xcnvPl t b at_ => some (wordE 0x02 t b at_.toNat)
  | .xcnvFl t b at_ => some (wordE 0x02 t b (128 + at_.toNat))
  | .xcprGet t b at_ => some (wordE 0x03 t b at_.toNat)
  | .xcprPut t b at_ => some (wordE 0x03 t b (128 + at_.toNat))
  | .rfen => some (0x04 * 67108864)
  | .xpf t b at_ => some (wordE 0x08 t b at_.toNat)
  | .xrte t b at_ => some (wordE 0x0C t b at_.toNat)
  | .xcan t => some (wordE 0x0D t 0 0)
  | .xsnd t b => some (wordE 0x10 t b 0)
  | .xrcv t b => some (wordE 0x11 t b 0)
  | .xwr t b mem at_ => some (wordE 0x14 t b (mem.toNat * 128 + at_.toNat))
  | .xrd t b mem at_ => some (wordE 0x15 t b (mem.toNat * 128 + at_.toNat))
  | .xatm t b mem at_ => some (wordE 0x16 t b (mem.toNat * 128 + at_.toNat))
  | _ => none

/-- The slot word of an instruction; `none` for an event. -/
def encode (i : Instr) : Option SlotWord := (encodeNat i).map (BitVec.ofNat 32)

/-- The first slot, in the order ctl, sa, mem, va, mx, xe, whose map holds the instruction; `none` for an event. -/
def Instr.homeSlot : Instr → Option (Fin 8)
  | .nop _ | .br .. | .brp .. | .jmp .. | .call .. | .ret .. | .swap .. | .lset .. | .loop .. | .lbrk .. | .pfx ..
  | .bar .. | .bara .. | .barw .. | .wtany .. | .wtall .. | .tend _ | .safe .. | .ifence _ | .trap .. | .brk ..
    => some 0
  | .add .. | .sub .. | .and .. | .or .. | .xor .. | .andn .. | .shl .. | .shr .. | .sar .. | .rotl .. | .min ..
  | .max .. | .minu .. | .maxu .. | .seq .. | .sne .. | .slt .. | .sltu .. | .sle .. | .clz .. | .ctz .. | .popc ..
  | .movo .. | .ffrdy .. | .mul .. | .mulh .. | .mulhu .. | .divu .. | .remu .. | .sel .. | .addsc .. | .addi ..
  | .andImm .. | .orImm .. | .xorImm .. | .andnImm .. | .shlImm .. | .shrImm .. | .sarImm .. | .rotlImm ..
  | .li .. | .lui .. | .bext .. | .bins .. | .movs .. | .movt .. | .stg .. | .frd .. | .fwr .. | .fres _
  | .fresPc .. | .fkill .. | .fpassSup .. | .fpassHost .. | .fstat .. | .hmov .. | .hmovMove .. | .hmovClear _
  | .tlbiAll .. | .tlbiAsid .. | .tlbiPage .. => some 1
  | .ld .. | .st .. | .lde .. | .ste .. | .vld .. | .vst .. | .vgth .. | .vsct .. | .aadd .. | .amin .. | .amax ..
  | .axch .. | .aand .. | .aor .. | .acas .. | .aaddE .. | .aminE .. | .amaxE .. | .axchE .. | .aandE .. | .aorE ..
  | .acasE .. | .aord .. | .fence .. | .tagr .. | .tagw .. => some 5
  | .vadd .. | .vsub .. | .vmul .. | .vfma .. | .vfms .. | .vfnma .. | .vmin .. | .vmax .. | .vabs .. | .vneg ..
  | .vand .. | .vor .. | .vxor .. | .vshl .. | .vshr .. | .vsar .. | .vaddw .. | .vmulw .. | .vdot4 .. | .vcmp ..
  | .vsel .. | .vmov .. | .vbcst .. | .vperm .. | .vshuf .. | .vrot .. | .vred .. | .vscan .. | .vcvt .. | .vpack ..
  | .vunpk .. | .vpln .. | .vunpl .. | .vrcp .. | .vrsq .. | .vsqrt .. | .vdiv .. | .vexp2 .. | .vlog2 .. | .vrcpa ..
  | .vrsqa .. | .vexpa .. | .vdraw .. | .vamax .. | .pand .. | .por .. | .pxor .. | .pnot .. | .pcnt .. => some 3
  | .mma .. | .mlat _ | .mfmt _ | .chb _ | .chc .. | .chs .. | .chp .. | .chr .. | .chf _ | .chfAbort _ | .lkr ..
  | .lkw .. | .lkz _ => some 6
  | .xcp .. | .xcnvPl .. | .xcnvFl .. | .xcprGet .. | .xcprPut .. | .rfen | .xpf .. | .xrte .. | .xcan _ | .xsnd ..
  | .xrcv .. | .xwr .. | .xrd .. | .xatm .. => some 7
  | _ => none

/-- The instruction of a word in one slot, `none` where the slot is empty or the word malformed. -/
def wordInSlot (slot : Fin 8) (w : Nat) : Option Instr :=
  match decodeSlot slot (BitVec.ofNat 32 w) with
  | .ok (some i) => some i
  | _ => none

/-- The slot that `decodeTableWord` reads a table word in: the first of mx, xe, sa, ctl, va, mem that decodes it. The same word may
mean different things in different slots (R32), and the order puts first the slots whose words leave the fewest bits free (log
entry 9). -/
def tableSlot (w : Nat) : Option (Fin 8) :=
  ([6, 7, 1, 0, 3, 5] : List (Fin 8)).find? fun k => (wordInSlot k w).isSome

/-- The instruction the decoder reads from a table word: a slot word of 32 bits (R31). -/
def decodeTableWord (nbits w : Nat) : Option Instr :=
  if nbits = 32 then
    match tableSlot w with
    | some k => wordInSlot k w
    | none => none
  else none

/-! ## Operands read and written -/

/-- One operand position: a scalar code, a vector code or a predicate (R408). -/
inductive Src
  | s (r : SReg)
  | v (r : VReg)
  | p (m : Fin 8)
  deriving DecidableEq, Repr

/-- What an instruction names as a destination: registers (R48, R246), special registers (R163), staging registers
(R178). -/
inductive Dst
  | s (r : SReg)
  | v (r : VReg)
  | p (m : Fin 8)
  | spr (r : Spr)
  | stg (g : Fin 24)
  deriving DecidableEq, Repr

/-- The registers of a group of k at a base, in ascending order (R248, R408). -/
def groupRegs (r : VReg) (k : Nat) : List VReg :=
  match r with
  | .v i => (List.range k).map fun n => .v (Fin.ofNat 32 (i.val + n))
  | _ => [r]

def srcS (l : List SReg) : List Src := l.map .s
def srcV (l : List VReg) (m : Fin 8) : List Src := l.map .v ++ [.p m]

/-- Operand positions of an instruction: source fields from bit 25 downward, groups one position a register,
the predicate last (R46, R408). -/
def Instr.srcs : Instr → List Src
  | .br c .. => [.s c]
  | .brp m .. => [.p m]
  | .wtany m _ | .wtall m _ => [.s m]
  | .add _ a b | .sub _ a b | .and _ a b | .or _ a b | .xor _ a b | .andn _ a b | .shl _ a b | .shr _ a b
  | .sar _ a b | .rotl _ a b | .min _ a b | .max _ a b | .minu _ a b | .maxu _ a b | .seq _ a b | .sne _ a b
  | .slt _ a b | .sltu _ a b | .sle _ a b | .mul _ a b | .mulh _ a b | .mulhu _ a b | .divu _ a b | .remu _ a b
    => srcS [a, b]
  | .clz _ a | .ctz _ a | .popc _ a | .movo _ a | .ffrdy _ a => srcS [a]
  | .sel _ a b c => srcS [a, b, c]
  | .addsc _ a b _ => srcS [a, b]
  | .addi _ a _ | .andImm _ a _ | .orImm _ a _ | .xorImm _ a _ | .andnImm _ a _ => srcS [a]
  | .shlImm _ a _ | .shrImm _ a _ | .sarImm _ a _ | .rotlImm _ a _ => srcS [a]
  | .lui d _ _ => srcS [d]
  | .bext _ a _ _ => srcS [a]
  | .bins d a _ _ => srcS [d, a]
  | .movt s _ => srcS [s]
  | .stg a _ => srcS [a]
  | .fwr s _ _ | .fresPc s _ | .fkill s _ | .fpassSup s _ | .fpassHost s _ => srcS [s]
  | .tlbiAll s _ | .tlbiAsid s _ | .tlbiPage s _ => srcS [s]
  | .ld _ b .. => srcS [b]
  | .st v b .. => srcS [v, b]
  | .lde _ b .. => srcS [b]
  | .ste v b .. => srcS [v, b]
  | .vld _ b _ => srcS [b]
  | .vst v b m _ _ => [.v v, .s b, .p m]
  | .vgth _ b i m _ => [.s b, .v i, .p m]
  | .vsct v b i m _ => [.v v, .s b, .v i, .p m]
  | .aadd _ b v _ | .amin _ b v _ | .amax _ b v _ | .axch _ b v _ | .aand _ b v _ | .aor _ b v _ => srcS [b, v]
  | .acas d b v _ => srcS [d, b, v]
  | .aaddE _ b v _ _ | .aminE _ b v _ _ | .amaxE _ b v _ _ | .axchE _ b v _ _ | .aandE _ b v _ _ | .aorE _ b v _ _
    => srcS [b, v]
  | .acasE d b v _ _ => srcS [d, b, v]
  | .aord q b v _ _ => srcS [q, b, v]
  | .tagr _ b _ => srcS [b]
  | .tagw s b _ => srcS [s, b]
  | .vadd _ a b m _ | .vsub _ a b m _ | .vmul _ a b m _ | .vmin _ a b m _ | .vmax _ a b m _ | .vand _ a b m _
  | .vor _ a b m _ | .vxor _ a b m _ | .vshl _ a b m _ | .vshr _ a b m _ | .vsar _ a b m _ | .vaddw _ a b m _
  | .vmulw _ a b m _ | .vcmp _ _ a b m _ | .vsel _ a b m _ | .vperm _ a b m _ => srcV [a, b] m
  | .vfma d a b m _ | .vfms d a b m _ | .vfnma d a b m _ | .vdot4 d a b m _ => srcV [d, a, b] m
  | .vabs _ a m _ | .vneg _ a m _ | .vmov _ a m _ | .vshuf _ a _ m _ | .vred _ a _ m _ | .vscan _ a _ m _
  | .vcvt _ a _ m _ | .vunpk _ a _ m _ | .vpln _ a _ m _ | .vunpl _ a _ m _ => srcV [a] m
  | .vbcst _ s m _ => [.s s, .p m]
  | .vrot _ a s m _ => [.v a, .s s, .p m]
  | .vpack _ a sty m dt => srcV (groupRegs a (sty.bits / dt.bits)) m
  | .vrcp _ a m | .vrsq _ a m | .vsqrt _ a m | .vexp2 _ a m | .vlog2 _ a m | .vrcpa _ a m | .vrsqa _ a m
  | .vexpa _ a m => srcV [a] m
  | .vdiv _ a b m => srcV [a, b] m
  | .vdraw _ a s m => (groupRegs a 2).map .v ++ [.s s, .p m]
  | .vamax a m _ => srcV [a] m
  | .pand _ pa pb | .por _ pa pb | .pxor _ pa pb => [.p pa, .p pb]
  | .pnot _ pa => [.p pa]
  | .pcnt _ pa _ => [.p pa]
  | .mfmt a => srcS [a]
  | .chb s => srcS [s]
  | .chc _ s _ | .chs _ s _ | .chp _ _ s => srcS [s]
  | .lkw v _ _ => [.v (.v v)]
  | _ => []

/-- Destinations of an instruction (R48, R163, R178, R246, R248). -/
def Instr.dsts : Instr → List Dst
  | .add d _ _ | .sub d _ _ | .and d _ _ | .or d _ _ | .xor d _ _ | .andn d _ _ | .shl d _ _ | .shr d _ _
  | .sar d _ _ | .rotl d _ _ | .min d _ _ | .max d _ _ | .minu d _ _ | .maxu d _ _ | .seq d _ _ | .sne d _ _
  | .slt d _ _ | .sltu d _ _ | .sle d _ _ | .mul d _ _ | .mulh d _ _ | .mulhu d _ _ | .divu d _ _ | .remu d _ _
    => [.s d]
  | .clz d _ | .ctz d _ | .popc d _ | .movo d _ | .ffrdy d _ => [.s d]
  | .sel d _ _ _ => [.s d]
  | .addsc d _ _ _ => [.s d]
  | .addi d _ _ | .andImm d _ _ | .orImm d _ _ | .xorImm d _ _ | .andnImm d _ _ => [.s d]
  | .shlImm d _ _ | .shrImm d _ _ | .sarImm d _ _ | .rotlImm d _ _ => [.s d]
  | .li d _ | .lui d _ _ | .bext d _ _ _ | .bins d _ _ _ | .movs d _ | .frd d _ _ | .fstat d _ => [.s d]
  | .movt _ r => [.spr r]
  | .mfmt _ => [.spr .nfmtM]
  | .stg _ g => [.stg g]
  | .ld v .. | .lde v .. => [.s v]
  | .vld v _ _ => [.v v]
  | .vgth v _ _ _ _ => [.v v]
  | .aadd d _ _ _ | .amin d _ _ _ | .amax d _ _ _ | .axch d _ _ _ | .aand d _ _ _ | .aor d _ _ _ | .acas d _ _ _
    => [.s d]
  | .aaddE d _ _ _ _ | .aminE d _ _ _ _ | .amaxE d _ _ _ _ | .axchE d _ _ _ _ | .aandE d _ _ _ _ | .aorE d _ _ _ _
  | .acasE d _ _ _ _ => [.s d]
  | .tagr s _ _ => [.s s]
  | .vadd d _ _ _ _ | .vsub d _ _ _ _ | .vmul d _ _ _ _ | .vmin d _ _ _ _ | .vmax d _ _ _ _ | .vand d _ _ _ _
  | .vor d _ _ _ _ | .vxor d _ _ _ _ | .vshl d _ _ _ _ | .vshr d _ _ _ _ | .vsar d _ _ _ _ | .vsel d _ _ _ _
  | .vperm d _ _ _ _ | .vfma d _ _ _ _ | .vfms d _ _ _ _ | .vfnma d _ _ _ _ | .vdot4 d _ _ _ _ => [.v d]
  | .vaddw d _ _ _ t | .vmulw d _ _ _ t => (groupRegs d (t.widenGroup.getD 1)).map .v
  | .vabs d _ _ _ | .vneg d _ _ _ | .vmov d _ _ _ | .vbcst d _ _ _ => [.v d]
  | .vshuf d _ _ _ _ | .vred d _ _ _ _ | .vscan d _ _ _ _ | .vcvt d _ _ _ _ | .vpack d _ _ _ _ | .vpln d _ _ _ _
  | .vunpl d _ _ _ _ | .vrot d _ _ _ _ => [.v d]
  | .vunpk d _ sty _ dt => (groupRegs d (dt.bits / sty.bits)).map .v
  | .vcmp _ p _ _ _ _ => [.p p]
  | .vrcp d _ _ | .vrsq d _ _ | .vsqrt d _ _ | .vexp2 d _ _ | .vlog2 d _ _ | .vrcpa d _ _ | .vrsqa d _ _
  | .vexpa d _ _ => [.v d]
  | .vdiv d _ _ _ => [.v d]
  | .vdraw d _ _ _ => [.v d]
  | .pand pd _ _ | .por pd _ _ | .pxor pd _ _ | .pnot pd _ => [.p pd]
  | .pcnt d _ _ => [.s d]
  | .lkr v _ _ => [.v (.v v)]
  | _ => []

/-- Destinations that R48, R163, R178 and R246 forbid two slots of one bundle to share: zero is no register. -/
def Dst.exclusive : Dst → Bool
  | .s (.s _) | .s (.so _) | .v (.v _) | .v (.vo _) => true
  | .p m => m != 0
  | .spr _ | .stg _ => true
  | _ => false

end Sys2Proof
end

