-- ==== Sys2Proof/Machine/Flags.lean ====
section
/-! DEFINITION. Number formats, rounding, saturation and the sticky flags (04 R93 to R108), and the exact functions that
the vector, matrix and exchange instructions round (09, 10). -/

namespace Sys2Proof.Machine

/-! ## Floating-point formats -/

/-- A floating-point format (R93): exponent and fraction widths, and whether it has infinities. -/
structure FloatFmt where
  ebits : Nat
  fbits : Nat
  inf : Bool
  deriving DecidableEq, Repr

def FloatFmt.fp32 : FloatFmt := { ebits := 8, fbits := 23, inf := true }
def FloatFmt.bf16 : FloatFmt := { ebits := 8, fbits := 7, inf := true }
def FloatFmt.fp16 : FloatFmt := { ebits := 5, fbits := 10, inf := true }
def FloatFmt.e4m3 : FloatFmt := { ebits := 4, fbits := 3, inf := false }
def FloatFmt.e5m2 : FloatFmt := { ebits := 5, fbits := 2, inf := true }

/-- The format of a floating-point type; FP32 stands for every other type. -/
def FloatFmt.of : VType → FloatFmt
  | .bf16 => .bf16
  | .fp16 => .fp16
  | .e4m3 => .e4m3
  | .e5m2 => .e5m2
  | _ => .fp32

/-- Exponent bias (R93). -/
def FloatFmt.bias (f : FloatFmt) : Nat := 2 ^ (f.ebits - 1) - 1

/-- Bits of the format (R93). -/
def FloatFmt.bits (f : FloatFmt) : Nat := 1 + f.ebits + f.fbits

/-- Bit pattern of the sign bit. -/
def FloatFmt.signBit (f : FloatFmt) (neg : Bool) : Nat := if neg then 2 ^ (f.ebits + f.fbits) else 0

/-- Largest finite magnitude as a bit pattern (R93): E4M3 uses exponent 15 up to fraction 6. -/
def FloatFmt.largest (f : FloatFmt) : Nat :=
  if f.inf then (2 ^ f.ebits - 1) * 2 ^ f.fbits - 1 else 2 ^ (f.ebits + f.fbits) - 2

/-- Infinity as a bit pattern. -/
def FloatFmt.infinity (f : FloatFmt) : Nat := (2 ^ f.ebits - 1) * 2 ^ f.fbits

/-- Canonical NaN (R93, R94): the top fraction bit, or 0x7F in E4M3. -/
def FloatFmt.nan (f : FloatFmt) : Nat :=
  if f.inf then f.infinity + 2 ^ (f.fbits - 1) else 2 ^ (f.ebits + f.fbits) - 1

/-- A value read from a format: a NaN, an infinity, or (−1)^neg × m × 2^e. -/
inductive FVal
  | nan
  | inf (neg : Bool)
  | fin (neg : Bool) (m : Nat) (e : Int)
  deriving DecidableEq, Repr

/-- The value of a bit pattern (R93, R95: subnormals at their exact value). -/
def FloatFmt.decode (f : FloatFmt) (bits : Nat) : FVal :=
  let neg := bits / 2 ^ (f.ebits + f.fbits) % 2 == 1
  let ex := bits / 2 ^ f.fbits % 2 ^ f.ebits
  let fr := bits % 2 ^ f.fbits
  if f.inf && ex == 2 ^ f.ebits - 1 then
    if fr == 0 then .inf neg else .nan
  else if !f.inf && ex == 2 ^ f.ebits - 1 && fr == 2 ^ f.fbits - 1 then .nan
  else if ex == 0 then .fin neg fr (1 - (f.bias : Int) - f.fbits)
  else .fin neg (2 ^ f.fbits + fr) ((ex : Int) - f.bias - f.fbits)

def FVal.isNan : FVal → Bool | .nan => true | _ => false
def FVal.isInf : FVal → Bool | .inf _ => true | _ => false
def FVal.isZero : FVal → Bool | .fin _ 0 _ => true | _ => false
def FVal.neg : FVal → Bool | .nan => false | .inf n => n | .fin n _ _ => n
def FVal.negate : FVal → FVal | .nan => .nan | .inf n => .inf (!n) | .fin n m e => .fin (!n) m e
def FVal.abs : FVal → FVal | .nan => .nan | .inf _ => .inf false | .fin _ m e => .fin false m e

/-! ## The sticky flags (R101) -/

abbrev flagNX : Nat := 1
abbrev flagUF : Nat := 2
abbrev flagOF : Nat := 4
abbrev flagDZ : Nat := 8
abbrev flagNV : Nat := 16
abbrev flagSATF : Nat := 32
abbrev flagNANSEEN : Nat := 64

/-! ## Rounding -/

/-- Round m / 2^sh to an integer by a mode (R97); the second part says that the result differs from the exact value. -/
def roundShift (rm : Rm) (neg : Bool) (m sh : Nat) : Nat × Bool :=
  let q := m / 2 ^ sh
  let r := m % 2 ^ sh
  let up : Bool :=
    match rm with
    | .rne => decide (2 * r > 2 ^ sh) || (decide (2 * r = 2 ^ sh) && q % 2 == 1)
    | .rtz => false
    | .rdn => neg && r != 0
    | .rup => !neg && r != 0
    | .rna => decide (2 * r ≥ 2 ^ sh)
  (if r == 0 then q else if up then q + 1 else q, r != 0)

/-- Round m × 2^e to an integer by a mode, magnitude only. -/
def roundScaled (rm : Rm) (neg : Bool) (m : Nat) (e : Int) : Nat × Bool :=
  if e ≥ 0 then (m * 2 ^ e.toNat, false) else roundShift rm neg m (-e).toNat

/-- Whether an overflowing float result of a sign becomes infinite under IEEE 754 (R98), or else the largest value. -/
def overflowsToInf (rm : Rm) (neg : Bool) : Bool :=
  match rm with
  | .rne | .rna => true
  | .rtz => false
  | .rdn => neg
  | .rup => !neg

/-- An infinite result as the saturation mode delivers it (R98, R251). -/
def FloatFmt.deliverInf (f : FloatFmt) (sat : SatMode) (neg : Bool) : Nat × Nat :=
  match sat with
  | .sat => (f.signBit neg + f.largest, flagSATF)
  | _ => (if f.inf then f.signBit neg + f.infinity else f.nan, 0)

/-- Round a finite value (−1)^neg × m × 2^e once to the format (R96 to R98), with the flags of R101. -/
def FloatFmt.round (f : FloatFmt) (rm : Rm) (sat : SatMode) (neg : Bool) (m : Nat) (e : Int) : Nat × Nat :=
  if m = 0 then (f.signBit neg, 0)
  else
    let top : Int := (Nat.log2 m : Int) + e                        -- floor of log2 of the magnitude
    let emin : Int := 1 - (f.bias : Int)
    let unb := roundScaled rm neg m (e - (top - f.fbits))          -- with an unbounded exponent
    let utop : Int := if unb.1 ≥ 2 ^ (f.fbits + 1) then top + 1 else top
    let past : Bool :=
      let mant := if unb.1 ≥ 2 ^ (f.fbits + 1) then unb.1 / 2 else unb.1
      let lim : Int := if f.inf then (2 ^ f.ebits : Int) - 2 - f.bias else (2 ^ f.ebits : Int) - 1 - f.bias
      decide (utop > lim) || (!f.inf && utop == lim && mant == 2 ^ (f.fbits + 1) - 1)
    if past then
      match sat with
      | .sat => (f.signBit neg + f.largest, flagOF ||| flagNX ||| flagSATF)
      | _ =>
        if overflowsToInf rm neg then
          (if f.inf then f.signBit neg + f.infinity else f.nan, flagOF ||| flagNX)
        else (f.signBit neg + f.largest, flagOF ||| flagNX)
    else if top ≥ emin then
      -- normal: exponent field and fraction from the rounded significand, which may have carried
      (f.signBit neg + ((top - emin).toNat * 2 ^ f.fbits + unb.1), if unb.2 then flagNX else 0)
    else
      let sub := roundScaled rm neg m (e - (emin - f.fbits))
      let tiny := decide (utop < emin)
      (f.signBit neg + sub.1, if sub.2 then (if tiny then flagNX ||| flagUF else flagNX) else 0)

/-- Deliver an exact result in a format: one rounding, then the saturation mode (R251). -/
def FloatFmt.deliver (f : FloatFmt) (rm : Rm) (sat : SatMode) (v : FVal) : Nat × Nat :=
  match v with
  | .nan => (f.nan, 0)
  | .inf neg => f.deliverInf sat neg
  | .fin neg m e => f.round rm sat neg m e

/-! ## Exact arithmetic on values -/

/-- Exact sum of two finite values as a signed integer and its weight. -/
def dyAdd (n1 : Bool) (m1 : Nat) (e1 : Int) (n2 : Bool) (m2 : Nat) (e2 : Int) : Int × Int :=
  let e := min e1 e2
  let a : Int := (m1 : Int) * (2 ^ (e1 - e).toNat : Nat)
  let b : Int := (m2 : Int) * (2 ^ (e2 - e).toNat : Nat)
  ((if n1 then -a else a) + (if n2 then -b else b), e)

/-- Exact a + b with the flags of an invalid operation (R96). The sign of an exact zero is that of both operands
when they are zeros of one sign, else + (RNE). -/
def fAdd (a b : FVal) : FVal × Nat :=
  match a, b with
  | .nan, _ | _, .nan => (.nan, 0)
  | .inf x, .inf y => if x == y then (.inf x, 0) else (.nan, flagNV)
  | .inf x, .fin .. => (.inf x, 0)
  | .fin .., .inf y => (.inf y, 0)
  | .fin n1 m1 e1, .fin n2 m2 e2 =>
    let r := dyAdd n1 m1 e1 n2 m2 e2
    if r.1 = 0 then (.fin (n1 && n2 && m1 == 0 && m2 == 0) 0 r.2, 0)
    else (.fin (decide (r.1 < 0)) r.1.natAbs r.2, 0)

/-- Exact a × b (R96). -/
def fMul (a b : FVal) : FVal × Nat :=
  match a, b with
  | .nan, _ | _, .nan => (.nan, 0)
  | .inf x, .inf y => (.inf (x != y), 0)
  | .inf x, .fin y m _ => if m = 0 then (.nan, flagNV) else (.inf (x != y), 0)
  | .fin x m _, .inf y => if m = 0 then (.nan, flagNV) else (.inf (x != y), 0)
  | .fin x m1 e1, .fin y m2 e2 => (.fin (x != y) (m1 * m2) (e1 + e2), 0)

/-- Exact a × b + c: 0 × ∞ is invalid whatever c (R255). -/
def fFma (a b c : FVal) : FVal × Nat :=
  let p := fMul a b
  if p.2 ≠ 0 then p
  else fAdd p.1 c

/-- Exact a / b rounded to odd at 80 bits past the quotient's point (R96); flags of R277. -/
def fDiv (a b : FVal) : FVal × Nat :=
  match a, b with
  | .nan, _ | _, .nan => (.nan, 0)
  | .inf _, .inf _ => (.nan, flagNV)
  | .inf x, .fin y _ _ => (.inf (x != y), 0)
  | .fin x _ _, .inf y => (.fin (x != y) 0 0, 0)
  | .fin x m1 e1, .fin y m2 e2 =>
    if m2 = 0 then (if m1 = 0 then (.nan, flagNV) else (.inf (x != y), flagDZ))
    else
      let q := m1 * 2 ^ 80 / m2
      let r := m1 * 2 ^ 80 % m2
      (.fin (x != y) (2 * q + (if r = 0 then 0 else 1)) (e1 - e2 - 81), 0)

/-- One Newton pass of the integer square root, at most `fuel` of them. -/
def isqrtGo : Nat → Nat → Nat → Nat
  | 0, _, x => x
  | fuel + 1, n, x =>
    let y := (x + n / x) / 2
    if y < x then isqrtGo fuel n y else x

/-- The integer square root: the largest r with r × r ≤ n. -/
def isqrt (n : Nat) : Nat := if n = 0 then 0 else isqrtGo (Nat.log2 n + 2) n (2 ^ (Nat.log2 n / 2 + 1))

/-- √(m × 2^e) rounded to odd with at least 64 bits. -/
def sqrtOdd (m : Nat) (e : Int) : Nat × Int :=
  let m1 := if e % 2 = 0 then m else 2 * m
  let e1 := if e % 2 = 0 then e else e - 1
  let n := m1 * 2 ^ 128
  let r := isqrt n
  (2 * r + (if r * r = n then 0 else 1), e1 / 2 - 65)

/-- √a (R277). -/
def fSqrt (a : FVal) : FVal × Nat :=
  match a with
  | .nan => (.nan, 0)
  | .inf true => (.nan, flagNV)
  | .inf false => (.inf false, 0)
  | .fin neg m e =>
    if m = 0 then (.fin neg 0 0, 0)
    else if neg then (.nan, flagNV)
    else (.fin false (sqrtOdd m e).1 (sqrtOdd m e).2, 0)

/-- 1/√a (R277): the square root of 2^k / m, rounded to odd. -/
def fRsqrt (a : FVal) : FVal × Nat :=
  match a with
  | .nan => (.nan, 0)
  | .inf true => (.nan, flagNV)
  | .inf false => (.fin false 0 0, 0)
  | .fin neg m e =>
    if m = 0 then (.inf neg, flagDZ)
    else if neg then (.nan, flagNV)
    else
      let m1 := if e % 2 = 0 then m else 2 * m
      let e1 := if e % 2 = 0 then e else e - 1
      let r := isqrt (2 ^ 256 / m1)
      (.fin false (2 * r + (if r * r * m1 = 2 ^ 256 then 0 else 1)) (-(e1 / 2) - 129), 0)

/-- floor(ln 2 × 2^320). -/
def ln2 : Nat := 0xb17217f7d1cf79abc9e3b39803f2f6af40f343267298b62d8a0d175b8baafa2be7b876206debac98

/-- Terms of exp in fixed point with 320 fraction bits: t is the n-th term, acc the sum so far. -/
def expGo : Nat → Nat → Nat → Nat → Nat → Nat
  | 0, _, _, _, acc => acc
  | fuel + 1, x, n, t, acc =>
    let t' := t * x / 2 ^ 320 / n
    expGo fuel x (n + 1) t' (acc + t')

/-- 2^a for a finite non-integer a, rounded to odd; integers are exact (R277). Beyond ±2^10 the exact value lies far
outside every finite range, so any magnitude there rounds alike (DEDUCED, log entry 10). -/
def fExp2 (a : FVal) : FVal × Nat :=
  match a with
  | .nan => (.nan, 0)
  | .inf true => (.fin false 0 0, 0)
  | .inf false => (.inf false, 0)
  | .fin neg m e =>
    if m = 0 then (.fin false 1 0, 0)
    else if (Nat.log2 m : Int) + e ≥ 10 then (.fin false 1 (if neg then -2000 else 2000), 0)
    else
      -- a × 2^320 is an integer for every FP32 value; its floor splits into integer and fraction
      let fx : Int := (if neg then -(m : Int) else m) * (2 ^ (320 + e).toNat : Nat)
      let n := fx / (2 ^ 320 : Nat)
      let f := (fx % (2 ^ 320 : Nat)).toNat
      if f = 0 then (.fin false 1 n, 0)
      else
        let y := expGo 80 (f * ln2 / 2 ^ 320) 1 (2 ^ 320) (2 ^ 320)
        (.fin false (2 * (y / 2 ^ 80) + 1) (n - 241), 0)

/-- Terms of atanh in fixed point with 320 fraction bits. -/
def atanhGo : Nat → Nat → Nat → Nat → Nat → Nat
  | 0, _, _, _, acc => acc
  | fuel + 1, z2, n, t, acc => atanhGo fuel z2 (n + 2) (t * z2 / 2 ^ 320) (acc + t / n)

/-- log2 a, rounded to odd; exact for a power of two (R277). -/
def fLog2 (a : FVal) : FVal × Nat :=
  match a with
  | .nan => (.nan, 0)
  | .inf true => (.nan, flagNV)
  | .inf false => (.inf false, 0)
  | .fin neg m e =>
    if m = 0 then (.inf true, flagDZ)
    else if neg then (.nan, flagNV)
    else
      let l := Nat.log2 m
      let n : Int := (l : Int) + e
      if m = 2 ^ l then (.fin (decide (n < 0)) n.natAbs 0, 0)
      else
        let z := (m - 2 ^ l) * 2 ^ 320 / (m + 2 ^ l)
        let ln := 2 * atanhGo 110 (z * z / 2 ^ 320) 1 z 0
        let v : Int := n * (2 ^ 320 : Nat) + (ln * 2 ^ 320 / ln2 : Nat)
        (.fin (decide (v < 0)) (2 * (v.natAbs / 2 ^ 80) + 1) (-241), 0)

/-! ## Order -/

/-- Exact comparison of two values that are not NaN: −1, 0 or 1; −0 and +0 are equal. -/
def fCmp (a b : FVal) : Int :=
  match a, b with
  | .inf x, .inf y => if x == y then 0 else if x then -1 else 1
  | .inf x, _ => if x then -1 else 1
  | _, .inf y => if y then 1 else -1
  | .fin n1 m1 e1, .fin n2 m2 e2 =>
    let r := (dyAdd n1 m1 e1 (!n2) m2 e2).1
    if r < 0 then -1 else if r = 0 then 0 else 1
  | _, _ => 0

/-- a precedes b in the order of minimum and maximum, where −0 < +0 (R254). -/
def fBefore (a b : FVal) : Bool :=
  decide (fCmp a b < 0) || (decide (fCmp a b = 0) && a.neg && !b.neg)

/-- Minimum or maximum as bit patterns: an operand is delivered as it stands, a NaN as the canonical NaN (R254). -/
def FloatFmt.minMax (f : FloatFmt) (isMax : Bool) (a b : Nat) : Nat :=
  let x := f.decode a
  let y := f.decode b
  if x.isNan || y.isNan then f.nan
  else if fBefore x y != isMax then a else b

/-! ## Defined approximations (R279 to R283) -/

/-- pack(S, E, F) of R279. -/
def pack32 (sat : SatMode) (s : Bool) (e : Int) (f : Nat) : Nat × Nat :=
  FloatFmt.fp32.round .rne sat s (2 ^ 23 + f) (e - 23)

/-- A finite nonzero FP32 value split as 2^e × (1 + f/2^23) (R279). -/
def split32 (m : Nat) (e : Int) : Int × Nat :=
  let l := Nat.log2 m
  ((l : Int) + e, m * 2 ^ 23 / 2 ^ l - 2 ^ 23)

/-- round-half-up(num / den). -/
def halfUp (num den : Nat) : Nat := (2 * num + den) / (2 * den)

/-- Table C of R280. -/
def tabC (j : Nat) : Nat := halfUp (2 ^ 37) (128 + j)

/-- Table Q of R281: round-half-up(2^30 √(128 / N)). -/
def tabQ (j : Nat) : Nat :=
  let n := if j ≤ 128 then 128 + j else 2 * j
  (isqrt (2 ^ 69 / n) + 1) / 2

/-- Seven nested square roots: the 128th root. -/
def root128 (n : Nat) : Nat := isqrt (isqrt (isqrt (isqrt (isqrt (isqrt (isqrt n))))))

/-- Table X of R282: round-half-up(2^30 × 2^(j/128)). -/
def tabX (j : Nat) : Nat := (root128 (2 ^ (31 * 128 + j)) + 1) / 2

/-- VRCPA on one element (R280). -/
def apRcp (sat : SatMode) (a : Nat) : Nat × Nat :=
  let f32 := FloatFmt.fp32
  match f32.decode a with
  | .nan => (f32.nan, 0)
  | .inf neg => (f32.signBit neg, 0)
  | .fin neg m e =>
    if m = 0 then f32.deliverInf sat neg
    else
      let sp := split32 m e
      let i := sp.2 / 65536
      let lo := sp.2 % 65536
      let y := tabC i - (tabC i - tabC (i + 1)) * lo / 65536
      if y = 2 ^ 30 then pack32 sat neg (-sp.1) 0
      else pack32 sat neg (-sp.1 - 1) ((y - 2 ^ 29) / 64)

/-- VRSQA on one element (R281). -/
def apRsq (sat : SatMode) (a : Nat) : Nat × Nat :=
  let f32 := FloatFmt.fp32
  match f32.decode a with
  | .nan => (f32.nan, 0)
  | .inf neg => if neg then (f32.nan, 0) else (0, 0)
  | .fin neg m e =>
    if m = 0 then f32.deliverInf sat neg
    else if neg then (f32.nan, 0)
    else
      let sp := split32 m e
      let p := (sp.1 % 2).toNat
      let j := 128 * p + sp.2 / 65536
      let lo := sp.2 % 65536
      let y := tabQ j - (tabQ j - tabQ (j + 1)) * lo / 65536
      let h := (sp.1 - p) / 2
      if y = 2 ^ 30 then pack32 sat false (-h) 0
      else pack32 sat false (-h - 1) ((y - 2 ^ 29) / 64)

/-- VEXPA on one element (R282). Magnitudes of 2^10 and more leave every finite range alike. -/
def apExp (sat : SatMode) (a : Nat) : Nat × Nat :=
  let f32 := FloatFmt.fp32
  match f32.decode a with
  | .nan => (f32.nan, 0)
  | .inf neg => if neg then (0, 0) else f32.deliverInf sat false
  | .fin neg m e =>
    if (Nat.log2 m : Int) + e ≥ 10 && m != 0 then pack32 sat false (if neg then -2000 else 2000) 0
    else
      let fx : Int := (if neg then -(m : Int) else m) * (2 ^ (320 + e).toNat : Nat)
      let n := fx / (2 ^ 320 : Nat)
      let r := (fx % (2 ^ 320 : Nat)).toNat / 2 ^ 297
      let i := r / 65536
      let lo := r % 65536
      let y := tabX i + (tabX (i + 1) - tabX i) * lo / 65536
      pack32 sat false n ((y - 2 ^ 30) / 128)

/-! ## Integers and narrow integers -/

/-- NFMT.V as the fields of R105. -/
structure NarrowFmt where
  width : Nat
  sgn : Bool
  subst : Bool
  deriving DecidableEq, Repr

/-- Fields of an NFMT.V value (R105). -/
def NarrowFmt.of (v : BitVec 6) : NarrowFmt :=
  { width := v.toNat % 16, sgn := v.getLsbD 4, subst := v.getLsbD 5 }

/-- A value of NFMT.V that a write may set (R105): WIDTH 2 to 8, and SUBST only with SGN. -/
def NarrowFmt.legal (v : BitVec 6) : Bool :=
  let f := NarrowFmt.of v
  decide (2 ≤ f.width) && decide (f.width ≤ 8) && !(f.subst && !f.sgn)

/-- Two's complement value of the low w bits. -/
def signedOf (w n : Nat) : Int :=
  let x := n % 2 ^ w
  if w = 0 then 0 else if x ≥ 2 ^ (w - 1) then (x : Int) - (2 ^ w : Nat) else x

/-- Width of the numbers of a type: NFMT.V WIDTH for N4 and N8, never more than the container (R104, R105). -/
def numWidth (nf : NarrowFmt) (t : VType) : Nat := if t.isNarrow then min nf.width t.bits else t.bits

/-- Signedness of the numbers of a type (R103, R105). -/
def numSigned (nf : NarrowFmt) (t : VType) : Bool := if t.isNarrow then nf.sgn else t.isSigned

/-- An integer or narrow container read as a code (R104, no substitution). -/
def readCode (nf : NarrowFmt) (t : VType) (x : Nat) : Int :=
  if numSigned nf t then signedOf (numWidth nf t) x else (x % 2 ^ numWidth nf t : Nat)

/-- An integer or narrow container read as a number, with the substitution of R106. -/
def readNum (nf : NarrowFmt) (t : VType) (x : Nat) : Int :=
  let c := readCode nf t x
  if t.isNarrow && nf.subst && nf.sgn && c == -(2 ^ (nf.width - 1) : Nat) then c + 1 else c

/-- A number written into its container modulo 2^w, with the container filled (R103, R104). -/
def writeNum (nf : NarrowFmt) (t : VType) (x : Int) : Nat :=
  let w := numWidth nf t
  let low := (x % (2 ^ w : Nat)).toNat
  if numSigned nf t then (signedOf w low % (2 ^ t.bits : Nat)).toNat else low

/-- Range of an integer destination: lowest and highest value (R98, R106). -/
def numRange (nf : NarrowFmt) (t : VType) : Int × Int :=
  let w := numWidth nf t
  if numSigned nf t then
    (-(2 ^ (w - 1) : Nat) + (if t.isNarrow && nf.subst then 1 else 0), (2 ^ (w - 1) : Nat) - 1)
  else (0, (2 ^ w : Nat) - 1)

/-- An integer narrowed into a range: nearest end, or the low bits under WRAP (R98). The flag part says whether the
value lay outside. -/
def narrowTo (sat : SatMode) (lo hi x : Int) : Int × Bool :=
  match sat with
  | .wrap => (x, decide (x < lo ∨ x > hi))
  | _ => if x < lo then (lo, true) else if x > hi then (hi, true) else (x, false)

/-- A floating-point value converted to an integer range (R98, R100, R101): value and flags. -/
def fToInt (rm : Rm) (sat : SatMode) (lo hi : Int) (v : FVal) : Int × Nat :=
  match v with
  | .nan => (0, flagNV)
  | .inf neg =>
    match sat with
    | .wrap => (0, flagNV)
    | _ => (if neg then lo else hi, flagNV)
  | .fin neg m e =>
    let r := roundScaled rm neg m e
    let x : Int := if neg then -(r.1 : Int) else r.1
    let c := narrowTo sat lo hi x
    if c.2 then
      (c.1, flagOF ||| flagNX ||| (match sat with | .wrap => 0 | _ => flagSATF))
    else (c.1, if r.2 then flagNX else 0)

/-- An integer as an exact value. -/
def intVal (x : Int) : FVal := .fin (decide (x < 0)) x.natAbs 0

/-! ## Lanes -/

/-- The 2^d lanes from `lo` on, of `bits` bits each, lane i holding f i. -/
def lanes (f : Nat → Nat) (bits : Nat) : Nat → Nat → Nat
  | 0, lo => f lo
  | d + 1, lo => lanes f bits d lo + lanes f bits d (lo + 2 ^ d) * 2 ^ (bits * 2 ^ d)

/-- The flags of 2^d lanes from `lo` on, ORed. -/
def laneFlags (f : Nat → Nat) : Nat → Nat → Nat
  | 0, lo => f lo
  | d + 1, lo => laneFlags f d lo ||| laneFlags f d (lo + 2 ^ d)

/-- Log2 of the number of lanes of a 512-byte register. -/
def laneDepth (bits : Nat) : Nat := if bits = 4 then 10 else if bits = 8 then 9 else if bits = 16 then 8 else 7

/-- Lane i of `bits` bits. -/
def lane (x bits i : Nat) : Nat := x >>> (bits * i) % 2 ^ bits

end Sys2Proof.Machine
end

