-- ==== Sys2Proof/Machine/State.lean ====
section
/-! DEFINITION. The state of the part as plain data: everything the manual gives the machine, and the model's own
fields `iss`, `agenda`, `draws`, `lats` and `fresh`. INVENTORY.md lists every field with its rule and its reset value. -/

namespace Sys2Proof.Machine

/-- A sparse table: keys strictly rising; a key that is not listed holds the table's reset value. -/
abbrev Assoc (α : Type) := List (Nat × α)

/-- Memory as (address, byte) pairs in one canonical form: addresses strictly rising, no byte equal to what an unlisted
address reads as (log entry 5). -/
abbrev Memory := List Host.Cell

/-! ## A context (01 R16) -/

/-- Register files, last-result entries, predicates and staging registers (R40 to R45, R178). -/
structure Regs where
  s : Vector Word 48
  so : Vector Word 8
  /-- sa.0 sa.1 sb.0 sb.1 ld.0 ld.1 -/
  lastS : Vector Word 6
  v : Vector VWord 32
  vo : Vector VWord 8
  /-- va.0 va.1 vb.0 vb.1 ld.0 ld.1 -/
  lastV : Vector VWord 6
  /-- m0 to m7; m0 reads as all ones whatever stands here (R245) -/
  p : Vector PWord 8
  /-- xs0 to xs15, ms0 to ms7 -/
  g : Vector Word 24
  deriving DecidableEq, Repr

inductive LoopState | idle | armed | active
  deriving DecidableEq, Repr

/-- A loop level (R135 to R139, R429 CTL). -/
structure Loop where
  st : LoopState
  count : Word
  stride : Word
  iter : Word
  first : Word
  last : Word
  depth : Word
  deriving DecidableEq, Repr

/-- KIND of CSW (R166). -/
inductive Kind | primary | secondary | second
  deriving DecidableEq, Repr

/-- Control state of a context: PC, chamber, loops, return stack, and the fields of CSW (R31, R133 to R139, R166). -/
structure Ctl where
  pc : BitVec 14
  /-- active chamber: false A, true B (R133) -/
  chamberB : Bool
  /-- chamber that the director gave the context's kernel (R17, R133, R150) -/
  homeB : Bool
  loops : Vector Loop 6
  /-- active levels, innermost first (R136) -/
  nest : List (Fin 6)
  lix : Vector Word 6
  lct : Vector Word 6
  lsd : Vector Word 6
  rstk : Vector Word 8
  depth : Fin 9
  kind : Kind
  /-- NEST: 0 no second, 1 first level, 2 second level (R166) -/
  level : Fin 3
  pbv : Bool
  pbd : Bool
  pbt : BitVec 14
  dly : Bool
  schk : Bool
  srv : Bool
  sres : Fin 8
  /-- the bundle at PC was reached by a sequential advance past the end of its region (R140) -/
  past : Bool
  /-- the bundle at PC is the first of a task (R150) -/
  first : Bool
  deriving DecidableEq, Repr

/-- A pending write of NFMT.V or NFMT.M and the bundles left for it (R108). -/
structure NfmtWrite where
  toM : Bool
  value : BitVec 6
  left : Fin 4
  deriving DecidableEq, Repr

/-- Special registers of a context that are no control state (R161). -/
structure Sprs where
  tags : Word
  xst : Vector Byte 64
  nfmtV : BitVec 6
  nfmtM : BitVec 3
  nfmtPend : List NfmtWrite
  amax : BitVec 32
  fps : BitVec 7
  lidx : BitVec 16
  gsize : BitVec 16
  tile : Vector (BitVec 32) 4
  taskn : Word
  asid : BitVec 14
  gen : BitVec 32
  /-- tempo at which TTEMPO reads 0, moved on by every hold of the gang (R161) -/
  start : Nat
  deriving DecidableEq, Repr

/-- What lands when a fixed-latency result arrives (R42, R49, R163, R178, R428). -/
inductive LandWhat
  | s (d : SReg) (into : Option SLast) (val : Word)
  | v (ds : List (VReg × VWord)) (into : Option VLast)
  | p (m : Fin 8) (val : PWord)
  | spr (r : Spr) (val : Word)
  | stg (g : Fin 24) (val : Word)
  | fps (flags : BitVec 7)
  /-- AMAX candidate, if any element gave one, and NANSEEN (R288, R289) -/
  | amax (cand : Option (BitVec 32)) (nan : Bool)
  | fwr (c : CtxId) (sel : FSel) (val : Word)
  | fres (c : CtxId) (pc : Option Word)
  | fkill (c : CtxId) (val : Word)
  | fpass (c : CtxId) (host : Bool) (val : Word)
  | hmov (hd hs : Fin 4) (move clear : Bool)
  /-- an elastic access to a local window completes: its tag, destination and value (R224) -/
  | tag (t : Fin 64) (d : Option SReg) (val : Word)
  /-- XCAN acts on the command that holds a tag (R374) -/
  | xcan (t : Fin 64)
  deriving DecidableEq, Repr

/-- An in-flight fixed-latency result: when it lands and when its bundle issued. -/
structure Landing where
  due : Nat
  issued : Nat
  slot : Fin 8
  what : LandWhat
  deriving DecidableEq, Repr

/-- A translated address: its memory key, physical address, key material and class. -/
structure Tgt where
  key : Nat
  pa : Nat
  dev : Bool
  host : Bool
  kid : Nat
  knum : Nat
  cached : Bool
  deriving DecidableEq, Repr

/-- Kinds of access, for the race guard and FENCE: whether it reads and whether it writes (R233, R234). -/
structure AccessKind where
  rd : Bool
  wr : Bool
  deriving DecidableEq, Repr

/-- What a memory access does at its home point. Addresses are the model's memory keys (R378). -/
inductive AccOp
  | load (key bytes : Nat) (sx : Bool) (d : SReg)
  | store (key bytes : Nat) (val : Nat)
  | vload (key : Nat) (d : VReg)
  | vstore (key : Nat) (val mask : VWord)
  | gather (esz : Nat) (keys : List (Option Nat)) (d : VReg)
  | scatter (esz : Nat) (items : List (Nat × Nat))
  | atom (key : Nat) (o : AOp) (t : AType) (x exp : Word) (d : SReg)
  | aord (key : Nat) (fl : Bool) (n count : BitVec 32) (x : Word)
  | tagRead (block : Nat) (d : SReg)
  | tagWrite (block : Nat) (val : BitVec 16)
  deriving DecidableEq, Repr

/-- A committed access to the core scratchpad or shared scratch that has not performed (R185, R187). -/
structure Access where
  /-- the tempo at which it performs, moved on by each displacement (R187) -/
  due : Nat
  /-- tempo from performing to the landing of its result (R185, R187, R202, R210) -/
  lat : Nat
  issued : Nat
  /-- 0 for the core scratchpad; for shared scratch the banks it needs -/
  banks : BitVec 32
  sub : Nat
  /-- the tag of an elastic form (R224) -/
  tag : Option (Fin 64)
  op : AccOp
  /-- bundle, virtual address and values read at issue, as a record names them (R197, R413) -/
  pc : BitVec 14
  va : Word
  ops : List Word
  /-- its context has ended: it still performs, and its result is discarded (R432; log entry 34) -/
  discard : Bool
  deriving DecidableEq, Repr

/-- An elastic access to the translated space in flight (R193). -/
structure Elastic where
  id : Nat
  pc : BitVec 14
  tag : Fin 64
  issued : Nat
  /-- virtual address -/
  va : Word
  /-- values read at issue, in field order (R413) -/
  ops : List Word
  /-- the access with its virtual address in place of the key; translated when it performs -/
  op : AccOp
  /-- bytes of the access -/
  bytes : Nat
  /-- set while a deferred condition stops it (R197) -/
  stopped : Bool
  /-- the contribution of an AORD is held in its home bank (R208) -/
  banked : Bool
  /-- its request is on the ring, under this number of its station (R10, R379) -/
  sent : Bool := false
  seq : BitVec 16 := 0
  /-- the translation on which it completes, once it has passed translation (R220) -/
  tgt : Option Tgt
  deriving DecidableEq, Repr

/-! ## Freezing (15 R406 to R414) -/

/-- What a deferred item stops (R197, R309, R359). -/
inductive DefWhat
  | mem (id : Nat)
  | mx (id : Nat)
  | xe (t : Fin 64)
  | none
  deriving DecidableEq, Repr

/-- A deferred condition, as its entry of the deferred list has it (R413). -/
structure DefItem where
  cause : Nat
  detail : Nat
  slot : Fin 8
  tag : Nat
  pc : BitVec 14
  addr : Word
  ops : List Word
  what : DefWhat
  /-- chain and link for LINKLOST and FABRIC (R412) -/
  chain : Nat
  link : Nat
  aux : Word
  /-- UNIT and TEST of a record, where the test has run before (R399, R412), and the memory key of the unit to be tested -/
  unit : Nat := 0
  test : Nat := 0
  place : Option Nat := none
  deriving DecidableEq, Repr

/-- How a frozen context is to go on once its alignment is reached (R431). -/
inductive Resume
  | atSres
  | atPc (pc : Word)
  deriving DecidableEq, Repr

/-- What a frozen context holds beside its freeze frame in device memory (R406 to R413, R425). -/
structure Frozen where
  serial : Word
  /-- tempo f -/
  at_ : Nat
  cause : Nat
  detail : Nat
  slot : Fin 8
  /-- FADDR, CHID, LINK, AUX and UNIT of the record, and task tempo at f (R412) -/
  faddr : Word
  chain : Nat
  link : Nat
  aux : Word
  unit : Nat
  ftt : Nat
  /-- DEFER, OVF and HELD of the record -/
  deferred : Bool
  ovf : Bool
  heldGang : Bool
  /-- the deferred list, up to 24 entries; their STATE bytes live in the frame -/
  items : List DefItem
  /-- conditions found after the record was written (R197) -/
  late : List DefItem
  /-- last-result landings kept back (R407) -/
  kept : List Landing
  drn : Bool
  /-- check bits of the capability in force; none while no second holds it -/
  cap : Option Nat
  /-- entry the next second starts at: false the fault domain's handler, true the supervisor (R419, R433) -/
  sup : Bool
  /-- passed to the host, or halted (R423, R424) -/
  host : Bool
  /-- outcome of the self-test (R412 TEST) -/
  test : Nat
  /-- a resume that waits for its alignment or for the array (R294, R431) -/
  resume : Option (Nat × Resume)
  /-- the record waits for its self-test before it is written (R406 step 4) -/
  testing : Bool
  /-- the record has been written (R414) -/
  written : Bool
  deriving DecidableEq, Repr

/-- A capability (R425). -/
structure Cap where
  part : PartId
  target : CtxId
  serial : Word
  check : Nat
  deriving DecidableEq, Repr

/-- Whether and how a context runs. -/
inductive Run
  /-- holds no work -/
  | free
  /-- presents and issues bundles -/
  | run
  /-- drains after a TEND that issued (R149) -/
  | drain
  /-- frozen (R406) -/
  | frozen
  /-- parked at a safe point, or stopped for a switch or a resign (R467, R457, R483) -/
  | parked
  deriving DecidableEq, Repr

/-- A bundle held at presenting (R125). -/
structure Hold where
  since : Nat
  /-- its conditions came to hold: it issues on the next tempo -/
  met : Bool
  /-- it issues when it next presents -/
  go : Bool
  /-- mask that a tag wait read at presenting (R147) -/
  mask : Option Word
  /-- at the end of the last tempo its conditions held, that of a barrier apart (R125, R144) -/
  rest : Bool
  /-- the number under which the chain controllers have reserved the host slots of a CHB (R322) -/
  chb : Option Nat := none
  deriving DecidableEq, Repr

/-- One barrier of a member: its arrived bit and recorded phase (R144). -/
structure Arrival where
  arrived : Bool
  phase : Bool
  deriving DecidableEq, Repr

/-- What a TLBI invalidates (R219). -/
inductive TlbiWhat
  | all
  | asid (a : BitVec 14)
  | page (a : BitVec 14) (va : Word)
  deriving DecidableEq, Repr

/-- An elastic access that has completed while others that name its tag are in flight (R194): until the tag is set its register stays
in flight (R49), and a lost one gives it no value (R195). -/
structure Done where
  tag : Fin 64
  reg : Option SReg
  val : Option Word
  issued : Nat
  lost : Bool
  deriving DecidableEq, Repr

/-- The shape record that an XCPR looked up when its bundle presented (R369). -/
inductive RecRead
  | none
  /-- it is being read as an elastic load, until a tempo -/
  | reading (due : Nat)
  | got (r : BitVec 512)
  | failed (cause detail : Nat)
  deriving DecidableEq, Repr

/-- A hardware context (R16). -/
structure Ctx where
  run : Run
  regs : Regs
  ctl : Ctl
  spr : Sprs
  caps : Vector (Option Cap) 4
  part : PartId
  /-- gang the context is a member of; a second has that of its frozen thread (R321, R419) -/
  gang : Option Nat
  /-- the frozen context a second was spawned for (R169, R419) -/
  forCtx : Option CtxId
  /-- freeze serial of that context at the spawn: what its capability names (R422) -/
  forSerial : Option Word := none
  arrivals : Vector Arrival 16
  /-- tempo at which the next bundle presents (R37, R125) -/
  present : Nat
  /-- tempo of the last SAFE or task start (R479 SINCE) -/
  mark : Nat
  hold : Option Hold
  /-- the bundle at PC has issued a slot before: it is re-entered from the snapshot, and has counted for R108 -/
  counted : Bool
  /-- landings in flight, in issue order (R49) -/
  pend : List Landing
  /-- the last tempo in which scalar registers were written by a landing, and the issue tempo of each such write (R49) -/
  wrote : Nat × List (Nat × SReg) := (0, [])
  acc : List Access
  elas : List Elastic
  done : List Done
  /-- TLBIs of wider scope than core not yet complete on other cores (R219) -/
  tlbi : List (TlbiWhat × TlbScope)
  /-- deferred conditions that will freeze the context before its next bundle (R197, R409) -/
  defer : List DefItem
  /-- the shape record of the bundle that presents -/
  record : RecRead
  frz : Option Frozen
  /-- kept last-result landings that enter at a distance from the next issue (R407): landing and distance -/
  relast : List (Nat × Landing)
  /-- incarnation of the context (R380) -/
  incarn : BitVec 16
  deriving DecidableEq, Repr

/-! ## Commands of the footprint table (13 R352 to R355) -/

/-- Window of a footprint (R354): a member's core scratchpad, a member's shared scratch, translated space of an ASID,
or a chamber. -/
inductive Window
  | scratch (core : CoreId)
  | shared (core : CoreId)
  | virt (asid : BitVec 14)
  | chamber (b : Bool)
  deriving DecidableEq, Repr

/-- One bounding range, lowest and highest byte (R354). -/
structure Footprint where
  win : Window
  lo : Nat
  hi : Nat
  deriving DecidableEq, Repr

inductive CmdKind
  | xcp (ndimM1 : Fin 8) (sm dm : Bool)
  | xcnv (fl : Bool)
  | xcpr (put : Bool) (record : BitVec 512)
  | xpf
  | xrte
  | xsnd
  | xrcv
  | xwr (mem : Bool)
  | xrd (mem : Bool)
  | xatm (mem : Bool)
  | chc (chain : Nat)
  | chs (chain : Nat)
  deriving DecidableEq, Repr

/-- How far a started engine command has come: its sources are read, then its data is written, then its block tags, and then it ends
(R232, R349, R374). -/
structure Progress where
  /-- 0: it reads; 1: it writes data; 2: all data is written; 3: its tags are, too -/
  stage : Fin 4
  /-- sectors or groups written -/
  wrote : Nat
  /-- sectors of a copy's source that have been read, last first: number and bytes -/
  read : List (Nat × List Byte) := []
  /-- status so far, and the kind that the plane groups of a conversion agree on (R297, R351) -/
  status : Nat
  agreed : Option (Bool × Nat)
  /-- words that an XRTE is to write, once it has read (R373) -/
  words : List (Nat × Nat)
  /-- block tags that are to be written, last first, by address -/
  tags : List (Nat × BitVec 16)
  deriving DecidableEq, Repr

/-- The progress of a command that has written nothing. -/
def Progress.start : Progress := { stage := 0, wrote := 0, status := 0, agreed := none, words := [], tags := [] }

/-- A command that holds its tag: an entry of the footprint table and what it still has to do (R352 to R354). -/
structure Cmd where
  id : Nat
  tag : Fin 64
  kind : CmdKind
  pc : BitVec 14
  issued : Nat
  /-- staging values in reading order, or the scalar operand of CHC and CHS -/
  ops : List Word
  src : Option Footprint
  dst : Option Footprint
  /-- a target that later commands wait on as on a destination (XATM, R394) -/
  also : Option Footprint
  /-- ids of the earlier entries it waits on (R355) -/
  edges : List Nat
  /-- tempo before which it does not start (AT, R348) -/
  notBefore : Nat
  rm : Rm
  sat : SatMode
  subo : Bool
  /-- the register that AT read (R413) -/
  atw : Option Word
  started : Bool
  stopped : Bool
  /-- tempo at which XCAN acted on it while it could still be ended (R374, R404) -/
  cancelAt : Option Nat
  refused : Bool
  /-- slots of a timed command read or delivered, and whether any delivered slot carried data (R388, R389) -/
  slots : List Nat
  slotsData : Bool
  /-- an elastic fabric command has injected its request (R404) -/
  injected : Bool
  prog : Progress := Progress.start
  /-- incarnations that its traffic names: of its context, and of its sides' endpoints (R380, R381) -/
  incs : List (BitVec 16) := []
  deriving DecidableEq, Repr

/-! ## The core (R16, R31, R72, R140, R217, R292, R310, R369) -/

/-- A template entry: its bundle and patch mask (R71). -/
structure Template where
  bundle : Bundle
  mask : Byte
  deriving DecidableEq, Repr

/-- What the core keeps of a chamber (R140, R141). -/
structure Chamber where
  valid : Bool
  filled : Nat
  entry : Nat
  /-- the latest fill since the last IFENCE ended OK (R141) -/
  ok : Bool
  /-- address of the first segment of its last OK fill (R464) -/
  seg : Word
  /-- the core's template table as it stood at the start of the latest fill (R72) -/
  table : Assoc Template := []
  deriving DecidableEq, Repr

/-- A command of the plane array (R292, R302). -/
structure ArrayCmd where
  id : Nat
  ctx : CtxId
  pc : BitVec 14
  mlat : Bool
  /-- chain (package-wide number) and link of an MMA -/
  chain : Nat
  link : Fin 64
  op : CellOp
  msa : Word
  msb : Word
  msk : Word
  mst : Word
  nfmtM : BitVec 3
  issued : Nat
  /-- start tempo S (R302, R303), moved on by every hold of its gang (R305) -/
  plan : Nat
  /-- tempo that it occupies the array: the passes of an MMA, 4 for an MLAT (R292, R302) -/
  passes : Nat
  started : Bool
  /-- a condition found after the commit discarded it; it waits to be reissued (R309) -/
  stopped : Bool
  /-- the product is discarded at landing (R301, R343) -/
  discard : Bool
  /-- A and B as the scratchpad stood at the tempo after its issue, block by block with their tags, once they are taken (R306) -/
  captured : Bool
  ablk : List (BitVec 16 × BitVec 512)
  bblk : List (BitVec 16 × BitVec 512)
  deriving DecidableEq, Repr

/-- An LKR, LKW or LKZ on its way to a link slot (R313, R314). -/
inductive LkWhat
  | read (row : Fin 32) (v : Fin 32)
  | write (row : Fin 32) (val : VWord)
  | zero
  deriving DecidableEq, Repr

structure LkOp where
  due : Nat
  ctx : CtxId
  slot : Fin 8
  issued : Nat
  what : LkWhat
  deriving DecidableEq, Repr

/-- The A-plane latch: the blocks and tags it was loaded from, row by row (R310, R311). -/
structure Latch where
  valid : Bool
  k : Nat
  pa : Nat
  a2 : Bool
  blocks : List (BitVec 16 × BitVec 512)
  deriving DecidableEq, Repr

/-- Storage of one link slot: elements of 96-bit m and, in bit 96, poison (R115), and the chain it serves or is
reserved to (R322). -/
structure LinkSlot where
  tile : Assoc (BitVec 97)
  owner : Option Nat
  deriving DecidableEq, Repr

/-- A TLB entry: partition and ASID, page number with its level, and the leaf (R217). -/
structure TlbEntry where
  part : PartId
  asid : BitVec 14
  level : Fin 3
  page : Nat
  leaf : Word
  deriving DecidableEq, Repr

/-- What a logical core holds beside its contexts. -/
structure Core where
  /-- chambers A (0 to 4095) and B (4096 to 8191) and the resident area (8192 to 8319), by bundle index -/
  code : Assoc Bundle
  chA : Chamber
  chB : Chamber
  /-- bundles of the resident image, and which it is: partition, ASID and address (R18, R140) -/
  resCount : Nat
  resImage : Option (PartId × BitVec 14 × Word)
  templates : Assoc Template
  /-- working tables of chambers whose latest fill ended OK since the last IFENCE, the latest first (R72, R141) -/
  working : List (Bool × Assoc Template)
  tlb : List TlbEntry
  /-- shape records by ASID and address, most recently used first (R369) -/
  records : List (BitVec 14 × Word × BitVec 512)
  links : Vector LinkSlot 8
  array : List ArrayCmd
  lk : List LkOp
  /-- tempo at which the array finishes its last issued command (R302) -/
  arrayFree : Nat
  latch : Latch
  /-- tempo of the last primary issue and the slots its bundle occupied (R453) -/
  used : Nat × BitVec 8
  /-- the last tempo at which the core used shared-scratch ports, and those bank ports (R187) -/
  ports : Nat × BitVec 32
  /-- physical core and whether its cluster is retired (R13, R15) -/
  phys : Fin 36
  retired : Bool
  /-- last ASID and partition the core ran (R491) -/
  lastAsid : Option (PartId × BitVec 14)
  /-- the engine last took a command of the secondary context (R353) -/
  engineSec : Bool
  deriving DecidableEq, Repr

/-! ## Chains (12 R317 to R343) -/

/-- Link states (R324). -/
inductive LinkState | free | open_ | ripe | sent | closed | frozen | faulted
  deriving DecidableEq, Repr

/-- An entry of a chain: a link, or a spare (R318, R324, R337). -/
structure ChainLink where
  core : Nat
  slot : Fin 8
  count : Nat
  hop : Fin 4
  spare : Bool
  used : Bool
  state : LinkState
  held : LinkState
  landed : Nat
  hopr : Bool
  /-- the shadow, if held: the 1,024 hop values as sent (R326) -/
  shadow : Option (List (BitVec 97))
  slost : Bool
  reason : Fin 16
  /-- a resend waits for the thaw (R342) -/
  resend : Bool
  deriving DecidableEq, Repr

/-- A close that CHC armed (R330, R333), and, once it has started, its rows with their block tags and its status. -/
structure Close where
  ctx : CtxId
  tag : Fin 64
  dest : Nat
  rm : Rm
  sat : SatMode
  subo : Bool
  started : Bool
  done : Bool
  rows : List (Nat × Nat × Nat)
  btags : List (Nat × BitVec 16)
  xst : Nat
  deriving DecidableEq, Repr

structure Chain where
  uid : Nat
  /-- tempo from which every host has it built, and from which its id is free again (R322, R343) -/
  born : Nat
  freed : Option Nat
  gang : Nat
  id : Fin 64
  owner : Nat
  ofmt : Nat
  anchor : Int
  pm1 : Nat
  bias : Nat
  scale : BitVec 32
  rstr : Nat
  baddr : Nat
  nlink : Nat
  links : List ChainLink
  close : Option Close
  frozen : Bool
  flink : Nat
  freason : Nat
  ftempo : Word
  /-- the fault is a hop that failed its integrity check: the ring segment is tested (R334, R436) -/
  fcrc : Bool
  deriving DecidableEq, Repr

/-! ## Fabric (14) -/

/-- Where an elastic packet stands (R391, R392); `arrived`: an answer that has reached its source. -/
inductive PacketAt | pending | slot | refusedOnce | retry (due : Nat) | arrived
  deriving DecidableEq, Repr

/-- Kinds of elastic packets (R379). -/
inductive PacketKind
  | write | read | readReply | atomic | atomicReply | writeAck
  /-- a drop notice, or what stands for a packet lost on a dead segment -/
  | drop (dead : Bool)
  | hop (chain : Nat) (toLink : Fin 64)
  /-- management, or a reserved KIND (R379) -/
  | other (code : Byte)
  deriving DecidableEq, Repr

structure Packet where
  id : Nat
  kind : PacketKind
  part : PartId
  /-- package of the request's source, its context, and the request number that an answer carries back (R379) -/
  srcPkg : BitVec 12
  src : CtxId
  seq : BitVec 16
  /-- it travels back to the context: its source endpoint is the one the request was sent to -/
  back : Bool
  /-- incarnations of its source and destination endpoints (R380) -/
  sinc : BitVec 16
  dinc : BitVec 16
  /-- context that a request is sent to, or the ASID of a translated target -/
  dstCtx : Option CtxId
  dstAsid : Option (BitVec 14)
  srcDie : DieId
  dstDie : DieId
  /-- the target of a request (R378) -/
  tgt : Option Tgt
  bytes : List Byte
  len : Nat
  /-- atomic: operation, type, operand, expected value -/
  atom : Option (AOp × AType × Word × Word)
  /-- hop payload -/
  hopVals : List (BitVec 97)
  hopFmt : Fin 4
  /-- command the reply belongs to -/
  cmd : Nat
  at_ : PacketAt
  /-- elastic access of the source context that it carries out (R10, R193), and of an ordered one its type, number, count and operand -/
  acc : Option Nat := none
  aord : Option (Bool × BitVec 32 × BitVec 32 × Word) := none
  /-- the 32 header bytes as they stand in its slot, and the payload of a hop (R326, R379) -/
  wire : List Byte := []
  deriving DecidableEq, Repr

/-- A timed slot in flight (R385, R388). -/
structure TimedSlot where
  gang : Nat
  entry : Nat
  data : Option (List Byte)
  /-- it waits in the hold buffer of the receiver's station (R390) -/
  waiting : Bool
  /-- its header bytes (R379) -/
  wire : List Byte := []
  deriving DecidableEq, Repr

/-! ## Gangs (16 R447 to R458) -/

/-- A barrier (R144). -/
structure Barrier where
  phase : Bool
  count : Nat
  expected : Nat
  done : Nat
  deriving DecidableEq, Repr

/-- A timetable entry (R382). -/
structure TimeEntry where
  sub : Fin 4
  desc : Bool
  rcv : Nat
  snd : Nat
  off : Nat
  dead : Bool
  deriving DecidableEq, Repr

/-- An entry of a kernel's safe-point table (R91, R464). -/
structure SafePoint where
  id : BitVec 16
  /-- absolute bundle index of its SAFE bundle (R462) -/
  pc : Nat
  /-- bytes of a member block at this point (R466) -/
  size : Nat
  items : List (BitVec 64)
  deriving DecidableEq, Repr

/-- What the image header of a kernel fixes for its gang (R87 to R92). -/
structure Kernel where
  addr : Word
  /-- task length of a fixed-length kernel (R151) -/
  tlen : Option Nat
  pinv : Bool
  guard : Bool
  /-- the image declares a single chamber (R17, R92) -/
  single : Bool
  /-- the image holds a CHB (R466) -/
  chb : Bool
  /-- ENTRY of the start fill (R150) -/
  entry : Nat
  mdist : Nat
  extents : List Nat
  order : List Nat
  safePoints : List SafePoint
  times : List TimeEntry
  /-- sub-rings that its timetables name, an empty timetable's too (R384) -/
  subs : List (Fin 4)
  deriving DecidableEq, Repr

/-- The effective fault-domain and scheduling fields of a leaf (R444). -/
structure Domain where
  hent : BitVec 16
  sent : BitVec 16
  bench : Nat
  rimg : Word
  /-- region that owns the fault-domain fields, which names the domain with its ASID -/
  owner : Word
  asid : BitVec 14
  deriving DecidableEq, Repr

structure Gang where
  id : Nat
  region : Nat
  part : PartId
  asid : BitVec 14
  kernel : Kernel
  dom : Domain
  members : List CtxId
  /-- members that have not ended -/
  alive : Nat
  start : Nat
  k : Nat
  /-- tempo from which the gang is held (R416) -/
  held : Option Nat
  /-- a dead segment's drain also holds it (R399) -/
  drainHold : Bool
  barriers : Vector Barrier 16
  /-- upper end of each member's tile slice (R451) -/
  slices : List Nat
  /-- tasks ended, kill word and whether a member was killed (R452, R432) -/
  tasksEnded : Nat
  kill : Option (BitVec 32)
  sliceStart : Nat
  /-- sum of the task tempo of the tasks ended (R480) -/
  taskTempo : Nat
  /-- members wait at their first bundle for member 0, frozen with SCHED (R448) -/
  waitStart : Bool
  /-- safe-point id at which the members park (R467) -/
  target : Option (BitVec 16)
  /-- orders of the director: adjourn at the next safe point, switch out, resign -/
  adjourn : Bool
  switch : Bool
  resign : Bool
  /-- the stop is complete and the adjourn area is being written (R469) -/
  writing : Bool
  /-- the area has been written, and has drained at this tempo (R470) -/
  area : Option Nat := none
  /-- tempo and wall time of the last parking of a stop (R469) -/
  stopped : Nat × Nat := (0, 0)
  deriving DecidableEq, Repr

/-! ## Regions, queues and the director (16) -/

/-- STATE of a region (R445). -/
inductive RegState
  | idle | queued | waiting | running | switched | adjourned | done | killed | failed | resigned | held
  deriving DecidableEq, Repr

/-- An enqueue record (R440) with the ASID and function the part found for it (R441). -/
structure Record where
  rcb : Word
  seq : BitVec 32
  gen : BitVec 32
  irq : Bool
  vector : Nat
  cadr : Word
  user : List Byte
  asid : BitVec 14
  func : FuncId
  deriving DecidableEq, Repr

/-- The part of a group that a region's effective fields name (R443, R444). -/
structure Eff where
  budt : Nat
  budc : Nat
  budm : Nat
  prio : Nat
  fixed : Bool
  pinv : Bool
  adjn : Bool
  rsgn : Bool
  dom : Domain
  adja : Word
  sava : Word
  deriving DecidableEq, Repr

/-- An ordered-atomic stream at its home bank (R208): contributions held, each with its context and access. -/
structure Stream where
  part : PartId
  asid : BitVec 14
  key : Nat
  count : BitVec 32
  next : BitVec 32
  held : List (BitVec 32 × Word × CtxId × Nat)
  fl : Bool
  /-- gangs whose members have contributed to it (R458, R464) -/
  gangs : List Nat
  deriving DecidableEq, Repr

/-- What a switch or an adjourn saves of one member (R458, R464): its place, its context, its core's scratchpad bytes and
block tags, its core's own state, and the content of the link slots its core hosts for the gang. -/
structure SavedMember where
  lidx : Nat
  ended : Bool
  ctx : Ctx
  scratch : Memory
  tags : Assoc (BitVec 16)
  core : Core
  /-- chamber B was its core's primary's (R17) -/
  ownsB : Bool
  deriving DecidableEq, Repr

/-- What a switch or an adjourn saves of a gang (R458, R464, R469). -/
structure Saved where
  gang : Gang
  /-- tempo of the stop and its safe-point id -/
  stop : Nat
  id : BitVec 16
  members : List SavedMember
  chains : List Chain
  streams : List (Nat × Stream)
  deriving DecidableEq, Repr

/-- A region of an admitted tree (R443 to R448). -/
structure Region where
  id : Nat
  rcb : Word
  parent : Option Nat
  root : Nat
  queue : QueueId
  part : PartId
  asid : BitVec 14
  gen : BitVec 32
  /-- order of admission of its root, and its place in the tree (R455, R480) -/
  order : Nat
  leaf : Bool
  kernel : Word
  layer : Nat
  eff : Eff
  preds : List (Nat × BitVec 32)
  /-- its due tempo, once known (R447) -/
  due : Option Nat
  children : List Nat
  state : RegState
  cause : Nat
  detail : Nat
  kill : BitVec 32
  /-- START: of a group, that of its first child (R443, R447) -/
  startT : Option Nat
  endT : Option Nat
  tasksEnded : Nat
  tasksAll : Nat
  /-- tasks that have started (R442 INCOMP) -/
  tasksBegun : Nat
  gang : Option Nat
  /-- an update region of a replacement (R460) -/
  update : Bool
  /-- what a switch or an adjourn saved, with the gang as it stood (R458, R469): its contexts' saved state -/
  saved : Option Saved
  /-- the completion record and MSI-X are suppressed (R505) -/
  mute : Bool
  deriving DecidableEq, Repr

/-- A root with its record and the director's progress with its completion (R442). -/
structure Root where
  region : Nat
  record : Record
  queue : QueueId
  /-- the completion record has been written -/
  written : Bool
  /-- the tempo at which it has drained (R442) -/
  drained : Nat
  deriving DecidableEq, Repr

/-- A weight replacement in progress (R459, R460). -/
structure Replace where
  gen : BitVec 32
  nl : Nat
  rcbs : List Word
  asid : BitVec 14
  layer : Nat
  region : Option Nat
  stopped : Bool
  deriving DecidableEq, Repr

structure Queue where
  part : PartId
  serv : Bool
  stop : Bool
  en : Bool
  qgen : BitVec 32
  fifo : List Record
  /-- last accepted SEQ by ASID (R441) -/
  lastSeq : Assoc (BitVec 32)
  repl : Option Replace
  qrepg : Word
  qrepa : Word
  qerr : Word
  deriving DecidableEq, Repr

/-! ## Partitions and functions (R486 to R506, R513 to R517) -/

/-- An installed ASID table entry (R489). -/
structure AsidEntry where
  root : Word
  pasid : BitVec 20
  func : Nat
  asid : BitVec 14
  sroff : Nat
  srcnt : Nat
  deriving DecidableEq, Repr

/-- A flag-time post in force (R474 to R484). -/
structure Post where
  ft : Nat
  queues : List Nat
  /-- contexts and ASIDs of the gangs in scope at acceptance: the units to scrub (R484) -/
  ctxs : List CtxId
  asids : List (BitVec 14)
  /-- the vacancy scrub has started, at this tempo and wall time -/
  scrub : Option (Nat × Nat)
  deriving DecidableEq, Repr

/-- An eviction record (R479) with the gang it decides. -/
structure Evict where
  gang : Nat
  rcb : Word
  dec : Fin 4
  est : Fin 8
  rem : Nat
  left : Nat
  since : Nat
  dirty : Nat
  tp : Nat
  ta : Nat
  deriving DecidableEq, Repr

/-- A log entry of the range monitors (R499). -/
structure LogEntry where
  mon : Fin 16
  asid : BitVec 14
  kind : Fin 4
  src : BitVec 12
  count : Nat
  first : Nat
  last : Nat
  deriving DecidableEq, Repr

/-- A write of device memory in a write queue: until it drains, the memory window reads the old bytes (R222, R237). -/
structure WqEntry where
  ctx : CtxId
  /-- further contexts whose ordered-atomic contributions it holds (R208, R235) -/
  also : List CtxId := []
  /-- the access that wrote it, as a FENCE counts it; none for an engine, a packet or the director (R234) -/
  kind : Option AccessKind
  /-- home bank or HBM controller: each drains in order (R242, R243) -/
  queue : Nat
  drain : Nat
  key : Nat
  old : List Byte
  deriving DecidableEq, Repr

/-- What asked for a scrub: the host, a function-level reset or a partition reset (R502, R505, R506). -/
inductive ScrubOwner | host | flr | prst
  deriving DecidableEq, Repr

/-- A scrub that runs: its request, the tempo and the wall time of its start, and what asked for it (R502 to R506). -/
structure ScrubJob where
  req : BitVec 512
  t0 : Nat
  w0 : Nat
  owner : ScrubOwner
  deriving DecidableEq, Repr

structure Part where
  pclus : Word
  /-- clusters as PCLUS was last written: a retired cluster leaves `pclus` but keeps its freeze frames (R15, R411) -/
  frames : Word
  pmem : Vector Word 8
  psrow : Word
  pway : BitVec 16
  phbm : Byte
  pring : Word
  pkeys : Word
  pasidtBase : Word
  pasidtN : BitVec 10
  asids : List AsidEntry
  /-- incarnations of ASIDs (R380) -/
  asidInc : Assoc (BitVec 16)
  pfrz : Word
  prkey : BitVec 10
  pbench : Nat
  wsweepDone : Bool
  spb : Nat
  tdrn : Nat
  tscr : Nat
  marg : Nat
  ckbw : Nat
  rcpta : Word
  prstDone : Bool
  hacta : Word
  hactRef : Bool
  hkill : BitVec 32
  tlbh : Word
  tlbhDone : Bool
  /-- freeze serial (R410) -/
  serial : Word
  /-- fault queue: frozen contexts in ascending serial order (R421) -/
  fq : List CtxId
  /-- what became of spent capabilities, by freeze serial: 1 resumed, 2 killed, 3 passed (R434) -/
  spent : Assoc Nat
  /-- halted fault domains by ASID and owning region (R423) -/
  halted : List (BitVec 14 × Word)
  /-- by priority, the place (queue, admission, region) of the leaf whose turn in the ring ended last (R455) -/
  turns : Assoc (List Nat)
  post : Option Post
  ftstat : Word
  evicts : List Evict
  mon0 : Vector Word 16
  mon1 : Vector Word 16
  log : List LogEntry
  logb : Word
  logs : Word
  logw : Word
  logr : Word
  lost : Word
  /-- error log of the partition: codes of ignored and refused writes, in order -/
  errors : List Nat
  /-- write queues (R222, R237, R242), and the writes that have entered them -/
  wq : List WqEntry
  wqCount : Nat
  /-- scrubs that run, oldest first (R502, R503, R505) -/
  scrub : List ScrubJob
  deriving DecidableEq, Repr

structure Func where
  part : PartId
  vfqmap : Vector (BitVec 16) 16
  flrrl : Word
  ready : Bool
  busy : Bool
  step : Fin 8
  deriving DecidableEq, Repr

/-! ## Dies and the package (R10 to R15, R397, R399, R495, R512 to R526) -/

/-- A cached line of the slice cache (R493). -/
structure CacheLine where
  addr : Nat
  part : PartId
  key : Nat
  way : Fin 16
  dirty : Bool
  deriving DecidableEq, Repr

structure Die where
  inService : Bool
  stackUp : Bool
  /-- 512 KiB steps of each bank that are slice cache (R20, R492), and those that firmware asks for -/
  cacheSteps : Nat
  wantSteps : Nat
  cache : List CacheLine
  tlb : List TlbEntry
  streams : List Stream
  sump : Vector Word 16
  /-- the last tempo in which its sump counted, and what it counted: a write of that tempo comes first (R398) -/
  counted : Nat × List (Fin 16 × Nat)
  /-- partition whose turn it is at its station, packets it has injected in that turn, and the last request number (R379, R391, R487) -/
  turn : PartId
  served : Nat
  seq : BitVec 16
  corr : BitVec 16
  soft : BitVec 16
  rets : Byte
  retn : Byte
  spare : Byte
  /-- physical cores harvested at manufacture (R13, R522) -/
  harvested : BitVec 36
  deriving DecidableEq, Repr

/-- A unit under test serves no access (R436): its kind and a memory key that lies in it. -/
structure UnderTest where
  unit : TUnit
  place : Nat
  deriving DecidableEq, Repr

/-- The drain of a dead segment: slots lost by source die, and hops lost by chain and sending link (R399, R401). -/
structure Drain where
  die : DieId
  desc : Bool
  lost : Assoc Nat
  hops : List (Nat × Nat)
  deriving DecidableEq, Repr

structure Pkg where
  id : BitVec 12
  /-- ids of the other packages on the rack ring (R184, R378) -/
  peers : List (BitVec 12)
  bstate : Fin 4
  trained : Bool
  wtv : Bool
  brup : BitVec 4
  /-- what wall time has still to be slewed by, in fs, and the wall time of the last timestamp (R519) -/
  ptm : Int
  ptmAt : Nat
  evt : Byte
  pcap : BitVec 12
  hfac : Fin 4
  tj : Nat
  pwr : Nat
  remoteFac : Fin 3
  fac : Fin 3
  thermal : Fin 3
  power : Fin 3
  /-- wall times since which the conditions have been clear: of the thermal demands for 1/2 and 1/4, of the power demand, and of another
  package's demands for 1/2 and 1/4 (R525) -/
  clear : Vector (Option Nat) 5
  mwkey : BitVec 10
  /-- LOADED keys by id, with the number of their key material; an id that is not listed is EMPTY (R495) -/
  keys : Assoc Nat
  /-- key number each block of device memory was last written under, by block address; a raw block has number 0 (R494) -/
  blockKey : Assoc Nat
  kimpStatus : Nat
  scrqStatus : Nat
  /-- dead segments: die and direction, with whether the drain still runs (R399) -/
  dead : List (DieId × Bool × Bool)
  /-- drains that run, and the counts that the host was told with the interrupts of those that have ended (R401) -/
  drains : List Drain
  deadReports : List (Assoc Nat)
  /-- firmware's route table by source and destination die: whether it is the descending direction; an entry that is not listed
  is the way of fewer segments (R391, R400) -/
  routes : Assoc Bool
  /-- sub-rings claimed by gangs (R384) -/
  claims : List (Nat × Fin 4)
  /-- packets of other packages that stand at the bridge station of this package, and those that have left for another package, oldest
  first (R377) -/
  rackIn : List Packet := []
  rackOut : List Packet := []
  linkUp : Bool
  /-- binary logarithm of BAR2's size, which Resizable BAR sets from 1 to 512 GiB (R512) -/
  bar2 : Nat := 39
  /-- what AER has reported: correctable link errors, and link and transaction errors that are not (R511, R523) -/
  aerCorrected : Nat := 0
  aerErrors : Nat := 0
  /-- 64 KiB pages of host memory that the host refuses, by memory key (R212) -/
  hostRefused : List Nat
  /-- MSI-X sent: function and vector, oldest first -/
  msix : List (Nat × Nat)
  /-- receipts, reports and log records written, as their contents -/
  receipts : List (List Byte)
  /-- the last answer sent over MCTP (R526) -/
  mctp : List Byte
  /-- status of the last enqueue's DMWr: 0 none, 1 SC, 2 UR, 3 DRS (R441) -/
  dmwr : Nat
  /-- bytes that the last memory-window read returned, none where it took Unsupported Request (R512, R521) -/
  window : Option (List Byte)
  errors : List Nat
  retired : List Nat
  /-- units under test (R436) -/
  tests : List UnderTest
  /-- what retirement maps out: bank regions, link slots and rows, by a memory key (R437) -/
  mappedOut : List UnderTest
  /-- frame addresses of the threads passed to the host, oldest first (R433) -/
  passed : List Nat
  /-- firmware: running image, staged image -/
  firmware : Nat
  staged : Option Nat
  digests : List Nat
  serial : Nat
  deriving DecidableEq, Repr

/-! ## The bundle that is issuing (the model's own field, log entry 1) -/

/-- The issue point of a slot instruction: context, slot, the bundle and its prefix (R31, R99, R406). -/
structure Issue where
  ctx : CtxId
  slot : Fin 8
  pc : BitVec 14
  words : Bundle
  rm : Rm
  sat : SatMode
  /-- operands come from the snapshot of the freeze frame (R406, R431) -/
  reentry : Bool
  /-- a slot of the bundle faulted: the rest does not execute -/
  stop : Bool
  /-- index of the next bundle where a LOOP of count 0 skips its body (R135) -/
  next : Option Nat
  /-- control state as every slot of the bundle reads it, once slot 0 may have changed it (R34) -/
  before : Option Ctl
  /-- writes of NFMT that were pending before the bundle: its own writes are not counted by it (R108) -/
  nfmtOld : Nat
  deriving DecidableEq, Repr

/-- The whole part, plain data. -/
structure State where
  /-- tempo of the timing domain; TEMPO reads it modulo 2^64 (R4, R24) -/
  tempo : Nat
  /-- wall time in ns (R26), and the fs within the ns -/
  wall : Nat
  wallFs : Nat
  mem : Memory
  /-- block tags by block address (R21); an unlisted block is untagged -/
  tags : Assoc (BitVec 16)
  /-- 64-byte blocks of memory that hold an uncorrectable error, by block address (R197, R522; log entry 60) -/
  bad : List Nat
  ctxs : Assoc Ctx
  cores : Assoc Core
  /-- footprint table of each context, oldest entry first (R352) -/
  cmds : Assoc (List Cmd)
  gangs : Assoc Gang
  chains : Assoc Chain
  regions : Assoc Region
  roots : List Root
  queues : Assoc Queue
  parts : Assoc Part
  funcs : Assoc Func
  dies : Assoc Die
  pkg : Pkg
  packets : List Packet
  timed : List TimedSlot
  iss : Issue
  agenda : List (Nat × Instr)
  draws : Nat
  /-- elastic delays drawn so far: by partition for its own work, and under 32 for the rest (R507) -/
  lats : Assoc Nat
  /-- next unused number of a gang, chain, command, packet, access or region -/
  fresh : Nat
  deriving DecidableEq, Repr

/-! ## Outcomes -/

/-- Reasons for which the machine itself would stop. The manual names none: every fault of the manual freezes a context
and the part goes on (15 R406), and every undefined value is a free value. -/
inductive Fault
  deriving DecidableEq, Repr

/-- Reasons to refuse an instruction. -/
inductive Refusal
  /-- raised by an arm of `exec` whose instruction has no meaning yet; safe -/
  | notModelled (mnemonic : String)
  deriving DecidableEq, Repr

/-! ## Reset -/

/-- Registers at 0 (R158, R247). -/
def Regs.reset : Regs :=
  { s := Vector.replicate 48 0, so := Vector.replicate 8 0, lastS := Vector.replicate 6 0,
    v := Vector.replicate 32 0, vo := Vector.replicate 8 0, lastV := Vector.replicate 6 0,
    p := Vector.replicate 8 0, g := Vector.replicate 24 0 }

/-- An idle loop level (R135; its other words 0 by log entry 4). -/
def Loop.reset : Loop :=
  { st := .idle, count := 0, stride := 0, iter := 0, first := 0, last := 0, depth := 0 }

/-- Control state of a context that holds no work (R135, R166; log entry 4). -/
def Ctl.reset : Ctl :=
  { pc := 0, chamberB := false, homeB := false, loops := Vector.replicate 6 Loop.reset, nest := [],
    lix := Vector.replicate 6 0, lct := Vector.replicate 6 0, lsd := Vector.replicate 6 0,
    rstk := Vector.replicate 8 0, depth := 0, kind := .primary, level := 0,
    pbv := false, pbd := false, pbt := 0, dly := false, schk := false, srv := false, sres := 0, past := false, first := false }

/-- Special registers (R161; those the manual sets at task start 0 by log entry 4). -/
def Sprs.reset : Sprs :=
  { tags := 0, xst := Vector.replicate 64 0, nfmtV := 0x18, nfmtM := 0, nfmtPend := [], amax := 0, fps := 0,
    lidx := 0, gsize := 0, tile := Vector.replicate 4 0, taskn := 0, asid := 0, gen := 0, start := 0 }

/-- A context that holds no work. -/
def Ctx.reset : Ctx :=
  { run := .free, regs := .reset, ctl := .reset, spr := .reset, caps := Vector.replicate 4 none, part := 0,
    gang := none, forCtx := none, arrivals := Vector.replicate 16 { arrived := false, phase := false },
    present := 0, mark := 0, hold := none, counted := false, pend := [], acc := [], elas := [], done := [], tlbi := [], defer := [],
    record := .none, frz := none, relast := [], incarn := 0 }

/-- An empty chamber, invalid for entry (R75). -/
def Chamber.reset : Chamber := { valid := false, filled := 0, entry := 0, ok := false, seg := 0 }

/-- A core that holds no work (log entries 4 and 5). -/
def Core.reset : Core :=
  { code := [], chA := .reset, chB := .reset, resCount := 0, resImage := none, templates := [], working := [],
    tlb := [], records := [], links := Vector.replicate 8 { tile := [], owner := none }, array := [], lk := [], arrayFree := 0,
    latch := { valid := false, k := 0, pa := 0, a2 := false, blocks := [] }, used := (0, 0), ports := (0, 0), phys := 0,
    retired := false, lastAsid := none, engineSec := false }

def Queue.reset : Queue :=
  { part := 0, serv := false, stop := false, en := false, qgen := 0, fifo := [], lastSeq := [], repl := none,
    qrepg := 0, qrepa := 0, qerr := 0 }

/-- A partition as R486 and R515 reset it; TDRN, TSCR, MARG and CKBW by log entry 6. -/
def Part.reset : Part :=
  { pclus := 0, frames := 0, pmem := Vector.replicate 8 0, psrow := 0, pway := 0, phbm := 1, pring := 0x100, pkeys := 0,
    pasidtBase := 0, pasidtN := 0, asids := [], asidInc := [], pfrz := 0, prkey := 0, pbench := 0, wsweepDone := true,
    spb := 131072, tdrn := 60000, tscr := 120000, marg := 37232, ckbw := 200000, rcpta := 0, prstDone := true,
    hacta := 0, hactRef := false, hkill := 0, tlbh := 0, tlbhDone := true, serial := 0, fq := [], spent := [], halted := [], turns := [],
    post := none, ftstat := 0, evicts := [], mon0 := Vector.replicate 16 0, mon1 := Vector.replicate 16 0x8000,
    log := [], logb := 0, logs := 0, logw := 0, logr := 0, lost := 0, errors := [], wq := [], wqCount := 0, scrub := [] }

/-- A function block (R515); its partition by log entry 4. -/
def Func.reset : Func :=
  { part := 0, vfqmap := Vector.replicate 16 0, flrrl := 0, ready := true, busy := false, step := 0 }

/-- A die: 1 MiB of slice cache a bank (R20), sumps and counters 0 (R397, R522), four spares (log entry 4). -/
def Die.reset : Die :=
  { inService := false, stackUp := false, cacheSteps := 2, wantSteps := 2, cache := [], tlb := [], streams := [],
    sump := Vector.replicate 16 0, counted := (0, []), turn := 0, served := 0, seq := 0, corr := 0, soft := 0, rets := 0, retn := 0, spare := 4,
    harvested := 0 }

/-- The package controller (R518, R520, R524; log entry 4). -/
def Pkg.reset : Pkg :=
  { id := 0, peers := [], bstate := 0, trained := false, wtv := false, brup := 0, ptm := 0, ptmAt := 0, evt := 0, pcap := 1800, hfac := 0,
    tj := 0, pwr := 0, remoteFac := 0, fac := 0, thermal := 0, power := 0, clear := Vector.replicate 5 none, mwkey := 0, keys := [],
    blockKey := [], kimpStatus := 0, scrqStatus := 0, dead := [], drains := [], deadReports := [], routes := [],
    claims := [], linkUp := true, hostRefused := [], msix := [], receipts := [], mctp := [], dmwr := 0, window := none, errors := [],
    retired := [], tests := [], mappedOut := [], passed := [], firmware := 0, staged := none, digests := [], serial := 0 }

/-- The issue point before any bundle has issued (log entry 1). -/
def Issue.reset : Issue :=
  { ctx := 0, slot := 0, pc := 0, words := 0, rm := .rne, sat := .dflt, reentry := false, stop := false,
    next := none, before := none, nfmtOld := 0 }

/-- The part right after reset: BSTAT.STATE 0 and nothing resident (R520); the firmware check of R521 comes next, as the
event PACKAGE_RESET. -/
def State.reset : State :=
  { tempo := 0, wall := 0, wallFs := 0, mem := [], tags := [], bad := [], ctxs := [], cores := [], cmds := [], gangs := [],
    chains := [], regions := [], roots := [], queues := [], parts := [], funcs := [], dies := [], pkg := .reset,
    packets := [], timed := [], iss := .reset, agenda := [], draws := 0, lats := [], fresh := 1 }

end Sys2Proof.Machine
end

