-- ==== Sys2Proof/Machine/Ops.lean ====
section
/-! DEFINITION. The named operations over the state: sparse tables, memory, home points, contexts, gangs, landings,
taking a fault (15 R406 to R413) and resuming from one (15 R431). -/

namespace Sys2Proof.Machine

/-! ## Sparse tables -/

/-- The entry of a key, if listed. -/
def lookup? {α : Type} : Assoc α → Nat → Option α
  | [], _ => none
  | (k, v) :: rest, n => if k = n then some v else lookup? rest n

/-- The entry of a key, or the table's reset value. -/
def lookupD {α : Type} (d : α) (l : Assoc α) (n : Nat) : α := (lookup? l n).getD d

/-- Set the entry of a key, keeping the keys rising. -/
def insertAt {α : Type} : Assoc α → Nat → α → Assoc α
  | [], n, v => [(n, v)]
  | (k, w) :: rest, n, v =>
    if n < k then (n, v) :: (k, w) :: rest
    else if n = k then (n, v) :: rest
    else (k, w) :: insertAt rest n v

/-- Remove the entry of a key. -/
def removeAt {α : Type} (l : Assoc α) (n : Nat) : Assoc α := l.filter fun x => x.1 != n

/-! ## Memory -/

/-- What an unlisted address reads as: zero (log entry 5). -/
def unlistedByte : Byte := 0

/-- One byte of memory. -/
def readByte : Memory → Nat → Byte
  | [], _ => unlistedByte
  | (k, b) :: rest, a => if k = a then b else if a < k then unlistedByte else readByte rest a

/-- Write one byte, keeping the canonical form: the unlisted value removes the entry. -/
def writeByte : Memory → Nat → Byte → Memory
  | [], a, b => if b = unlistedByte then [] else [(a, b)]
  | (k, c) :: rest, a, b =>
    if a < k then (if b = unlistedByte then (k, c) :: rest else (a, b) :: (k, c) :: rest)
    else if a = k then (if b = unlistedByte then rest else (a, b) :: rest)
    else (k, c) :: writeByte rest a b

/-- Addresses rise strictly from a bound and no byte is the unlisted value. -/
def memWfFrom : Nat → Memory → Bool
  | _, [] => true
  | lo, (k, b) :: rest => decide (lo ≤ k) && (b != unlistedByte) && memWfFrom (k + 1) rest

/-- The canonical form of memory. -/
def Memory.wf (m : Memory) : Bool := memWfFrom 0 m

/-- n bytes from an address, little-endian (R1). -/
def readN (m : Memory) (a : Nat) : Nat → Nat
  | 0 => 0
  | n + 1 => (readByte m a).toNat + 256 * readN m (a + 1) n

/-- Write n bytes at an address, little-endian (R1). -/
def writeN (m : Memory) (a : Nat) : Nat → Nat → Memory
  | 0, _ => m
  | n + 1, v => writeN (writeByte m a (BitVec.ofNat 8 v)) (a + 1) n (v / 256)

/-- n bytes from an address as a list. -/
def readBytes (m : Memory) (a : Nat) : Nat → List Byte
  | 0 => []
  | n + 1 => readByte m a :: readBytes m (a + 1) n

/-- Write a list of bytes at an address. -/
def writeBytes (m : Memory) (a : Nat) : List Byte → Memory
  | [] => m
  | b :: bs => writeBytes (writeByte m a b) (a + 1) bs

/-- Write n bytes of zero at an address. -/
def zeroBytes (m : Memory) (lo n : Nat) : Memory := m.filter fun c => c.1 < lo || lo + n ≤ c.1

/-- Write n bytes at an address, each given by its offset. -/
def fillBytes (m : Memory) (lo n : Nat) (f : Nat → Byte) : Memory :=
  (m.filter fun c => decide (c.1 < lo))
    ++ ((List.range n).filterMap fun i => if f i = 0 then none else some (lo + i, f i))
    ++ m.filter fun c => decide (lo + n ≤ c.1)

/-- The number that bytes hold, little-endian. -/
def numOf (l : List Byte) : Nat := l.foldr (fun b v => b.toNat + 256 * v) 0

/-- n bytes of a number, little-endian. -/
def bytesOf (v : Nat) : Nat → List Byte
  | 0 => []
  | n + 1 => BitVec.ofNat 8 v :: bytesOf (v / 256) n

/-! ## Home points (R184, R221, R378)

The model's memory key of a byte is its 55-bit global address within the issuing package; host memory lies above. -/

/-- Device memory of a die's stack. -/
def keyDev (die off : Nat) : Nat := die * 2 ^ 40 + off

/-- Device memory by a physical address of this package: PA[38:36] is the stack (R184). -/
def keyPA (pa : Nat) : Nat := keyDev (pa / 2 ^ 36 % 8) (pa % 2 ^ 36)

/-- Shared scratch of a die by physical byte offset. -/
def keyShared (die off : Nat) : Nat := die * 2 ^ 40 + 2 * 2 ^ 38 + off

/-- Core scratchpad of a package core. -/
def keyScratch (core : CoreId) (off : Nat) : Nat :=
  core.val / 32 * 2 ^ 40 + 3 * 2 ^ 38 + core.val % 32 * 2 ^ 22 + off

/-- Device memory of a peer package by its id and byte offset (R184). -/
def keyPeer (pkg off : Nat) : Nat := 2 ^ 56 + pkg * 2 ^ 39 + off

/-- Host memory by host bus address, as the function and PASID of an ASID reach it (R184, R489). -/
def keyHost (fn pasid a : Nat) : Nat := 2 ^ 80 + (fn * 2 ^ 20 + pasid) * 2 ^ 51 + a

/-- Link storage of a core's slot (R378). -/
def keyLink (core : CoreId) (slot off : Nat) : Nat := keyScratch core 0 + 2 ^ 36 + slot * 2 ^ 18 + off

/-- The core that a key of its scratchpad or link storage names. -/
def coreAt (key : Nat) : CoreId := Fin.ofNat 256 (key / 2 ^ 40 % 8 * 32 + key / 2 ^ 22 % 32)

/-- Where a register or a bundle of the instruction scratchpad stands in the list of uncorrectable errors: beyond every address (R415; log
entry 60). -/
def keyReg (c : CtxId) (r : Nat) : Nat := 2 ^ 160 + 64 * (c.val * 256 + r)
def keyCode (k : CoreId) (index : Nat) : Nat := 2 ^ 161 + 64 * (k.val * 16384 + index)

/-- The address of the 64-byte block of a key (R21). -/
def blockOf (key : Nat) : Nat := key / 64 * 64

def State.tagOf (s : State) (key : Nat) : BitVec 16 := lookupD 0 s.tags (blockOf key)

/-- Set a block's tag; an untagged block is not listed. -/
def setTagIn (t : Assoc (BitVec 16)) (key : Nat) (v : BitVec 16) : Assoc (BitVec 16) :=
  if v = 0 then removeAt t (blockOf key) else insertAt t (blockOf key) v

def State.setTag (s : State) (key : Nat) (v : BitVec 16) : State := { s with tags := setTagIn s.tags key v }

def State.setMem (s : State) (m : Memory) : State := { s with mem := m }

/-! ## Parts of the machine -/

/-- The core of a context (R16). -/
def coreOf (c : CtxId) : CoreId := ⟨c.val / 2, by omega⟩

/-- The context is the core's secondary one. -/
def isSec (c : CtxId) : Bool := c.val % 2 == 1

def primaryOf (k : CoreId) : CtxId := ⟨2 * k.val, by omega⟩
def secondaryOf (k : CoreId) : CtxId := ⟨2 * k.val + 1, by omega⟩

/-- Die of a package core, and its die-local number (R14). -/
def dieOf (k : CoreId) : DieId := ⟨k.val / 32, by omega⟩
def localOf (k : CoreId) : Fin 32 := ⟨k.val % 32, by omega⟩

def State.ctx (s : State) (c : CtxId) : Ctx := lookupD Ctx.reset s.ctxs c.val
def State.setCtx (s : State) (c : CtxId) (x : Ctx) : State := { s with ctxs := insertAt s.ctxs c.val x }
def State.mapCtx (s : State) (c : CtxId) (f : Ctx → Ctx) : State := s.setCtx c (f (s.ctx c))

/-- A core at reset: physical core of its own number (log entry 4). -/
def coreReset (k : Nat) : Core := { Core.reset with phys := Fin.ofNat 36 (k % 32) }

def State.core (s : State) (k : CoreId) : Core := lookupD (coreReset k.val) s.cores k.val
def State.setCore (s : State) (k : CoreId) (x : Core) : State := { s with cores := insertAt s.cores k.val x }
def State.mapCore (s : State) (k : CoreId) (f : Core → Core) : State := s.setCore k (f (s.core k))

def State.part (s : State) (p : PartId) : Part := lookupD Part.reset s.parts p.val
def State.setPart (s : State) (p : PartId) (x : Part) : State := { s with parts := insertAt s.parts p.val x }
def State.mapPart (s : State) (p : PartId) (f : Part → Part) : State := s.setPart p (f (s.part p))

def State.queue (s : State) (q : QueueId) : Queue := lookupD Queue.reset s.queues q.val
def State.setQueue (s : State) (q : QueueId) (x : Queue) : State := { s with queues := insertAt s.queues q.val x }
def State.mapQueue (s : State) (q : QueueId) (f : Queue → Queue) : State := s.setQueue q (f (s.queue q))

def State.func (s : State) (f : FuncId) : Func := lookupD Func.reset s.funcs f.val
def State.setFunc (s : State) (f : FuncId) (x : Func) : State := { s with funcs := insertAt s.funcs f.val x }
def State.mapFunc (s : State) (f : FuncId) (g : Func → Func) : State := s.setFunc f (g (s.func f))

def State.die (s : State) (d : DieId) : Die := lookupD Die.reset s.dies d.val
def State.setDie (s : State) (d : DieId) (x : Die) : State := { s with dies := insertAt s.dies d.val x }
def State.mapDie (s : State) (d : DieId) (f : Die → Die) : State := s.setDie d (f (s.die d))

def State.gang? (s : State) (g : Nat) : Option Gang := lookup? s.gangs g
def State.setGang (s : State) (g : Nat) (x : Gang) : State := { s with gangs := insertAt s.gangs g x }
def State.mapGang (s : State) (g : Nat) (f : Gang → Gang) : State :=
  match s.gang? g with
  | some x => s.setGang g (f x)
  | none => s

def State.region? (s : State) (r : Nat) : Option Region := lookup? s.regions r
def State.setRegion (s : State) (r : Nat) (x : Region) : State := { s with regions := insertAt s.regions r x }
def State.mapRegion (s : State) (r : Nat) (f : Region → Region) : State :=
  match s.region? r with
  | some x => s.setRegion r (f x)
  | none => s

def State.chain? (s : State) (u : Nat) : Option Chain := lookup? s.chains u
def State.setChain (s : State) (u : Nat) (x : Chain) : State := { s with chains := insertAt s.chains u x }
def State.mapChain (s : State) (u : Nat) (f : Chain → Chain) : State :=
  match s.chain? u with
  | some x => s.setChain u (f x)
  | none => s

def State.cmdsOf (s : State) (c : CtxId) : List Cmd := lookupD [] s.cmds c.val
def State.setCmds (s : State) (c : CtxId) (l : List Cmd) : State := { s with cmds := insertAt s.cmds c.val l }

/-- The gang a context works for. -/
def State.gangOf (s : State) (c : CtxId) : Option Gang :=
  match (s.ctx c).gang with
  | some g => s.gang? g
  | none => none

/-- The context runs a kernel of fixed length as a member of its gang: a second is never timed (R420). -/
def State.fixedOf (s : State) (c : CtxId) : Option Nat :=
  match s.gangOf c with
  | some g => if (s.ctx c).ctl.kind = .second then none else g.kernel.tlen
  | none => none

/-- The context is the primary context of a fixed-length kernel (R303, R348, R387). -/
def State.timedPrimary (s : State) (c : CtxId) : Bool :=
  (s.ctx c).ctl.kind == .primary && (s.fixedOf c).isSome

/-- The guard flag of the context's kernel (R233). -/
def State.guardOf (s : State) (c : CtxId) : Bool :=
  match s.gangOf c with
  | some g => g.kernel.guard
  | none => false

/-- The gang of a member is held: its task tempo does not advance (R127, R416). -/
def State.heldCtx (s : State) (c : CtxId) : Bool :=
  match s.gangOf c with
  | some g => (s.ctx c).ctl.kind != .second && (match g.held with | some h => decide (h ≤ s.tempo) | none => false)
  | none => false

/-- Task tempo: tempo since the task's first bundle without tempo of a hold (R161). -/
def State.ttempo (s : State) (c : CtxId) : Nat :=
  let x := s.ctx c
  match s.gangOf c with
  | some g =>
    match g.held with
    | some h => if x.ctl.kind = .second then s.tempo - x.spr.start else min h s.tempo - x.spr.start
    | none => s.tempo - x.spr.start
  | none => s.tempo - x.spr.start

/-- A fresh number. -/
def State.bump (s : State) : State := { s with fresh := s.fresh + 1 }

/-- Advance the counter of free values (log entry 3). -/
def State.drawn (s : State) : State := { s with draws := s.draws + 1 }

/-- Put an event in the agenda, due at a tempo; events due together keep the order in which they were put. -/
def agendaPut : List (Nat × Instr) → Nat → Instr → List (Nat × Instr)
  | [], t, i => [(t, i)]
  | (u, j) :: rest, t, i => if u ≤ t then (u, j) :: agendaPut rest t i else (t, i) :: (u, j) :: rest

/-- The partition whose elastic work an event carries on, none for the rest of the part. -/
def State.partOf (s : State) (i : Instr) : Option PartId :=
  match i with
  | .elasticAccessComplete c _ _ | .orderedAtomicArrival c _ | .engineCommandEnd c _ _ | .secondSpawn c => some (s.ctx c).part
  | .packetInject n | .packetReceive n _ _ | .requestRetry n => (s.packets.find? fun p => p.id == n).map (·.part)
  | .closeComplete u => ((lookup? s.chains u).bind fun ch => lookup? s.gangs ch.gang).map (·.part)
  | _ => none

/-- The next elastic delay of stream k of delays (log entry 2): those of one partition's work are drawn apart from another's (R507). -/
def State.delay (s : State) (k : Nat) : Nat := Config.latency (33 * lookupD 0 s.lats k + k)

/-- A delay of a stream has been drawn. -/
def State.delayed (s : State) (k : Nat) : State := { s with draws := s.draws + 1, lats := insertAt s.lats k (lookupD 0 s.lats k + 1) }

/-- Let an event follow after at least `least` tempo and an elastic delay that the manual leaves open (log entry 2). -/
def State.later (s : State) (least : Nat) (i : Instr) : State :=
  let k := match s.partOf i with | some p => p.val | none => 32
  { s.delayed k with agenda := agendaPut s.agenda (s.tempo + least + s.delay k) i }

/-- Let an event follow after exactly `n` tempo. -/
def State.after (s : State) (n : Nat) (i : Instr) : State :=
  { s with agenda := agendaPut s.agenda (s.tempo + n) i }

/-! ## CSW (R166) -/

def Kind.code : Kind → Nat | .primary => 0 | .secondary => 1 | .second => 2

/-- The core status word of a context. -/
def Ctl.csw (k : Ctl) : Word :=
  BitVec.ofNat 64 (k.pbt.toNat * 2 ^ 26 + k.pbd.toNat * 2 ^ 25 + k.pbv.toNat * 2 ^ 24 + k.dly.toNat * 2 ^ 23
    + k.kind.code * 2 ^ 18 + (if k.kind = .second then 1 else 0) * 2 ^ 16 + k.level.val * 2 ^ 14
    + k.schk.toNat * 2 ^ 4 + k.srv.toNat * 2 ^ 3 + k.sres.val)

/-! ## Partitions and physical addresses (R14, R216, R411) -/

/-- Package cluster of a core (R14). -/
def clusterOf (k : CoreId) : Nat := k.val / 4

/-- A core belongs to a partition (R486). -/
def Part.hasCore (p : Part) (k : CoreId) : Bool := p.pclus.getLsbD (clusterOf k)

/-- Clusters that retirement took from a partition, with those it has: they keep their freeze frames (R15, R411). -/
def Part.hasFrame (p : Part) (k : CoreId) : Bool := (p.pclus ||| p.frames).getLsbD (clusterOf k)

/-- Cores of a partition, in ascending package number. -/
def Part.cores (p : Part) : List CoreId := (List.finRange 256).filter p.hasCore

/-- Index of a context's freeze frame in its partition's freeze area: twice the rank of its core among the partition's
cores, plus 1 for the secondary context (DESIGN CHOICE, log entry 11). Cores of a retired cluster keep theirs. -/
def frameIndex (p : Part) (c : CtxId) : Nat :=
  2 * (((List.finRange 256).filter fun k => p.hasFrame k && decide (k.val < (coreOf c).val)).length) + (if isSec c then 1 else 0)

/-- Physical address of a context's freeze frame (R411). -/
def State.framePA (s : State) (c : CtxId) : Nat :=
  let p := s.part (s.ctx c).part
  p.pfrz.toNat % 2 ^ 52 + 16384 * frameIndex p c

/-- Memory key of a context's freeze frame. -/
def State.frameKey (s : State) (c : CtxId) : Nat := keyPA (s.framePA c)

/-- Bytes of the freeze area: one frame for each context of the partition (R411). -/
def Part.freezeBytes (p : Part) : Nat := 32768 * ((List.finRange 256).filter p.hasFrame).length

/-! ## The snapshot (R408, R412) -/

/-- Bytes of an operand by its directory byte. -/
def snapBytes (d : Nat) : Nat := if d = 1 then 8 else if d = 2 then 512 else if d = 3 then 128 else 0

/-- Directory byte of slot sl, position n. -/
def State.snapDir (s : State) (c : CtxId) (sl n : Nat) : Nat :=
  (readByte s.mem (s.frameKey c + 128 + 8 * sl + n)).toNat

/-- Offset in the frame of entry j of the snapshot directory. -/
def State.snapOffset (s : State) (c : CtxId) : Nat → Nat
  | 0 => 4096
  | j + 1 => s.snapOffset c j + snapBytes (readByte s.mem (s.frameKey c + 128 + j)).toNat

/-- A snapshot operand's value. -/
def State.snapValue (s : State) (c : CtxId) (sl n : Nat) : Nat :=
  readN s.mem (s.frameKey c + s.snapOffset c (8 * sl + n)) (snapBytes (s.snapDir c sl n))

/-! ## Registers and shadows (R40 to R50) -/

def sLastIndex (p : SLast) (old : Bool) : Fin 6 :=
  match p, old with
  | .sa, false => 0 | .sa, true => 1 | .sb, false => 2 | .sb, true => 3 | .ld, false => 4 | .ld, true => 5

def vLastIndex (p : VLast) (old : Bool) : Fin 6 :=
  match p, old with
  | .va, false => 0 | .va, true => 1 | .vb, false => 2 | .vb, true => 3 | .ld, false => 4 | .ld, true => 5

/-- A scalar register as it stands (R40). -/
def Regs.getS (r : Regs) : SReg → Word
  | .s i => r.s[i]
  | .so i => r.so[i]
  | .last p old => r.lastS[sLastIndex p old]
  | .zero => 0
  | .ones => BitVec.allOnes 64

/-- The lane-index vector: element i of s bits holds i modulo 2^s (R41). -/
def laneVector (bits : Nat) : VWord := BitVec.ofNat 4096 (lanes (fun i => i % 2 ^ bits) bits (laneDepth bits) 0)

/-- A vector register as it stands, the lane-index vector under an element size (R41). -/
def Regs.getV (r : Regs) (bits : Nat) : VReg → VWord
  | .v i => r.v[i]
  | .vo i => r.vo[i]
  | .last p old => r.lastV[vLastIndex p old]
  | .zero => 0
  | .lane => laneVector bits

/-- A predicate; m0 reads as all ones (R245). -/
def Regs.getP (r : Regs) (m : Fin 8) : PWord := if m = 0 then BitVec.allOnes 1024 else r.p[m]

/-- Write a scalar destination; zero discards (R40). -/
def Regs.setS (r : Regs) (d : SReg) (x : Word) : Regs :=
  match d with
  | .s i => { r with s := r.s.set i x }
  | .so i => { r with so := r.so.set i x }
  | _ => r

/-- Write a vector destination; zero discards (R41). -/
def Regs.setV (r : Regs) (d : VReg) (x : VWord) : Regs :=
  match d with
  | .v i => { r with v := r.v.set i x }
  | .vo i => { r with vo := r.vo.set i x }
  | _ => r

/-- Write a predicate; m0 is never written (R45). -/
def Regs.setP (r : Regs) (m : Fin 8) (x : PWord) : Regs := if m = 0 then r else { r with p := r.p.set m x }

/-- A result enters a last-result pair: .1 takes the old .0 (R42). -/
def Regs.pushS (r : Regs) (p : SLast) (x : Word) : Regs :=
  { r with lastS := (r.lastS.set (sLastIndex p true) r.lastS[sLastIndex p false]).set (sLastIndex p false) x }

def Regs.pushV (r : Regs) (p : VLast) (x : VWord) : Regs :=
  { r with lastV := (r.lastV.set (vLastIndex p true) r.lastV[vLastIndex p false]).set (vLastIndex p false) x }

/-- Scalar registers that a landing writes. -/
def LandWhat.destS : LandWhat → Option SReg
  | .s d _ _ => some d
  | .tag _ d _ => d
  | _ => none

/-- Vector registers that a landing writes. -/
def LandWhat.destV : LandWhat → List VReg
  | .v ds _ => ds.map (·.1)
  | _ => []

/-- Predicate that a landing writes. -/
def LandWhat.destP : LandWhat → Option (Fin 8)
  | .p m _ => some m
  | _ => none

/-- Registers that an access in flight will write. -/
def AccOp.destS : AccOp → Option SReg
  | .load _ _ _ d => some d
  | .atom _ _ _ _ _ d => some d
  | .tagRead _ d => some d
  | _ => none

def AccOp.destV : AccOp → Option VReg
  | .vload _ d => some d
  | .gather _ _ d => some d
  | _ => none

/-- A register that shadows can cover: the main and operand files (R43, R49). -/
def sIsReg : SReg → Bool | .s _ | .so _ => true | _ => false
def vIsReg : VReg → Bool | .v _ | .vo _ => true | _ => false

/-! ## Reading operands at the issue point -/

/-- The context that issues. -/
def State.ic (s : State) : Ctx := s.ctx s.iss.ctx

/-- Register that an operation on link storage will write. -/
def LkWhat.destV : LkWhat → Option VReg
  | .read _ v => some (.v v)
  | _ => none

/-- A scalar register is in the shadow of a write of an earlier bundle of the issuing context (R34, R49). -/
def State.shadowS (s : State) (r : SReg) : Bool :=
  let x := s.ic
  sIsReg r && (x.pend.any (fun l => l.issued != s.tempo && l.what.destS == some r)
    || x.acc.any (fun a => a.issued != s.tempo && a.op.destS == some r)
    || x.elas.any (fun e => e.issued != s.tempo && e.op.destS == some r)
    || x.done.any (fun d => d.reg == some r))

def State.shadowV (s : State) (r : VReg) : Bool :=
  let x := s.ic
  vIsReg r && (x.pend.any (fun l => l.issued != s.tempo && l.what.destV.contains r)
    || x.acc.any (fun a => a.issued != s.tempo && a.op.destV == some r)
    || (s.core (coreOf s.iss.ctx)).lk.any
        (fun o => o.ctx == s.iss.ctx && o.issued != s.tempo && o.what.destV == some r))

def State.shadowP (s : State) (m : Fin 8) : Bool :=
  m != 0 && s.ic.pend.any (fun l => l.issued != s.tempo && l.what.destP == some m)

/-- An operand is in a shadow (R50). -/
def State.shadow (s : State) : Src → Bool
  | .s r => s.shadowS r
  | .v r => s.shadowV r
  | .p m => s.shadowP m

/-- Distance that stands for the landing of a result from the translated space: later than any fixed one (log entry 12). -/
def elasticLat : Nat := 2 ^ 80

/-- The completion tag of a landing (R193). -/
def LandWhat.tag? : LandWhat → Option (Fin 64)
  | .tag t _ _ => some t
  | _ => none

/-- When a result lands that is due at `due` and waits for a tag: with the last access in flight that names the tag (R49, R194). What
comes from the translated space counts as later than any fixed result (DEDUCED, log entry 12). -/
def Ctx.tagLands (x : Ctx) (due : Nat) : Option (Fin 64) → Nat
  | none => due
  | some t =>
    if x.elas.any (fun e => e.tag == t) then due + elasticLat
    else
      let m := x.pend.foldl (fun m l => if l.what.tag? = some t then max m l.due else m) due
      x.acc.foldl (fun m a => if a.tag = some t then max m (a.due + a.lat) else m) m

/-- A new write of the issuing context, landing at `due`, meets an in-flight write of its destination that lands in the same
tempo or later (R50). -/
def State.overlap (s : State) (due : Nat) (d : Dst) : Bool :=
  let x := s.ic
  match d with
  | .s r => sIsReg r && (x.pend.any (fun l => l.what.destS == some r && decide (due ≤ x.tagLands l.due l.what.tag?))
      || x.acc.any (fun a => a.op.destS == some r && decide (due ≤ x.tagLands (a.due + a.lat) a.tag))
      || x.elas.any (fun e => e.op.destS == some r)
      || x.done.any (fun d => d.reg == some r && decide (due ≤ x.tagLands 0 (some d.tag))))
  | .v r => vIsReg r && (x.pend.any (fun l => l.what.destV.contains r && decide (due ≤ l.due))
      || x.acc.any (fun a => a.op.destV == some r && decide (due ≤ a.due + a.lat))
      || (s.core (coreOf s.iss.ctx)).lk.any
          (fun o => o.ctx == s.iss.ctx && o.what.destV == some r && decide (due ≤ o.due + 2)))
  | .p m => m != 0 && x.pend.any (fun l => l.what.destP == some m && decide (due ≤ l.due))
  | _ => false

/-- A free value for an operand position (R7, R50; log entry 3). -/
def State.freeAt (s : State) (pos : Nat) : Nat := Config.freeBits s.draws (8 * s.iss.slot.val + pos)

/-- A scalar operand at position `pos` of the issuing slot: the snapshot on re-entry (R406, R408), the register as it
stands, or, in a shadow, an undefined value (R50). -/
def State.rdS (s : State) (pos : Nat) (r : SReg) : Word :=
  if s.iss.reentry && s.snapDir s.iss.ctx s.iss.slot.val pos != 0 then
    BitVec.ofNat 64 (s.snapValue s.iss.ctx s.iss.slot.val pos)
  else if s.shadowS r then BitVec.ofNat 64 (s.freeAt pos)
  else s.ic.regs.getS r

/-- A vector operand; `bits` is the element size of the lane-index vector. -/
def State.rdV (s : State) (pos : Nat) (bits : Nat) (r : VReg) : VWord :=
  if s.iss.reentry && s.snapDir s.iss.ctx s.iss.slot.val pos != 0 then
    BitVec.ofNat 4096 (s.snapValue s.iss.ctx s.iss.slot.val pos)
  else if s.shadowV r then BitVec.ofNat 4096 (s.freeAt pos)
  else s.ic.regs.getV bits r

/-- A predicate operand. -/
def State.rdP (s : State) (pos : Nat) (m : Fin 8) : PWord :=
  if s.iss.reentry && s.snapDir s.iss.ctx s.iss.slot.val pos != 0 then
    BitVec.ofNat 1024 (s.snapValue s.iss.ctx s.iss.slot.val pos)
  else if s.shadowP m then BitVec.ofNat 1024 (s.freeAt pos)
  else s.ic.regs.getP m

/-! ## Pending writes of NFMT (R108) -/

/-- The write that takes effect for the bundle now issuing, for M or for V. -/
def Ctx.nfmtDue (x : Ctx) (toM : Bool) : Option (BitVec 6) :=
  if x.counted then none
  else (x.spr.nfmtPend.reverse.find? fun w => w.toM == toM && w.left == 1).map (·.value)

/-- NFMT.V in effect for the bundle now issuing (R108). -/
def Ctx.nfmtVNow (x : Ctx) : BitVec 6 := (x.nfmtDue false).getD x.spr.nfmtV

/-- NFMT.M in effect for the bundle now issuing (R108). -/
def Ctx.nfmtMNow (x : Ctx) : BitVec 3 :=
  match x.nfmtDue true with
  | some v => v.truncate 3
  | none => x.spr.nfmtM

/-- Count a bundle: of the `old` writes that were pending before it, those with one bundle left take effect and the others lose one;
its own writes keep three (R108). -/
def countNfmt (old : Nat) (x : Ctx) : Ctx :=
  if x.counted then x
  else
    { x with
      counted := true
      spr := { x.spr with
        nfmtV := x.nfmtVNow
        nfmtM := x.nfmtMNow
        nfmtPend := ((x.spr.nfmtPend.take old).filter fun w => w.left.val > 1).map (fun w =>
          { w with left := Fin.ofNat 4 (w.left.val - 1) }) ++ x.spr.nfmtPend.drop old } }

/-! ## Landings -/

/-- Let a result land `lat` tempo after issue (R49). -/
def State.land (s : State) (lat : Nat) (what : LandWhat) : State :=
  s.mapCtx s.iss.ctx fun x =>
    { x with pend := x.pend ++ [{ due := s.tempo + lat, issued := s.tempo, slot := s.iss.slot, what := what }] }

/-- The scalar producer of the issuing slot (R42). -/
def State.sProd (s : State) : Option SLast :=
  if s.iss.slot = 1 then some .sa else if s.iss.slot = 2 then some .sb else none

/-- The vector producer of the issuing slot (R42). -/
def State.vProd (s : State) : Option VLast :=
  if s.iss.slot = 3 then some .va else if s.iss.slot = 4 then some .vb else none

/-! ## Faults (R406 to R416) -/

/-- What a fault reports (R412, R415). -/
structure FaultInfo where
  cause : Nat
  detail : Nat
  faddr : Word := 0
  chain : Nat := 0xFF
  link : Nat := 0xFF
  aux : Word := 0
  /-- UNIT and TEST where the test has run before the freeze, and a memory key in the unit that is to be tested (R436) -/
  unit : Nat := 0
  test : Nat := 0
  place : Option Nat := none
  deriving DecidableEq, Repr

/-- Kind of a snapshot operand: 0 for a constant (R408). -/
def srcKind : Src → Nat
  | .s .zero | .s .ones => 0
  | .s _ => 1
  | .v .lane | .v .zero => 0
  | .v _ => 2
  | .p m => if m = 0 then 0 else 3

/-- Value of an operand position of the slot at the issue point, as it was or would be read (R408). -/
def State.srcValue (s : State) (pos : Nat) : Src → Nat
  | .s r => (s.rdS pos r).toNat
  | .v r => (s.rdV pos 8 r).toNat
  | .p m => (s.rdP pos m).toNat

/-- The operands of a slot of the issuing bundle, as (kind, value) by position. -/
def State.slotOperands (s : State) (k : Fin 8) : List (Nat × Nat) :=
  match decodeSlot k (slotWord s.iss.words k) with
  | .ok (some i) =>
    let s1 : State := { s with iss := { s.iss with slot := k } }
    (i.srcs.zipIdx).map fun (r, n) => (srcKind r, if srcKind r = 0 then 0 else s1.srcValue n r)
  | _ => []

/-- Write the directory bytes and packed values of one slot's operands (R412). -/
def putOperands (key : Nat) (sl : Nat) : List (Nat × Nat) → Nat → Nat → Memory → Nat × Memory
  | [], _, off, m => (off, m)
  | (kind, v) :: rest, n, off, m =>
    let m1 := writeByte m (key + 128 + 8 * sl + n) (BitVec.ofNat 8 kind)
    let m2 := writeN m1 (key + off) (snapBytes kind) v
    putOperands key sl rest (n + 1) (off + snapBytes kind) m2

/-- Write the snapshot of slots first to 7 into the freeze frame, and clear the directory of the others (R406, R408). -/
def State.writeSnapshot (s : State) (first : Nat) : State :=
  let key := s.frameKey s.iss.ctx
  let all := (List.finRange 8).map fun k => (k, if k.val < first then [] else s.slotOperands k)
  let m0 := zeroBytes s.mem (key + 128) 64
  let r := all.foldl (fun acc p => putOperands key p.1.val p.2 0 acc.1 acc.2) (4096, m0)
  s.setMem r.2

/-- A landing without its entry into a last-result pair (R407). -/
def LandWhat.plain : LandWhat → LandWhat
  | .s d _ val => .s d none val
  | .v ds _ => .v ds none
  | w => w

/-- The entry of a landing into a last-result pair alone (R407). -/
def LandWhat.keptPart : LandWhat → Option LandWhat
  | .s _ (some e) val => some (.s .zero (some e) val)
  | .v ds (some e) => some (.v (match ds with | [] => [] | d :: _ => [(.zero, d.2)]) (some e))
  | _ => none

/-- Hold a fixed-length gang from tempo t (R416). -/
def State.holdGang (s : State) (c : CtxId) (t : Nat) : State :=
  match (s.ctx c).gang with
  | some g =>
    if (s.fixedOf c).isSome then s.mapGang g fun x => { x with held := some (x.held.getD t) } else s
  | none => s

/-- Causes that are errors, tested before the record is written: an ECC fault, a LINKLOST of reason 1, a hop that failed its CRC
(R436, R437). The segment of a FABRIC fault was tested during its drain (R399). -/
def needsTest (f : FaultInfo) : Bool := f.cause == 0x40 || (f.cause == 0x31 && (f.detail == 1 || f.unit == 4))

/-- The unit that an error concerns (R415, R436). -/
def testUnit (f : FaultInfo) : TUnit :=
  if f.cause = 0x31 then (if f.unit = 4 then .segment else .link)
  else if f.detail = 3 then .bank else if f.detail = 4 then .link else if f.detail = 5 then .hbm else .core

/-- What a self-test finds is open (log entry 3). -/
def freeResult (n : Nat) : TRes := if n % 3 = 0 then .pass else if n % 3 = 1 then .spare else .retired

/-- Cores whose contexts need a unit under test to run: those of a core that is tested itself. -/
def UnderTest.isCore (u : UnderTest) (k : CoreId) : Bool := u.unit == .core && u.place / 2 ^ 22 == keyScratch k 0 / 2 ^ 22

/-- A core is under test: its contexts wait (R436). -/
def State.coreTested (s : State) (k : CoreId) : Bool := s.pkg.tests.any fun u => u.isCore k

/-- An access to a key needs a unit: the same bank of the same die, link slot, core scratchpad, or block of device memory (R436,
R437). A ring segment stands in no access's key. -/
def UnderTest.needed (u : UnderTest) (key : Nat) : Bool :=
  match u.unit with
  | .bank => key / 2 ^ 38 == u.place / 2 ^ 38 && key / 16 % 32 == u.place / 16 % 32
  | .link => key / 2 ^ 18 == u.place / 2 ^ 18
  | .core => key / 2 ^ 22 == u.place / 2 ^ 22
  | .hbm => key / 64 == u.place / 64
  | .segment => false

/-- An access to n bytes at a key needs a unit under test. -/
def State.untestable (s : State) (key n : Nat) : Bool :=
  s.pkg.tests.any fun u => (List.range (n / 16 + 2)).any fun j => u.needed (key + min (16 * j) (n - 1))

/-- Fixed-length gangs with a member on a core are held while it is tested (R416, R436). -/
def State.holdCore (s : State) (k : CoreId) : State := s.holdGang (primaryOf k) (s.tempo + 1)

/-- Let the self-test of an error follow: until it ends the unit serves no access (R406 step 4, R436). -/
def State.startTest (s : State) (c : CtxId) (f : FaultInfo) : State :=
  if needsTest f then
    let u := testUnit f
    let own := keyScratch (coreOf c) 0
    let place := match f.place with | some b => if 2 ^ 160 ≤ b then own else b | none => own
    let s1 : State := { s with pkg := { s.pkg with tests := s.pkg.tests ++ [{ unit := u, place := place }] } }
    (if u = .core ∨ u = .link then s1.holdCore (coreAt place) else s1).later 1
      (.targetedSelfTest place (some c) u (freeResult (Config.freeBits s.draws 1003)))
  else s

/-- A deferred item names an access or command to reissue: LINKLOST and FABRIC list nothing (R409). -/
def DefItem.listed (d : DefItem) : Bool := d.what != .none

/-- A condition that waits with a context that freezes for another: one that lists nothing and would be told by no record. An ECC error of
a fixed access joins the record instead, where it lists nothing either (R197, R336, R409, R410). -/
def DefItem.waits (d : DefItem) : Bool := !d.listed && d.cause != 0x40

/-- Tempo for which the hold of its gang has paused a member (R305). -/
def State.pausedFor (s : State) (c : CtxId) : Nat :=
  if s.heldCtx c then
    match s.gangOf c with
    | some g => s.tempo - g.held.getD s.tempo
    | none => 0
  else 0

/-- A landing moved on by the tempo for which its member was paused; what ends by a tag goes on through a hold (R407). -/
def Landing.shift (d : Nat) (l : Landing) : Landing := if l.what.tag?.isSome then l else { l with due := l.due + d }

/-- Landings of a member, moved on by the tempo for which it was paused. -/
def Ctx.unpaused (x : Ctx) (d : Nat) : List Landing := x.pend.map (Landing.shift d)

/-- The array goes on with the work of a member that a hold has paused: a frozen context is not paused (R305, R417). -/
def Core.unpause (k : Core) (c : CtxId) (d : Nat) : Core :=
  { k with
    array := k.array.map fun a => if a.ctx = c then { a with plan := a.plan + d } else a
    arrayFree := k.arrayFree + d }

/-- Numbers in ascending order. -/
def natPut (n : Nat) : List Nat → List Nat
  | [] => [n]
  | m :: rest => if n ≤ m then n :: m :: rest else m :: natPut n rest

/-- Members of the gang of c that froze in this tempo and whose record is not written, by ascending LIDX. -/
def State.frozenNow (s : State) (c : CtxId) : List CtxId :=
  match s.gangOf c with
  | none => []
  | some g =>
    if (s.ctx c).ctl.kind = .second then []
    else g.members.filter fun d =>
      (s.ctx d).gang == some g.id && (s.ctx d).ctl.kind != .second &&
        match (s.ctx d).frz with | some f => f.at_ == s.tempo && !f.written | none => false

/-- Freezes of one gang in one tempo take serials in ascending LIDX (R410). -/
def State.orderSerials (s : State) (c : CtxId) : State :=
  let ms := s.frozenNow c
  let serials := (ms.map fun d => match (s.ctx d).frz with | some f => f.serial.toNat | none => 0).foldr natPut []
  (ms.zip serials).foldl (fun s d =>
    s.mapCtx d.1 fun x => { x with frz := x.frz.map fun f => { f with serial := BitVec.ofNat 64 d.2 } }) s

/-- Freeze context c at this tempo with a fault, re-entering at slot `sres` (R406, R407, R409, R410, R416). Deferred
conditions already found join the record, those that list nothing wait (R197). The record is written, and the second placed,
by SECOND_SPAWN once the drain has ended. -/
def State.freezeCtx (s : State) (c : CtxId) (f : FaultInfo) (slot sres : Fin 8) (late : List DefItem)
    (deferred drn : Bool) (holdFrom : Nat) : State :=
  let x := s.ctx c
  let p := s.part x.part
  let serial := p.serial + 1
  let d := s.pausedFor c
  let fr : Frozen :=
    { serial := serial, at_ := s.tempo, cause := f.cause, detail := f.detail, slot := slot,
      faddr := f.faddr, chain := f.chain, link := f.link, aux := f.aux, unit := f.unit, ftt := s.ttempo c,
      deferred := deferred, ovf := false, heldGang := (s.fixedOf c).isSome,
      items := x.defer.filter DefItem.listed, late := late,
      kept := (x.unpaused d).filterMap fun l => (l.what.keptPart).map fun w => { l with what := w },
      drn := drn, cap := none, sup := false, host := false, test := f.test, resume := none, testing := needsTest f,
      written := false }
  let y : Ctx :=
    { x with
      run := .frozen, hold := if deferred then x.hold else none, defer := [],
      pend := (x.unpaused d).map fun l => { l with what := l.what.plain },
      ctl := { x.ctl with srv := true, sres := sres },
      frz := some fr }
  let s1 := (((s.setCtx c y).setPart x.part { p with serial := serial }).mapCore (coreOf c) fun k => k.unpause c d).orderSerials c
  ((s1.holdGang c holdFrom).startTest c f).later 1 (.secondSpawn c)

/-- A reservation of link slots that no chain was built under lapses (R322). -/
def State.lapse (s : State) (c : CtxId) : State :=
  match (s.ctx c).hold.bind (·.chb) with
  | none => s
  | some u => { s with cores := s.cores.map fun k =>
      (k.1, { k.2 with links := k.2.links.map fun l => if l.owner = some u then { l with owner := none } else l }) }

/-- A fault of the slot at the issue point (R406): slots before `sres` have committed; a bundle of which some slot has
committed counts for R108. -/
def State.faultAt (s : State) (f : FaultInfo) (sres : Fin 8) : State :=
  let c := s.iss.ctx
  let s1 := (s.lapse c).writeSnapshot sres.val
  let s2 := if sres = 0 then s1 else s1.mapCtx c (countNfmt s.iss.nfmtOld)
  let s3 := s2.freezeCtx c f s.iss.slot sres ((s.ctx c).defer.filter DefItem.waits) false false (s.tempo + 1)
  { s3 with iss := { s.iss with stop := true } }

/-- A fault at issue of the slot at the issue point. -/
def State.fault (s : State) (f : FaultInfo) : State := s.faultAt f s.iss.slot

/-- A fault found when the bundle presents, at the slot named by the issue point: nothing of it has committed, or, when the bundle
is re-entered, nothing more (R34, R406; log entry 29). -/
def State.faultPresenting (s : State) (f : FaultInfo) : State :=
  s.faultAt f (if s.iss.reentry then s.ic.ctl.sres else 0)

/-! ## The checking scoreboard (R50) -/

/-- Number of a register among those of a context, as the list of errors has it (log entry 60). -/
def srcNumber : Src → Nat
  | .s r => r.code
  | .v r => 64 + r.code
  | .p m => 128 + m.val

/-- A register that the instruction reads holds an uncorrectable error; a value that the snapshot gives is not read there (R415, R431). -/
def State.regBad (s : State) (i : Instr) : Option Nat :=
  (i.srcs.zipIdx.filterMap fun r =>
    let key := keyReg s.iss.ctx (srcNumber r.1)
    if s.bad.contains key && !(s.iss.reentry && s.snapDir s.iss.ctx s.iss.slot.val r.2 != 0) then some key else none).head?

/-- SCHK is set, and the instruction reads from the registers one that is in a shadow, or overlaps an in-flight write (R50, R431).
-/
def State.scoreHit (s : State) (i : Instr) (lat : Nat) : Bool :=
  s.ic.ctl.schk &&
    (i.srcs.zipIdx.any (fun r => s.shadow r.1 && !(s.iss.reentry && s.snapDir s.iss.ctx s.iss.slot.val r.2 != 0))
      || i.dsts.any (s.overlap (s.tempo + lat)))

/-- Raise SCORE before the slot commits, or go on (R50, R52). -/
def State.scored (s : State) (i : Instr) (lat : Nat) (k : State → State) : State :=
  if s.scoreHit i lat then s.fault { cause := 0x21, detail := 0 } else k s

end Sys2Proof.Machine
end

