-- ==== Sys2Proof/Machine/Control.lean ====
section
/-! DEFINITION. The ctl slot: branches, the loop sequencer, chambers, barriers, waits, task ends, safe points and traps
(05 R123 to R157). Holding at presenting, and the sequencing that follows a bundle, are in Issue.lean. -/

namespace Sys2Proof.Machine

/-! ## Regions of the instruction scratchpad (R31, R55, R133, R140) -/

/-- Region of a bundle index: 0 chamber A, 1 chamber B, 2 resident area, 3 none. -/
def regionOf (p : Nat) : Nat := if p < 4096 then 0 else if p < 8192 then 1 else if p < 8320 then 2 else 3

/-- First index of a region. -/
def regionBase (r : Nat) : Nat := if r = 0 then 0 else if r = 1 then 4096 else 8192

/-- Bundles of a region. -/
def regionSize (r : Nat) : Nat := if r < 2 then 4096 else 128

/-- A relative target (R55): it wraps within its region. -/
def relTarget (p : Nat) (off : BitVec 12) : Nat :=
  let r := regionOf p
  regionBase r + (((p : Int) - regionBase r + off.toInt) % (regionSize r : Int)).toNat

/-- Bundles that the last fill of a region wrote (R140). -/
def Core.filledOf (k : Core) (r : Nat) : Nat :=
  if r = 0 then k.chA.filled else if r = 1 then k.chB.filled else k.resCount

/-- What the core keeps of a chamber: false A, true B. -/
def Core.chamber (k : Core) (b : Bool) : Chamber := if b then k.chB else k.chA

def Core.setChamber (k : Core) (b : Bool) (c : Chamber) : Core :=
  if b then { k with chB := c } else { k with chA := c }

/-- The bundle at an index, none at or beyond the filled count of its region (R140). -/
def Core.bundleAt (k : Core) (p : Nat) : Option Bundle :=
  let r := regionOf p
  if r < 3 ∧ p - regionBase r < k.filledOf r then some (lookupD 0 k.code p) else none

/-- The issuing context may branch to an index (R133). -/
def State.mayEnter (s : State) (target : Nat) : Bool :=
  let x := s.ic
  let r := regionOf target
  match x.ctl.kind with
  | .second => r == 2
  | .secondary => r == x.ctl.homeB.toNat
  | .primary => r == 2 || r == x.ctl.chamberB.toNat

/-! ## Loops (R135 to R139) -/

/-- The innermost active level (R136). -/
def Ctl.inner (k : Ctl) : Option Loop :=
  match k.nest with
  | [] => none
  | n :: _ => some k.loops[n]

/-- The iteration qualifier lets the bundle execute (R38, R139). -/
def Ctl.qualified (k : Ctl) (q : IQ) : Bool :=
  match k.inner, q with
  | none, _ | _, .always => true
  | some l, .first => l.iter == 0
  | some l, .last => l.iter + 1 == l.count

/-- An index is the last bundle of an active body (R138). -/
def Ctl.isBodyEnd (k : Ctl) (p : Nat) : Bool := k.nest.any fun n => k.loops[n].last.toNat == p

def Ctl.mapLoop (k : Ctl) (n : Fin 6) (f : Loop → Loop) : Ctl := { k with loops := k.loops.set n (f k.loops[n]) }

/-- Level n becomes idle, and with it every level that became active after it (R135). -/
def Ctl.dropTo (k : Ctl) (n : Fin 6) : Ctl :=
  let gone := k.nest.takeWhile (· ≠ n) ++ [n]
  gone.foldl (fun c m => c.mapLoop m fun l => { l with st := .idle })
    { k with nest := (k.nest.dropWhile (· ≠ n)).drop 1 }

/-- The sequencer's act at the issue of the bundle at index e (R137): the next index. -/
def Ctl.bodyEnd (e : Nat) : List (Fin 6) → Ctl → Nat × Ctl
  | [], k => (e + 1, k)
  | n :: rest, k =>
    let l := k.loops[n]
    if l.last.toNat = e ∧ l.depth.toNat = k.depth.val then
      let k1 := { k with lix := k.lix.set n (k.lix[n] + l.stride) }
      if (l.iter + 1).toNat < l.count.toNat then
        (l.first.toNat, k1.mapLoop n fun l => { l with iter := l.iter + 1 })
      else
        Ctl.bodyEnd e rest ({ k1 with nest := rest }.mapLoop n fun l => { l with iter := l.iter + 1, st := .idle })
    else (e + 1, k)

/-! ## Branches (R128 to R134, R138, R142) -/

def ilSeq (d : Nat) : FaultInfo := { cause := 0x02, detail := d }

/-- Let a control change of the issuing context take hold. -/
def State.mapCtl (s : State) (f : Ctl → Ctl) : State := s.mapCtx s.iss.ctx fun x => { x with ctl := f x.ctl }

/-- Record a taken branch: its target and drain bit pend until the target presents (R132). -/
def State.takeBranch (s : State) (target : Nat) (drain : Bool) : State :=
  s.mapCtl fun k => { k with pbv := true, pbd := drain, pbt := BitVec.ofNat 14 target, dly := false }

/-- The rule of R138 for a taken branch; `inside` asks for a target in the innermost body. -/
def State.loopFlaw (s : State) (target : Nat) (inside : Bool) : Bool :=
  let k := s.ic.ctl
  let p := s.iss.pc.toNat
  k.isBodyEnd p || k.isBodyEnd (p + 1) ||
    (inside && match k.inner with
      | none => false
      | some l => !(decide (l.first.toNat ≤ target) && decide (target ≤ l.last.toNat)))

/-- A taken BR, BRP or JMP (R133, R138). -/
def State.branchTo (s : State) (target : Nat) (drain : Bool) : State :=
  if !s.mayEnter target then s.fault (ilSeq 4)
  else if s.loopFlaw target true then s.fault (ilSeq 8)
  else s.takeBranch target drain

/-- NOP acts only through its stall count and qualifier (R35). -/
def execNop (_q : CtlQ) (s : State) : Host.Outcome State Fault Refusal := .next s

/-- BR (R128, R130, R133). -/
def execBr (cond : SReg) (ifz : Bool) (off : BitVec 12) (d : Bool) (q : CtlQ) (s : State) :
    Host.Outcome State Fault Refusal :=
  .next (s.scored (.br cond ifz off d q) 1 fun s =>
    if (s.rdS 0 cond != 0) != ifz then s.branchTo (relTarget s.iss.pc.toNat off) d else s)

/-- Elements that BRP tests: 4,096 bits over the element size (R55, R124). -/
def ESize.elements (e : ESize) : Nat := 4096 / (ESize.bits e)

/-- BRP (R128, R129): mixed elements raise NONUNI. -/
def execBrp (m : Fin 8) (ifnone : Bool) (esz : ESize) (off : BitVec 12) (d : Bool) (q : CtlQ) (s : State) :
    Host.Outcome State Fault Refusal :=
  .next (s.scored (.brp m ifnone esz off d q) 1 fun s =>
    let n := ESize.elements esz
    let v := (s.rdP 0 m).toNat % 2 ^ n
    let all := v == 2 ^ n - 1
    if v ≠ 0 ∧ all = false then s.fault { cause := 0x22, detail := 0 }
    else if all != ifnone then s.branchTo (relTarget s.iss.pc.toNat off) d
    else s)

/-- JMP (R128). -/
def execJmp (target : BitVec 14) (d : Bool) (_q : CtlQ) (s : State) : Host.Outcome State Fault Refusal :=
  .next (s.branchTo target.toNat d)

/-- CALL pushes P + 2 when it commits (R134). Of several details that one branch earns, the order is the model's: a region, a full or
empty stack, a loop (log entry 104). -/
def execCall (target : BitVec 14) (d : Bool) (_q : CtlQ) (s : State) : Host.Outcome State Fault Refusal :=
  .next (
    let k := s.ic.ctl
    if !s.mayEnter target.toNat then s.fault (ilSeq 4)
    else if h : k.depth.val < 8 then
      if s.loopFlaw target.toNat false then s.fault (ilSeq 8)
      else
        (s.mapCtl fun k =>
          { k with rstk := k.rstk.set (⟨s.ic.ctl.depth.val, h⟩ : Fin 8) (s.iss.pc.setWidth 64 + 2),
                   depth := Fin.ofNat 9 (k.depth.val + 1) }).takeBranch target.toNat d
    else s.fault (ilSeq 2))

/-- RET pops when it commits; an index that it may not enter faults and the entry stays popped (R133, R134). -/
def execRet (d : Bool) (_q : CtlQ) (s : State) : Host.Outcome State Fault Refusal :=
  .next (
    let k := s.ic.ctl
    if k.depth = 0 then s.fault (ilSeq 3)
    else
      let target := (k.rstk[(Fin.ofNat 8 (k.depth.val - 1) : Fin 8)]).toNat
      let popped := s.mapCtl fun k => { k with depth := Fin.ofNat 9 (k.depth.val - 1) }
      if !s.mayEnter target then popped.fault (ilSeq 4)
      else if s.loopFlaw target false then s.fault (ilSeq 8)
      else popped.takeBranch target d)

/-- SWAP enters the idle chamber at its recorded ENTRY (R142); in a secondary context it raises CTXCLASS (R17). -/
def execSwap (d : Bool) (_q : CtlQ) (s : State) : Host.Outcome State Fault Refusal :=
  .next (
    let k := s.ic.ctl
    let idle := !k.chamberB
    let ch := (s.core (coreOf s.iss.ctx)).chamber idle
    match k.kind with
    | .secondary => s.fault { cause := 0x04, detail := 0 }
    | .second => s.fault (ilSeq 4)
    | .primary =>
      if !k.nest.isEmpty then s.fault (ilSeq 5)
      else if !ch.valid then s.fault (ilSeq 5)
      else
        (s.takeBranch (4096 * idle.toNat + ch.entry) d).mapCtl fun k => { k with chamberB := idle })

/-! ## Loop set-up (R135, R136) -/

/-- LSET copies LCTn and LSDn and arms the level. -/
def execLset (n : Fin 6) (_q : CtlQ) (s : State) : Host.Outcome State Fault Refusal :=
  .next (
    let k := s.ic.ctl
    if k.loops[n].st = .active ∨ 2 ^ 32 ≤ k.lct[n].toNat then s.fault (ilSeq 7)
    else s.mapCtl fun k =>
      { k with lix := k.lix.set n 0 }.mapLoop n fun l =>
        { l with st := .armed, count := k.lct[n], stride := k.lsd[n] })

/-- LOOP activates an armed level, or skips the body when the count is 0. -/
def execLoop (n : Fin 6) (b : BitVec 12) (_q : CtlQ) (s : State) : Host.Outcome State Fault Refusal :=
  .next (
    let k := s.ic.ctl
    let p := s.iss.pc.toNat
    let last := p + b.toNat
    let inside : Bool := match k.inner with
      | none => true
      | some l => decide (last ≤ l.last.toNat)
    if k.loops[n].st ≠ .armed ∨ regionOf (p + 1) ≠ regionOf last ∨ 3 ≤ regionOf (p + 1) ∨ inside = false then s.fault (ilSeq 7)
    else if k.loops[n].count = 0 then
      { (s.mapCtl fun k => k.mapLoop n fun l => { l with st := .idle }) with
        iss := { s.iss with next := some (last + 1) } }
    else s.mapCtl fun k =>
      { k with nest := n :: k.nest }.mapLoop n fun l =>
        { l with st := .active, iter := 0, first := BitVec.ofNat 64 (p + 1), last := BitVec.ofNat 64 last,
                 depth := BitVec.ofNat 64 k.depth.val })

/-- LBRK ends level n after the current pass. -/
def execLbrk (n : Fin 6) (_q : CtlQ) (s : State) : Host.Outcome State Fault Refusal :=
  .next (
    if s.ic.ctl.loops[n].st ≠ .active then s.fault (ilSeq 7) else s.mapCtl fun k => k.dropTo n)

/-- PFX sets the rounding and saturation modes of its own bundle (R99, R143). -/
def execPfx (rm : Rm) (sat : SatMode) (_q : CtlQ) (s : State) : Host.Outcome State Fault Refusal :=
  .next { s with iss := { s.iss with rm := rm, sat := sat } }

/-! ## Barriers (R144 to R146)

The arrival of BAR and BARA, and the wait of BAR and BARW, fall at presenting (Issue.lean); what is left at issue is the
end of the wait. -/

/-- Arrive at barrier b at the present tempo (R144). -/
def Gang.arrive (g : Gang) (b : Fin 16) (tempo : Nat) : Gang :=
  let x := g.barriers[b]
  let y : Barrier :=
    if x.count + 1 = x.expected then { x with phase := !x.phase, count := 0, done := tempo }
    else { x with count := x.count + 1 }
  { g with barriers := g.barriers.set b y }

/-- Lower every expected count by one when a member leaves; a count that then equals it completes (R146, R452). -/
def Gang.lowerBarriers (g : Gang) (tempo : Nat) : Gang :=
  { g with barriers := g.barriers.map fun x =>
      if x.count = x.expected - 1 ∧ 0 < x.count then
        { x with expected := x.expected - 1, phase := !x.phase, count := 0, done := tempo }
      else { x with expected := x.expected - 1 } }

/-- Barriers belong to a gang: a second raises CTXCLASS (R146). -/
def State.inGang (s : State) : Bool := s.ic.ctl.kind != .second && (s.gangOf s.iss.ctx).isSome

/-- The issuing member has arrived at barrier b. -/
def State.endWait (s : State) (b : Fin 16) : State :=
  s.mapCtx s.iss.ctx fun x => { x with arrivals := x.arrivals.set b { x.arrivals[b] with arrived := false } }

/-- BAR issues when its wait ends (R144). -/
def execBar (b : Fin 16) (_q : CtlQ) (s : State) : Host.Outcome State Fault Refusal :=
  .next (if s.inGang then s.endWait b else s.fault { cause := 0x04, detail := 0 })

/-- BARA arrived when its bundle presented, and issues at once (R144). -/
def execBara (_b : Fin 16) (_q : CtlQ) (s : State) : Host.Outcome State Fault Refusal :=
  .next (if s.inGang then s else s.fault { cause := 0x04, detail := 0 })

/-- BARW issues when its wait ends (R144). -/
def execBarw (b : Fin 16) (_q : CtlQ) (s : State) : Host.Outcome State Fault Refusal :=
  .next (if s.inGang then s.endWait b else s.fault { cause := 0x04, detail := 0 })

/-! ## Tag waits (R147, R148) -/

/-- Tags in flight of a context: those of its commands and of its elastic accesses (R148). -/
def State.tagsInFlight (s : State) (c : CtxId) : Word :=
  let x := s.ctx c
  let ts := (s.cmdsOf c).map (fun k => k.tag.val) ++ x.elas.map (fun e => e.tag.val)
    ++ x.acc.filterMap (fun a => a.tag.map (·.val))
    ++ x.pend.filterMap (fun l => match l.what with | .tag t _ _ => some t.val | _ => none)
  ts.foldl (fun w t => w ||| BitVec.ofNat 64 (2 ^ t)) 0

/-- The condition of a tag wait holds. -/
def Ctx.tagsMet (x : Ctx) (all : Bool) (mask : Word) : Bool :=
  if all then x.spr.tags &&& mask == mask else x.spr.tags &&& mask != 0

/-- A wait that can no longer end (R148). -/
def State.waitDead (s : State) (c : CtxId) (all : Bool) (mask : Word) : Bool :=
  let live := ((s.ctx c).spr.tags ||| s.tagsInFlight c) &&& mask
  if all then live != mask else live == 0

/-- The mask of a tag wait: as it was read at presenting, when its bundle held (R147). -/
def State.waitMask (s : State) (mask : SReg) : Word :=
  match s.ic.hold with
  | some h => h.mask.getD (s.rdS 0 mask)
  | none => s.rdS 0 mask

/-- WTANY at its issue: the wait has ended, and no tag is cleared (R147); one that cannot end raises ILLSEQ (R148). -/
def execWtany (mask : SReg) (q : CtlQ) (s : State) : Host.Outcome State Fault Refusal :=
  .next (s.scored (.wtany mask q) 1 fun s =>
    if s.waitDead s.iss.ctx false (s.waitMask mask) then s.fault (ilSeq 0x0A) else s)

/-- WTALL at its issue (R147, R148). -/
def execWtall (mask : SReg) (q : CtlQ) (s : State) : Host.Outcome State Fault Refusal :=
  .next (s.scored (.wtall mask q) 1 fun s =>
    if s.waitDead s.iss.ctx true (s.waitMask mask) then s.fault (ilSeq 0x0A) else s)

/-! ## Ends of tasks, safe points, IFENCE and traps -/

/-- TEND: the context drains (R149). -/
def execTend (_q : CtlQ) (s : State) : Host.Outcome State Fault Refusal :=
  .next (
    let k := s.ic.ctl
    if !k.nest.isEmpty || k.depth != 0 then s.fault (ilSeq 0x0B)
    else s.mapCtx s.iss.ctx fun x =>
      { x with run := .drain, ctl := { x.ctl with loops := x.ctl.loops.map fun l => { l with st := .idle } } })

/-- A landing is a register result: into a register file, a last-result pair, a staging, special or handler register; an update of AMAX or
FPS that a vector instruction leaves beside its result is none (R42, R130, R149, R275, R407; DEDUCED, log entry 103). -/
def LandWhat.isReg (w : LandWhat) : Bool :=
  match w with
  | .s d into _ => sIsReg d || into.isSome
  | .v ds into => (ds.any fun d => vIsReg d.1) || into.isSome
  | .p .. | .stg .. | .spr .. | .hmov .. => true
  | _ => false

/-- Every fixed-latency register result and MMA of the context has landed (R130). -/
def State.resultsLanded (s : State) (c : CtxId) : Bool :=
  let x := s.ctx c
  !(x.pend.any fun l => l.what.isReg)
    && !(x.acc.any fun a => a.tag.isNone && (a.op.destS.isSome || a.op.destV.isSome))
    && !((s.core (coreOf c)).lk.any fun o => o.ctx == c && o.what.destV.isSome)
    && !((s.core (coreOf c)).array.any fun a => a.ctx == c && !a.mlat)

/-- Every register result and MMA has landed and every command that holds a tag has ended (R149, R153). -/
def State.quiet (s : State) (c : CtxId) : Bool :=
  s.resultsLanded c && s.tagsInFlight c == 0

/-- The context has an XPF fill that has not ended (R141). -/
def State.filling (s : State) (c : CtxId) : Bool :=
  (s.cmdsOf c).any fun k => match k.kind with | .xpf => true | _ => false

/-- A chamber whose latest fill ended OK becomes valid (R141). -/
def Chamber.accept (c : Chamber) : Chamber := if c.ok then { c with valid := true, ok := false } else c

/-- IFENCE: chambers whose latest fill ended OK become valid, and the core takes the working template table of the latest such
fill (R141, R72, R75). -/
def execIfence (_q : CtlQ) (s : State) : Host.Outcome State Fault Refusal :=
  .next (s.mapCore (coreOf s.iss.ctx) fun k =>
    { k with
      chA := k.chA.accept, chB := k.chB.accept,
      templates := (k.working.head?.map (·.2)).getD k.templates, working := [] })

/-- TRAP faults at slot 0 and resumes at slot 1 (R155). -/
def execTrap (code : BitVec 16) (_q : CtlQ) (s : State) : Host.Outcome State Fault Refusal :=
  .next (s.faultAt { cause := 0x50, detail := code.toNat } 1)

/-- BRK faults at slot 0 and resumes at slot 1 (R155). -/
def execBrk (code : BitVec 16) (_q : CtlQ) (s : State) : Host.Outcome State Fault Refusal :=
  .next (s.faultAt { cause := 0x51, detail := code.toNat } 1)

end Sys2Proof.Machine
end

