-- ==== Sys2Proof/Machine/Operands.lean ====
section
/-! DEFINITION. Operand forms of memory: address windows (07 R181 to R188), translation (07 R213 to R220), device memory with
its keys, write queues, slice cache and range monitors (08 R221 to R223, 18 R492 to R501), footprints and the race guard
(08 R233, 13 R354 to R356), and the operand spans of the plane array (11 R295, R296). -/

namespace Sys2Proof.Machine

/-! ## Events to the host (R518) -/

/-- Set an EVT bit, and send the physical function's vector of the same number unless it was set. -/
def State.raise (s : State) (bit : Nat) : State :=
  if s.pkg.evt.getLsbD bit then s
  else { s with pkg := { s.pkg with evt := s.pkg.evt ||| BitVec.ofNat 8 (2 ^ bit), msix := s.pkg.msix ++ [(0, bit)] } }

/-- Log a code in a partition's error log (R486). -/
def State.logError (s : State) (p : PartId) (code : Nat) : State :=
  s.mapPart p fun x => { x with errors := x.errors ++ [code] }

/-! ## Windows (R181 to R183, R186) -/

inductive Win
  | scratch (off : Nat)
  | shared (off : Nat)
  | xlate
  deriving DecidableEq, Repr

/-- The window of an address, or the ADDR detail (R181, R182). -/
def windowOf (a : Word) : Except Nat Win :=
  let n := a.toNat
  if 2 ^ 56 ≤ n then .error 1
  else if n < 0x400000 then .ok (.scratch n)
  else if n < 0x4000000 then .error 2
  else if n < 0xC000000 then .ok (.shared (n - 0x4000000))
  else if n < 2 ^ 32 then .error 2
  else .ok .xlate

/-- The installed ASID table entry of a context's ASID (R489). -/
def State.asidOf (s : State) (c : CtxId) : Option AsidEntry :=
  let x := s.ctx c
  (s.part x.part).asids.find? fun e => e.asid == x.spr.asid

/-- Rows that the context's region may address: its budget, unless that is 0 (R443 BUDM). -/
def State.rowBudget (s : State) (c : CtxId) (all : Nat) : Nat :=
  match s.gangOf c with
  | some g =>
    match s.region? g.region with
    | some r => if r.eff.budm = 0 then all else min r.eff.budm all
    | none => all
  | none => all

/-- First shared-scratch row of the context's share on each die, and its rows (R186, R490). -/
def State.rowsOf (s : State) (c : CtxId) : Nat × Nat :=
  match s.asidOf c with
  | some e => (fld (s.part (s.ctx c).part).psrow.toNat 0 14 + e.sroff, s.rowBudget c e.srcnt)
  | none => (0, 0)

/-- Memory key of offset o of the shared-scratch window as core k of context c's share sees it (R186). -/
def State.sharedKey (s : State) (c : CtxId) (k : CoreId) (o : Nat) : Nat :=
  keyShared (dieOf k).val ((s.rowsOf c).1 * 16384 + o)

/-- Banks of a run of n bytes at offset o of the shared window (R186, R188, R210). -/
def banksOf (o n : Nat) : BitVec 32 :=
  let first := o / 16 % 32
  let count := (o % 16 + n + 15) / 16
  BitVec.ofNat 32 ((2 ^ count - 1) * 2 ^ first % 2 ^ 32 + (2 ^ count - 1) * 2 ^ first / 2 ^ 32)

/-- Sub-bank of an offset (R186). -/
def subBankOf (o : Nat) : Nat := o / 512 % 32

/-! ## Bits of configuration registers -/

/-- The memory share of a partition holds a physical address of this package (R216, R486). -/
def Part.inShare (p : Part) (pa : Nat) : Bool :=
  let k : Fin 8 := Fin.ofNat 8 (pa / 2 ^ 36)
  let r := p.pmem[k].toNat
  let unit := pa / 2 ^ 26 % 1024
  decide (fld r 0 10 ≤ unit) && decide (unit < fld r 0 10 + fld r 32 11)

/-- The freeze area holds a physical address (R411). -/
def Part.inFreeze (p : Part) (pa : Nat) : Bool :=
  let b := fld p.pfrz.toNat 0 52
  b != 0 && decide (b % 2 ^ 39 ≤ pa) && decide (pa < b % 2 ^ 39 + p.freezeBytes)

/-- A key id lies in the partition's range (R486, R495). -/
def Part.ownsKey (p : Part) (id : Nat) : Bool :=
  let b := fld p.pkeys.toNat 0 10
  decide (b ≤ id) && decide (id < b + fld p.pkeys.toNat 16 11)

/-! ## Uncorrectable errors of memory (R197, R415, R522; log entry 60) -/

/-- A block with an uncorrectable error among bytes lo to hi. -/
def State.eccAt (s : State) (lo hi : Nat) : Option Nat := s.bad.find? fun b => decide (b ≤ hi) && decide (lo < b + 64)

/-- A block with an uncorrectable error among ranges of bytes. -/
def State.eccIn (s : State) (l : List (Nat × Nat)) : Option Nat := l.findSome? fun r => s.eccAt r.1 r.2

/-- Memory of an ECC condition: 1 register file, 2 core scratchpad, 3 shared bank, 4 link storage, 5 device memory, 6 instruction
scratchpad or template table (R415). -/
def eccDetail (key : Nat) : Nat :=
  let w := key / 2 ^ 38 % 4
  if 2 ^ 161 ≤ key then 6 else if 2 ^ 160 ≤ key then 1
  else if w = 3 then (if key / 2 ^ 36 % 4 = 1 then 4 else 2) else if w = 2 then 3 else 5

/-- The ECC condition of a block, met by an access to an address; syndrome and place in AUX are open (R412; log entry 3). -/
def State.eccFault (s : State) (b : Nat) (va : Word) : FaultInfo :=
  { cause := 0x40, detail := eccDetail b, faddr := va, aux := BitVec.ofNat 64 (Config.freeBits s.draws 1009), place := some b }

/-- The self-test that follows a condition finds the block's data again (R436; log entry 60). -/
def State.healed (s : State) (b : Nat) : State := { s with bad := s.bad.filter fun x => x != b, draws := s.draws + 1 }

/-- Key material that a block was last written under; 0 raw (R494). -/
def State.blockKeyOf (s : State) (key : Nat) : Nat := lookupD 0 s.pkg.blockKey (blockOf key)

/-! ## Translation (R213 to R220) -/

/-- What an access asks of a page. -/
inductive Need | read | write | atomic | code
  deriving DecidableEq, Repr

/-- A level of the walk: index shift, index width and log2 of the table's size in bytes (R214). -/
def walkShift : Nat → Nat | 3 => 40 | 2 => 26 | 1 => 21 | _ => 16
def walkWidth : Nat → Nat | 3 => 16 | 2 => 14 | _ => 5
def tableSize (l : Nat) : Nat := 2 ^ (walkWidth l + 3)

/-- A page-table entry at a level: the leaf, the next table's address, or a PAGE detail (R215). A next table lies in the share of
the partition, in this package `pk`. -/
def pteAt (pk : Nat) (p : Part) (level : Nat) (e : Nat) : Except Nat (Nat ⊕ Nat) :=
  if fld e 0 1 = 0 then .error 1
  else if fld e 62 2 ≠ 0 ∨ fld e 5 1 ≠ 0 then .error 2
  else if fld e 1 1 = 1 then
    if level = 3 ∨ fld e 8 8 ≠ 0 ∨ fld e 7 1 ≠ 0 ∨ (fld e 16 36 * 65536) % 2 ^ walkShift level ≠ 0 then .error 2
    else .ok (.inl e)
  else
    let next := fld e 16 36 * 65536 + fld e 8 8 * 256
    if level = 0 ∨ fld e 52 10 ≠ 0 ∨ fld e 6 2 ≠ 0 then .error 2
    else if next % tableSize (level - 1) ≠ 0 ∨ next / 2 ^ 39 ≠ pk ∨ p.inShare next = false then .error 2
    else .ok (.inr next)

/-- Walk from a table at a level; the leaf with its level (R214, R215). -/
def walk (m : Memory) (pk : Nat) (p : Part) (va : Nat) : Nat → Nat → Except Nat (Nat × Nat)
  | 0, table =>
    match pteAt pk p 0 (readN m (keyPA (table + 8 * fld va 16 5)) 8) with
    | .error d => .error d
    | .ok (.inl e) => .ok (e, 0)
    | .ok (.inr _) => .error 2
  | level + 1, table =>
    match pteAt pk p (level + 1) (readN m (keyPA (table + 8 * fld va (walkShift (level + 1)) (walkWidth (level + 1)))) 8) with
    | .error d => .error d
    | .ok (.inl e) => .ok (e, level + 1)
    | .ok (.inr next) => walk m pk p va level next

def pageFault (d : Nat) (va : Word) : FaultInfo := { cause := 0x11, detail := d, faddr := va }
def protFault (d : Nat) (va : Word) : FaultInfo := { cause := 0x12, detail := d, faddr := va }
def addrFault (d : Nat) (va : Word) : FaultInfo := { cause := 0x10, detail := d, faddr := va }
def alignFault (va : Word) : FaultInfo := { cause := 0x13, detail := 1, faddr := va }

/-- An entry of a TLB translates an address of an ASID. -/
def TlbEntry.hits (e : TlbEntry) (p : PartId) (asid : BitVec 14) (va : Nat) : Bool :=
  e.part == p && e.asid == asid && e.page == va / 2 ^ walkShift e.level.val

/-- The entries that a walk reads from a table at a level, as memory keys. -/
def walkReads (m : Memory) (pk : Nat) (p : Part) (va : Nat) : Nat → Nat → List Nat
  | 0, table => [keyPA (table + 8 * fld va 16 5)]
  | level + 1, table =>
    let a := keyPA (table + 8 * fld va (walkShift (level + 1)) (walkWidth (level + 1)))
    a :: match pteAt pk p (level + 1) (readN m a 8) with
      | .ok (.inr next) => walkReads m pk p va level next
      | _ => []

/-- A TLB of core k or of its die translates an address. -/
def State.tlbEntry? (s : State) (k : CoreId) (p : PartId) (asid : BitVec 14) (va : Nat) : Option TlbEntry :=
  ((s.core k).tlb ++ (s.die (dieOf k)).tlb).find? fun e => e.hits p asid va

/-- The entries that the walker reads to translate an address: none where a TLB does (R214, R217). -/
def State.walkOf (s : State) (k : CoreId) (p : PartId) (asid : BitVec 14) (va : Nat) : List Nat :=
  match s.tlbEntry? k p asid va, (s.part p).asids.find? fun e => e.asid == asid with
  | none, some e => if e.root = 0 then [] else walkReads s.mem s.pkg.id.toNat (s.part p) va 3 e.root.toNat
  | _, _ => []

/-- The walker reads a block that is raw or stands under a LOADED key of the partition (R495; log entry 20). -/
def State.walkerMay (s : State) (p : PartId) (key : Nat) : Bool :=
  let n := s.blockKeyOf key
  n == 0 || s.pkg.keys.any fun k => k.2 == n && (s.part p).ownsKey k.1

/-- What stops a walk: an entry that stands under a key that is gone or foreign, or one with an uncorrectable error (R359, R495,
R522). -/
def State.walkFlaw (s : State) (k : CoreId) (p : PartId) (asid : BitVec 14) (va : Word) : Option FaultInfo :=
  (s.walkOf k p asid va.toNat).findSome? fun a =>
    if s.walkerMay p a = false then some (protFault 4 va) else (s.eccAt a (a + 7)).map fun b => s.eccFault b va

/-- The leaf and level that an address translates through. Between a change of the tables and an invalidation, a TLB entry
or the tables decide, which one the manual leaves open (R217, R218; log entry 3). A root table that the ASID's entry names is read where
it stands, in the partition's share or not (DESIGN CHOICE, log entry 20). -/
def State.leafOf (s : State) (k : CoreId) (p : PartId) (asid : BitVec 14) (va : Nat) : Except Nat (Nat × Nat) :=
  let pt := s.part p
  let walked :=
    match pt.asids.find? fun e => e.asid == asid with
    | none => .error 3
    | some e => if e.root = 0 then .error 3 else walk s.mem s.pkg.id.toNat pt va 3 e.root.toNat
  match s.tlbEntry? k p asid va with
  | none => walked
  | some e =>
    if walked.toOption = some (e.leaf.toNat, e.level.val) then walked
    else if Config.freeBits s.draws 1000 % 2 = 0 then .ok (e.leaf.toNat, e.level.val) else walked

/-- The memory key of a host bus address: the host sees the function and PASID of the ASID (R184, R489). -/
def State.hostKey (s : State) (p : PartId) (asid : BitVec 14) (a : Nat) : Nat :=
  match (s.part p).asids.find? fun e => e.asid == asid with
  | some e => keyHost e.func e.pasid.toNat a
  | none => keyHost 0 0 a

/-- Retirement has mapped out the block of a key, and no spare took its place (R437; log entry 111). -/
def State.mappedOut (s : State) (key : Nat) : Bool := s.pkg.mappedOut.any fun u => u.needed key

/-- Translate an address for a context of core k (R214 to R216, R371, R411, R495). The share of the partition bounds this package's device
memory alone: an address of a peer package meets no share (DESIGN CHOICE, log entry 21). -/
def State.translate (s : State) (k : CoreId) (p : PartId) (asid : BitVec 14) (va : Word) (need : Need) :
    Except FaultInfo Tgt :=
 match s.walkFlaw k p asid va with
 | some f => .error f
 | none =>
  match s.leafOf k p asid va.toNat with
  | .error d => .error (pageFault d va)
  | .ok (e, level) =>
    let sh := walkShift level
    let pa := fld e 16 36 * 65536 + va.toNat % 2 ^ sh
    let pt := s.part p
    let r := fld e 2 1 = 1
    let w := fld e 3 1 = 1
    let x := fld e 4 1 = 1
    let off := pa % 2 ^ 39
    if (need = .read ∨ need = .atomic) ∧ ¬r then .error (protFault 1 va)
    else if (need = .write ∨ need = .atomic) ∧ ¬w then .error (protFault 2 va)
    else if need = .code ∧ ¬x then .error (protFault 1 va)
    else if 2 ^ 51 ≤ pa then
      if s.pkg.hostRefused.contains (s.hostKey p asid (pa % 2 ^ 51) / 65536) then .error (addrFault 6 va)
      else .ok { key := s.hostKey p asid (pa % 2 ^ 51), pa := pa, dev := false, host := true, kid := 0, knum := 0, cached := false }
    else if fld pa 39 12 ≠ s.pkg.id.toNat then
      if s.pkg.peers.contains (BitVec.ofNat 12 (fld pa 39 12)) then
        .ok { key := keyPeer (fld pa 39 12) off, pa := pa, dev := false, host := false, kid := 0, knum := 0,
              cached := false }
      else .error (addrFault 6 va)
    else if pt.inShare off = false then .error (protFault 3 va)
    else
      let kid := fld e 52 10
      match lookup? s.pkg.keys kid with
      | none => .error (protFault 4 va)
      | some knum =>
        if pt.ownsKey kid = false then .error (protFault 4 va)
        else if (need = .write ∨ need = .atomic) ∧ pt.inFreeze off = true then .error (protFault 5 va)
        else if (s.die (Fin.ofNat 8 (off / 2 ^ 36))).stackUp = false ∨ s.mappedOut (keyPA off) = true then .error (addrFault 6 va)
        else .ok { key := keyPA off, pa := pa, dev := true, host := false, kid := kid, knum := knum,
                   cached := decide (fld e 6 2 = 0) }

/-- Enter a translation into the TLBs (R217): 128 entries in a core, 8,192 in a die. -/
def State.fillTlb (s : State) (k : CoreId) (p : PartId) (asid : BitVec 14) (va : Word) : State :=
  match s.leafOf k p asid va.toNat with
  | .error _ => s
  | .ok (e, level) =>
    let te : TlbEntry :=
      { part := p, asid := asid, level := Fin.ofNat 3 level, page := va.toNat / 2 ^ walkShift level,
        leaf := BitVec.ofNat 64 e }
    let put (n : Nat) (l : List TlbEntry) : List TlbEntry :=
      (te :: l.filter fun x => !(x.part == p && x.asid == asid && x.level == te.level && x.page == te.page)).take n
    (s.mapCore k fun c => { c with tlb := put 128 c.tlb }).mapDie (dieOf k) fun d => { d with tlb := put 8192 d.tlb }

/-! ## Range monitors and the log ring (R498 to R501) -/

/-- Bytes of a log record (R501). -/
def LogEntry.record (e : LogEntry) : Nat :=
  e.first % 2 ^ 64 + 2 ^ 64 * (e.last % 2 ^ 64) + 2 ^ 128 * (e.count % 2 ^ 32) + 2 ^ 160 * e.asid.toNat
    + 2 ^ 176 * (e.mon.val + 16 * e.kind.val) + 2 ^ 192 * e.src.toNat

/-- Put a block under a key: what stood there under another key becomes undefined (R494). -/
def State.ownBlock (s : State) (key knum : Nat) : State :=
  let b := blockOf key
  if s.blockKeyOf key = knum then s
  else
    { s with
      mem := writeN s.mem b 64 (Config.freeBits s.draws (2000 + b))
      pkg := { s.pkg with blockKey := if knum = 0 then removeAt s.pkg.blockKey b else insertAt s.pkg.blockKey b knum }
      draws := s.draws + 1 }

/-- The blocks of n bytes at a key stand under the key that the host's window uses (log entry 14). -/
def State.ownRun (s : State) (key n : Nat) : State :=
  let knum := lookupD 0 s.pkg.keys s.pkg.mwkey.toNat
  (List.range ((key % 64 + n + 63) / 64)).foldl (fun s j => s.ownBlock (blockOf key + 64 * j) knum) s

/-- Firmware's part of device memory, outside every partition's share, takes bytes that the host reads through its window (R500, R504, R510,
R512; log entry 14). -/
def State.assureWrite (s : State) (pa : Nat) (l : List Byte) : State :=
  if s.parts.any fun q => q.2.inShare pa || q.2.inShare (pa + l.length - 1) then s
  else
    let s1 := s.ownRun (keyPA pa) l.length
    s1.setMem (writeBytes s1.mem (keyPA pa) l)

/-- Write one record to the log ring, or count it lost when the ring is full; three quarters full interrupts the host (R500,
log entry 14). -/
def State.logWrite (s : State) (p : PartId) (e : LogEntry) : State :=
  let x := s.part p
  let size := x.logs.toNat
  if size = 0 ∨ (x.logw.toNat + 1) % size = x.logr.toNat % size then s.setPart p { x with lost := x.lost + 1 }
  else
    let s1 := s.assureWrite (x.logb.toNat + 32 * x.logw.toNat) (bytesOf e.record 32)
    let w := (x.logw.toNat + 1) % size
    let used := (w + size - x.logr.toNat % size) % size
    let s2 := s1.setPart p { x with logw := BitVec.ofNat 64 w }
    if 4 * used ≥ 3 * size then s2.raise 4 else s2

/-- Write out and free the log entries that a test selects (R500). -/
def State.logFlush (s : State) (p : PartId) (pick : LogEntry → Bool) : State :=
  let out := (s.part p).log.filter pick
  out.foldl (fun s e => s.logWrite p e) (s.mapPart p fun x => { x with log := x.log.filter fun e => !pick e })

/-- The oldest entry by last tempo (R500). -/
def oldestLog : List LogEntry → Option LogEntry
  | [] => none
  | e :: rest =>
    match oldestLog rest with
    | none => some e
    | some f => if e.last ≤ f.last then some e else some f

/-- Count an access in one entry of the log (R499, R500). -/
def State.logCount (s : State) (p : PartId) (mon : Fin 16) (asid : BitVec 14) (kind : Fin 4) (src : BitVec 12) : State :=
  let same (e : LogEntry) : Bool := e.mon == mon && e.asid == asid && e.kind == kind && e.src == src
  let x := s.part p
  match x.log.find? same with
  | some e =>
    let e1 := { e with count := e.count + 1, last := s.tempo }
    let s1 := s.setPart p { x with log := x.log.map fun f => if same f then e1 else f }
    if e1.count ≥ 2 ^ 32 - 1 then s1.logFlush p same else s1
  | none =>
    let s1 := if x.log.length ≥ 64 then
        match oldestLog x.log with
        | some o => s.logFlush p fun e => e == o
        | none => s
      else s
    s1.mapPart p fun y =>
      { y with log := y.log ++ [{ mon := mon, asid := asid, kind := kind, src := src, count := 1,
                                  first := s.tempo, last := s.tempo }] }

/-- Count an access at its home point in every monitor whose range holds it (R499); kinds 0 read, 1 write, 2 atomic. `src` is the source
package of an access from another package. -/
def State.monitorFrom (s : State) (p : PartId) (asid : BitVec 14) (kind : Fin 4) (src : BitVec 12) (pa : Nat) : State :=
  (List.finRange 16).foldl (fun s n =>
    let x := s.part p
    let w0 := x.mon0[n].toNat
    let w1 := x.mon1[n].toNat
    let wanted := fld w0 0 1 = 1 ∧ fld w0 (1 + kind.val) 1 = 1
    let unit := pa / 65536
    if wanted ∧ fld w0 16 36 ≤ unit ∧ unit ≤ fld w1 16 36 ∧ (fld w1 15 1 = 1 ∨ fld w1 0 14 = asid.toNat) then
      s.logCount p n asid kind src
    else s) s

/-- Count an access of this package. -/
def State.monitor (s : State) (p : PartId) (asid : BitVec 14) (kind : Fin 4) (pa : Nat) : State := s.monitorFrom p asid kind 0 pa

/-! ## The slice cache (R492, R493) -/

/-- Bank, and set within the bank, of a line under a division of n steps (R492). -/
def cachePlace (n pa : Nat) : Nat × Nat :=
  let bank := (fld pa 7 5) ^^^ (fld pa 32 5)
  let sb := (fld pa 12 9) ^^^ (fld pa 21 9)
  let u := (fld sb 8 1 + 2 * fld pa 30 2) % n
  (bank, 256 * u + sb % 256)

/-- The n-th set bit of a way mask. -/
def nthWay (mask : BitVec 16) (n : Nat) : Fin 16 :=
  match ((List.finRange 16).filter fun w => mask.getLsbD w.val)[n]? with
  | some w => w
  | none => 0

/-- A cached access meets the slice cache: a hit, or a fill of a way of the mask; which way the manual leaves open (R493; log
entry 3). Values never change (R241). -/
def State.cacheTouch (s : State) (p : PartId) (t : Tgt) (wr : Bool) : State :=
  let d : DieId := Fin.ofNat 8 (t.pa / 2 ^ 36)
  let x := s.die d
  let mask := (s.part p).pway
  if x.cacheSteps = 0 ∨ mask = 0 ∨ t.cached = false then s
  else
    let line := t.pa / 128 * 128
    let hit (l : CacheLine) : Bool := l.addr == line && l.part == p
    if x.cache.any hit then
      s.setDie d { x with cache := x.cache.map fun l => if hit l then { l with dirty := l.dirty || wr } else l }
    else
      let ways := ((List.finRange 16).filter fun w => mask.getLsbD w.val).length
      let way := nthWay mask (Config.freeBits s.draws 1001 % ways)
      let place := cachePlace x.cacheSteps line
      let keep := x.cache.filter fun l => !(cachePlace x.cacheSteps l.addr == place && l.way == way)
      (s.setDie d { x with cache := { addr := line, part := p, key := t.kid, way := way, dirty := wr } :: keep }).drawn

/-! ## Device memory under its keys (R221, R222, R494) -/

/-- What stands in mapped-out banks among n bytes at a key is undefined at each access: nothing there holds a value (R437; log entry 111). -/
def State.fadeBanks (s : State) (lo n : Nat) : State :=
  if s.pkg.mappedOut.isEmpty then s
  else
    ((List.range n).foldl (fun s j =>
      if s.mappedOut (lo + j) then s.setMem (writeByte s.mem (lo + j) (BitVec.ofNat 8 (Config.freeBits s.draws (2000 + lo + j)))) else s)
      s).drawn

/-- Read n bytes of a target: under another key, or where retirement has mapped the bank out, the value is undefined (R7, R437, R494). -/
def State.readTgt (s : State) (t : Tgt) (n : Nat) : Nat :=
  if (t.dev ∧ s.blockKeyOf t.key ≠ t.knum) ∨ s.mappedOut t.key = true then Config.freeBits s.draws (2000 + t.key) % 2 ^ (8 * n)
  else readN s.mem t.key n

/-- The key id of a translated target is EMPTY now (R495, R497). -/
def State.keyLost (s : State) (t : Tgt) : Bool := t.dev && (lookup? s.pkg.keys t.kid).isNone

/-- A target under the material that its key id holds now (R494). -/
def State.freshKey (s : State) (t : Tgt) : Tgt :=
  if t.dev then (match lookup? s.pkg.keys t.kid with | some n => { t with knum := n } | none => t) else t

/-- The die on whose stack, or in whose shared scratch or core storage, a local key lies. -/
def dieOfKey (key : Nat) : DieId := Fin.ofNat 8 (key / 2 ^ 40)

/-- The write queue of a partition that a target's writes enter: that of the slice-cache bank, or, uncached or with an empty way mask, of
the HBM controller of its die (R241, R242). -/
def State.queueOf (s : State) (p : PartId) (t : Tgt) : Nat :=
  let bank := t.cached && (s.part p).pway != 0 && (s.die (dieOfKey t.key)).cacheSteps != 0
  t.key / 2 ^ 40 % 8 * 64 + (if bank then fld t.pa 7 5 ^^^ fld t.pa 32 5 else 32)

/-- Undrained entries of a write queue. -/
def State.queued (s : State) (p : PartId) (q : Nat) : Nat :=
  ((s.part p).wq.filter fun w => w.queue == q && decide (s.tempo < w.drain)).length

/-- A queue of the target holds 64 entries: a write waits for room (R242). -/
def State.queueFull (s : State) (p : PartId) (t : Tgt) : Bool := t.dev && decide (64 ≤ s.queued p (s.queueOf p t))

/-- The oldest entry of a queue that has not drained drains now. -/
def drainOldest (q now : Nat) : List WqEntry → List WqEntry
  | [] => []
  | w :: rest => if w.queue = q ∧ now < w.drain then { w with drain := now } :: rest else w :: drainOldest q now rest

/-- Enter a write into the partition's write queue at its home; the queue drains in order, after an elastic time in which no other
partition has a part (R222, R242, R243). Traffic that may wait enters a queue with room only; a write of the director drains the oldest
entry of a full one (log entry 116). -/
def State.queueWrite (s : State) (p : PartId) (c : CtxId) (t : Tgt) (n : Nat) (k : Option AccessKind) : State :=
  let q := s.queueOf p t
  let full := s.queueFull p t
  s.mapPart p fun x =>
    let own := s.tempo + 1 + Config.latency (2 ^ 64 * (p.val + 1) + x.wqCount)
    let behind (w : WqEntry) : Bool := w.queue == q || (decide (w.key < t.key + n) && decide (t.key < w.key + w.old.length))
    let drain := x.wq.foldl (fun d w => if behind w then max d (w.drain + 1) else d) own
    let e : WqEntry := { ctx := c, kind := k, queue := q, drain := drain, key := t.key, old := readBytes s.mem t.key n }
    { x with
      wq := ((if full then drainOldest q s.tempo x.wq else x.wq).filter fun w => decide (s.tempo < w.drain)) ++ [e]
      wqCount := x.wqCount + 1 }

/-- Further contexts whose contributions the newest queue entry of a partition holds (R208, R235). -/
def State.shareEntry (s : State) (p : PartId) (l : List CtxId) : State :=
  s.mapPart p fun x =>
    match x.wq.reverse with
    | [] => x
    | w :: rest => { x with wq := (({ w with also := l } : WqEntry) :: rest).reverse }

/-- Write n bytes, within one block, at a target (R222, R494). -/
def State.writeTgt (s : State) (p : PartId) (c : CtxId) (t : Tgt) (n v : Nat) (k : Option AccessKind) : State :=
  if t.dev then
    let s1 := (s.queueWrite p c t n k).ownBlock t.key t.knum
    s1.setMem (writeN s1.mem t.key n v)
  else s.setMem (writeN s.mem t.key n v)

/-- Write n bytes, a multiple of 64, at a block of device memory, each given by its offset (R494). -/
def State.fillTgt (s : State) (t : Tgt) (n : Nat) (f : Nat → Byte) : State :=
  let s1 := s.setMem (fillBytes s.mem t.key n f)
  let keys := if t.knum = 0 then [] else (List.range (n / 64)).map fun i => (t.key + 64 * i, t.knum)
  { s1 with
    pkg := { s1.pkg with
      blockKey := (s1.pkg.blockKey.filter fun b => decide (b.1 < t.key)) ++ keys
        ++ s1.pkg.blockKey.filter fun b => decide (t.key + n ≤ b.1) } }

/-- The memory key and class of a local window access of core k for context c (R183, R186). -/
def localTgt (key : Nat) : Tgt :=
  { key := key, pa := 0, dev := false, host := false, kid := 0, knum := 0, cached := false }

/-! ## Operand spans of the plane array (R295, R296) -/

/-- The fields of MSA or MSB: base and stride. -/
def spanBase (w : Word) : Nat := fld w.toNat 0 22
def spanStride (w : Word) : Nat := fld w.toNat 22 22
/-- The fields of MSK. -/
def mskK (w : Word) : Nat := fld w.toNat 0 14
def mskPa (w : Word) : Nat := fld w.toNat 18 4 + 1
def mskPb (w : Word) : Nat := fld w.toNat 22 4 + 1
def mskA2 (w : Word) : Bool := fld w.toNat 26 1 == 1
def mskB2 (w : Word) : Bool := fld w.toNat 27 1 == 1
def mskLat (w : Word) : Bool := fld w.toNat 28 1 == 1

def groupBytes (two : Bool) : Nat := if two then 128 else 64

/-- First and last byte of an operand span (R296). -/
def spanOf (w : Word) (k : Nat) (two : Bool) : Nat × Nat :=
  (spanBase w, spanBase w + 31 * spanStride w + k / 64 * groupBytes two - 1)

/-- The spans that a command of the array has in flight (R306, R311). -/
def ArrayCmd.spans (a : ArrayCmd) : List (Nat × Nat) :=
  let sa := if !a.mlat && mskLat a.msk then [] else [spanOf a.msa (mskK a.msk) (mskA2 a.msk)]
  if a.mlat then sa else sa ++ [spanOf a.msb (mskK a.msk) (mskB2 a.msk)]

/-- Two byte ranges share a 32-byte sector. -/
def sectorsMeet (lo1 hi1 lo2 hi2 : Nat) : Bool :=
  decide (lo1 / 32 ≤ hi2 / 32) && decide (lo2 / 32 ≤ hi1 / 32)

/-- A write to core-scratchpad bytes meets the span of an in-flight MMA or MLAT of the core (R307). -/
def State.spanHit (s : State) (k : CoreId) (lo hi : Nat) : Bool :=
  (s.core k).array.any fun a => !a.stopped && a.spans.any fun sp => sectorsMeet lo hi sp.1 sp.2

/-! ## Footprints and the race guard (R233, R354, R355) -/

/-- A footprint covers a sector of a range of its window. -/
def Footprint.meets (f : Footprint) (w : Window) (lo hi : Nat) : Bool :=
  decide (f.win = w) && sectorsMeet f.lo f.hi lo hi

/-- Two footprints overlap (R355). -/
def Footprint.overlaps (f g : Footprint) : Bool := f.meets g.win g.lo g.hi

def footMeets (f : Option Footprint) (w : Window) (lo hi : Nat) : Bool :=
  match f with
  | some x => x.meets w lo hi
  | none => false

/-- The RACE detail that the guard finds for bytes lo to hi of a window, if any (R233); the target of an XATM counts as its source
(R394). -/
def State.guardHit (s : State) (c : CtxId) (w : Window) (lo hi : Nat) (k : AccessKind) : Option Nat :=
  let l := s.cmdsOf c
  let onDst := l.any fun m => footMeets m.dst w lo hi
  let onSrc := l.any fun m => footMeets m.src w lo hi || footMeets m.also w lo hi
  if !s.guardOf c then none
  else if onDst then some (if k.wr then 2 else 1)
  else if k.wr && onSrc then some 3
  else none

/-- The race checks of a core access: the guard, then the spans of the array (R233, R307). -/
def State.raceFlaw (s : State) (c : CtxId) (w : Window) (lo hi : Nat) (k : AccessKind) (va : Word) : Option FaultInfo :=
  match s.guardHit c w lo hi k with
  | some d => some { cause := 0x14, detail := d, faddr := va }
  | none =>
    match w with
    | .scratch core => if k.wr && s.spanHit core lo hi then some { cause := 0x14, detail := 5, faddr := va } else none
    | _ => none

end Sys2Proof.Machine
end

