-- ==== Sys2Proof/Machine/Ring.lean ====
section
/-! DEFINITION. The package ring as every kind of elastic traffic meets it: stations, routes, claims, dead segments and sumps (14
R376 to R384, R391, R397 to R400). -/

namespace Sys2Proof.Machine

/-! ## Sumps (R397, R398) -/

/-- The counts of a sump register. -/
inductive SumpField | stale | dead | flush
  deriving DecidableEq, Repr

def SumpField.shift : SumpField → Nat | .stale => 0 | .dead => 16 | .flush => 32

/-- Add one to a count of a sump register; a count stops at 0xFFFF (R397). -/
def sumpUp (v : Vector Word 16) (n : Fin 16) (shift : Nat) : Vector Word 16 :=
  let w := v[n]
  if fld w.toNat shift 16 = 0xFFFF then v else v.set n (w + BitVec.ofNat 64 (2 ^ shift))

/-- Count one discarded packet in a sump register of the station that discards it, and remember that this tempo counted it (R398). -/
def State.countAt (s : State) (station : DieId) (n : Fin 16) (f : SumpField) : State :=
  s.mapDie station fun d =>
    { d with
      sump := sumpUp d.sump n f.shift
      counted := (s.tempo, (if d.counted.1 = s.tempo then d.counted.2 else []) ++ [(n, f.shift)]) }

/-- Count one discarded packet from a source die of this package. -/
def State.countSump (s : State) (station src : DieId) (f : SumpField) : State := s.countAt station (Fin.ofNat 16 src.val) f

/-- The sump register for a source: a die of this package, or another package (R397). -/
def State.sumpIndex (s : State) (srcPkg : BitVec 12) (src : DieId) : Fin 16 :=
  if srcPkg = s.pkg.id then Fin.ofNat 16 src.val else Fin.ofNat 16 (8 + srcPkg.toNat % 8)

/-- A write of a sump register sets its counts; what the station counted in the same tempo applies after it (R398). -/
def Die.writeSump (d : Die) (now : Nat) (n : Fin 16) (v : Word) : Die :=
  let put := d.sump.set n (BitVec.ofNat 64 (fld v.toNat 0 48))
  let later := if d.counted.1 = now then d.counted.2.filter fun x => x.1 == n else []
  { d with sump := later.foldl (fun w x => sumpUp w x.1 x.2) put }

/-! ## Stations and global addresses (R12, R377, R378) -/

/-- The die of the bridge station that carries traffic of another package (R12, R377). -/
def bridgeDie (pkg : Nat) : DieId := Fin.ofNat 8 (2 * (pkg % 4) + 1)

/-- The die of a target: host memory is carried to D0, a peer package by its bridge station. -/
def dieOfTgt (t : Tgt) : DieId :=
  if t.host then 0 else if t.key < 2 ^ 55 then Fin.ofNat 8 (t.key / 2 ^ 40) else bridgeDie (t.pa / 2 ^ 39)

/-- The 55-bit global address of a target (R378): package, die, and the local address of device memory, host memory, shared scratch or
core storage. -/
def State.gadr (s : State) (t : Tgt) : Nat :=
  let own := s.pkg.id.toNat * 2 ^ 43
  if t.host then own + 2 ^ 38
  else if t.key < 2 ^ 55 then own + t.key
  else fld t.pa 39 12 * 2 ^ 43 + fld t.pa 36 3 * 2 ^ 40 + t.pa % 2 ^ 36

/-- The host bus address of a target, for the header of its packet (R378, R379). -/
def Tgt.hadr (t : Tgt) : Nat := if t.host then t.pa % 2 ^ 51 else 0

/-! ## Routes (R11, R391, R399, R400) -/

/-- Segments between two dies in a direction. -/
def segments (src dst : DieId) (desc : Bool) : Nat :=
  if desc then (src.val + 8 - dst.val) % 8 else (dst.val + 8 - src.val) % 8

/-- The way from src to dst in a direction crosses the segment that leaves die d in that direction. -/
def crosses (src dst d : DieId) (desc : Bool) : Bool := decide (segments src d desc < segments src dst desc)

/-- Next die in a direction: the station after the segment. -/
def nextDie (d : DieId) (desc : Bool) : DieId := Fin.ofNat 8 (if desc then d.val + 7 else d.val + 1)

/-- The direction that the firmware route table gives; before any recompute it is that of fewer segments (log entry 109). -/
def State.routeDesc (s : State) (src dst : DieId) : Bool :=
  lookupD (decide (segments src dst true < segments src dst false)) s.pkg.routes (8 * src.val + dst.val)

/-- A dead segment of the ring drains (R399). -/
def State.draining (s : State) : Bool := s.pkg.dead.any fun x => x.2.2

/-- The way from src to dst crosses a retired segment: nothing arrives (R399). -/
def State.routeDead (s : State) (src dst : DieId) : Bool :=
  src != dst && s.pkg.dead.any fun x => !x.2.2 && x.2.1 == s.routeDesc src dst && crosses src dst x.1 x.2.1

/-- The direction of the route table takes traffic from a to b over the segment. -/
def State.routeOver (s : State) (a b d : DieId) (desc : Bool) : Bool :=
  a != b && s.routeDesc a b == desc && crosses a b d desc

/-- No station injects traffic from src to dst: its direction drains, a segment of its way is under test, or timetables claim every
sub-ring (R384, R391, R399, R436). -/
def State.ringBlocked (s : State) (src dst : DieId) : Bool :=
  src != dst && ((s.pkg.dead.any fun x => x.2.2 && x.2.1 == s.routeDesc src dst)
    || (s.pkg.tests.any fun u => u.unit == .segment && (u.place % 2 == 1) == s.routeDesc src dst
          && crosses src dst (Fin.ofNat 8 (u.place / 2 ^ 40)) (s.routeDesc src dst))
    || (List.finRange 4).all fun r => s.pkg.claims.any fun c => c.2 == r)

/-- Route in the other direction what a dead segment served (R400). -/
def State.reroute (s : State) (d : DieId) (desc : Bool) : State :=
  let pairs := (List.finRange 8).flatMap fun a => (List.finRange 8).map fun b => (a, b)
  let hit := pairs.filter fun p => s.routeDesc p.1 p.2 == desc && crosses p.1 p.2 d desc
  { s with pkg := { s.pkg with
      routes := hit.foldl (fun t p => insertAt t (8 * p.1.val + p.2.val) (!desc)) s.pkg.routes } }

/-- The dies whose stacks a walk reads across the package ring (R10, R214). -/
def State.walkDies (s : State) (k : CoreId) (p : PartId) (asid : BitVec 14) (va : Nat) : List DieId :=
  ((s.walkOf k p asid va).map dieOfKey).filter fun d => d != dieOf k

/-- A walk for core k loses an access on a retired segment, or cannot make one now (R10, R384, R399). -/
def State.walkDead (s : State) (k : CoreId) (p : PartId) (asid : BitVec 14) (va : Nat) : Bool :=
  (s.walkDies k p asid va).any fun d => s.routeDead (dieOf k) d
def State.walkBlocked (s : State) (k : CoreId) (p : PartId) (asid : BitVec 14) (va : Nat) : Bool :=
  (s.walkDies k p asid va).any fun d => s.ringBlocked (dieOf k) d

/-! ## Injection: partitions in turn, each in order of issue (R391, R487) -/

/-- Packets that a partition may inject in one turn: its EWT (R487; log entry 113). -/
def State.ewt (s : State) (p : PartId) : Nat := fld (s.part p).pring.toNat 8 8

/-- A station has injected traffic of a partition (R391, R487). -/
def Die.serve (d : Die) (p : PartId) (ewt : Nat) : Die :=
  if d.turn = p ∧ d.served < ewt then { d with served := d.served + 1 } else { d with turn := p, served := 1 }

def State.served (s : State) (p : PartId) (d : DieId) : State := s.mapDie d fun x => x.serve p (s.ewt p)

/-- Of the partitions whose packets the station of a die could inject, this one has the turn, by weight (R391, R487). -/
def State.inTurn (s : State) (p : PartId) (d : DieId) : Bool :=
  let x := s.die d
  let goesOn := decide (x.served < s.ewt x.turn)
  let away (q : PartId) : Nat := if goesOn && q == x.turn then 0 else (q.val + 31 - x.turn.val) % 32 + 1
  s.packets.all fun q =>
    q.srcDie != d || q.at_ != .pending || s.ringBlocked q.srcDie q.dstDie || decide (away p ≤ away q.part)

/-- A packet of the partition is pending at the station: traffic that comes after it waits (R391). -/
def State.pendingAt (s : State) (p : PartId) (d : DieId) : Bool :=
  s.packets.any fun q => q.part == p && q.srcDie == d && q.at_ == .pending

/-! ## Packets (R379 to R381) -/

/-- Incarnation of an ASID of a partition (R380). -/
def State.asidIncarn (s : State) (p : PartId) (a : BitVec 14) : BitVec 16 := lookupD 0 (s.part p).asidInc a.toNat

/-- A packet of context c to a target, before its station takes it; `dst` is the context that hosts a member window (R379, R380). -/
def State.newPacket (s : State) (c : CtxId) (k : PacketKind) (t : Tgt) (dst : Option CtxId) : Packet :=
  let x := s.ctx c
  let d0 := dieOf (coreOf c)
  { id := s.fresh, kind := k, part := x.part, srcPkg := s.pkg.id, src := c, seq := (s.die d0).seq + 1, back := false, sinc := x.incarn,
    dinc := match dst with | some d => (s.ctx d).incarn | none => s.asidIncarn x.part x.spr.asid,
    dstCtx := dst, dstAsid := if dst.isSome then none else some x.spr.asid, srcDie := d0, dstDie := dieOfTgt t,
    tgt := some t, bytes := [], len := 0, atom := none, hopVals := [], hopFmt := 0, cmd := 0, at_ := .pending }

/-- The station of its source takes a packet: it has the next request number there, and waits for a slot (R379, R391). -/
def State.sendPacket (s : State) (p : Packet) : State :=
  (({ s with packets := s.packets ++ [p], fresh := s.fresh + 1 } : State).mapDie p.srcDie fun d => { d with seq := d.seq + 1 }).later 1
    (.packetInject p.id)

/-! ## Outcomes of self-tests (R437, R522, R523) -/

/-- UNIT of a record (R412). -/
def TUnit.code : TUnit → Nat | .bank => 1 | .link => 2 | .core => 3 | .segment => 4 | .hbm => 5

/-- TEST of a record (R412). -/
def TRes.code : TRes → Nat | .pass => 1 | .spare => 2 | .retired => 3

def satAdd {w : Nat} (x : BitVec w) : BitVec w := if x = BitVec.allOnes w then x else x + 1

/-- One more soft error passes the threshold of firmware (R518; log entry 114). -/
def softPasses (count : BitVec 16) : Bool := count.toNat == Config.softThreshold.val

/-- Count an outcome in the die's health counters, and tell the host of a soft-error count that passes its threshold (R437, R518,
R522). -/
def State.countTest (s : State) (d : DieId) (r : TRes) : State :=
  let s1 := s.mapDie d fun x =>
    match r with
    | .pass => { x with soft := satAdd x.soft }
    | .spare => { x with rets := satAdd x.rets }
    | .retired => { x with retn := satAdd x.retn }
  if r = .pass ∧ softPasses (s.die d).soft = true then s1.raise 6 else s1

/-- Enter a unit in the retire list, and tell the host (R518, R523). -/
def State.retireUnit (s : State) (code : Nat) : State :=
  ({ s with pkg := { s.pkg with retired := s.pkg.retired ++ [code] } } : State).raise 6

end Sys2Proof.Machine
end

