-- ==== Sys2Proof/Machine/Scalar.lean ====
section
/-! DEFINITION. The scalar slots sa and sb (06 R158 to R178): integer arithmetic, immediates, special registers, tag search
and staging writes. The handler forms are in Seconds.lean and TLBI is in Ordering.lean. -/

namespace Sys2Proof.Machine

/-- A scalar operation: SCORE, then the result lands `lat` tempo after issue in d and in the slot's last-result pair (R40,
R42, R49, R159). -/
def State.scalarOp (s : State) (i : Instr) (lat : Nat) (d : SReg) (v : Word) : Host.Outcome State Fault Refusal :=
  .next (s.scored i lat fun s => s.land lat (.s d s.sProd v))

/-- A truth value as a word (R171). -/
def flagWord (b : Bool) : Word := if b then 1 else 0

/-- Shift count of a register form (R171). -/
def shiftCount (b : Word) : Nat := b.toNat % 64

/-- Number of leading zero bits below bit n. -/
def leadingZeros (a : Word) : Nat → Nat
  | 0 => 0
  | n + 1 => if a.getLsbD n then 0 else 1 + leadingZeros a n

/-- Number of trailing zero bits: `n` bits are left to look at, from bit 64 − n upward. -/
def trailingZeros (a : Word) : Nat → Nat
  | 0 => 0
  | n + 1 => if a.getLsbD (63 - n) then 0 else 1 + trailingZeros a n

/-- Number of one bits below bit n. -/
def popCount (a : Word) : Nat → Nat
  | 0 => 0
  | n + 1 => (if a.getLsbD n then 1 else 0) + popCount a n

/-- Bits [pos+len−1:pos] of a (R176). -/
def bitField (a : Word) (pos len : Nat) : Word := (a >>> pos) &&& BitVec.ofNat 64 (2 ^ len - 1)

/-- d with bits [pos+len−1:pos] replaced by the low bits of a (R176). -/
def insertField (d a : Word) (pos len : Nat) : Word :=
  let mask := BitVec.ofNat 64 (2 ^ len - 1)
  (d &&& ~~~(mask <<< pos)) ||| ((a &&& mask) <<< pos)

/-! ## The integer group (R171) -/

def execAdd (d a b : SReg) (s : State) : Host.Outcome State Fault Refusal :=
  s.scalarOp (.add d a b) 1 d (s.rdS 0 a + s.rdS 1 b)
def execSub (d a b : SReg) (s : State) : Host.Outcome State Fault Refusal :=
  s.scalarOp (.sub d a b) 1 d (s.rdS 0 a - s.rdS 1 b)
def execAnd (d a b : SReg) (s : State) : Host.Outcome State Fault Refusal :=
  s.scalarOp (.and d a b) 1 d (s.rdS 0 a &&& s.rdS 1 b)
def execOr (d a b : SReg) (s : State) : Host.Outcome State Fault Refusal :=
  s.scalarOp (.or d a b) 1 d (s.rdS 0 a ||| s.rdS 1 b)
def execXor (d a b : SReg) (s : State) : Host.Outcome State Fault Refusal :=
  s.scalarOp (.xor d a b) 1 d (s.rdS 0 a ^^^ s.rdS 1 b)
def execAndn (d a b : SReg) (s : State) : Host.Outcome State Fault Refusal :=
  s.scalarOp (.andn d a b) 1 d (s.rdS 0 a &&& ~~~(s.rdS 1 b))
def execShl (d a b : SReg) (s : State) : Host.Outcome State Fault Refusal :=
  s.scalarOp (.shl d a b) 1 d (s.rdS 0 a <<< shiftCount (s.rdS 1 b))
def execShr (d a b : SReg) (s : State) : Host.Outcome State Fault Refusal :=
  s.scalarOp (.shr d a b) 1 d (s.rdS 0 a >>> shiftCount (s.rdS 1 b))
def execSar (d a b : SReg) (s : State) : Host.Outcome State Fault Refusal :=
  s.scalarOp (.sar d a b) 1 d ((s.rdS 0 a).sshiftRight (shiftCount (s.rdS 1 b)))
def execRotl (d a b : SReg) (s : State) : Host.Outcome State Fault Refusal :=
  s.scalarOp (.rotl d a b) 1 d ((s.rdS 0 a).rotateLeft (shiftCount (s.rdS 1 b)))
def execMin (d a b : SReg) (s : State) : Host.Outcome State Fault Refusal :=
  s.scalarOp (.min d a b) 1 d (if (s.rdS 0 a).slt (s.rdS 1 b) then s.rdS 0 a else s.rdS 1 b)
def execMax (d a b : SReg) (s : State) : Host.Outcome State Fault Refusal :=
  s.scalarOp (.max d a b) 1 d (if (s.rdS 0 a).slt (s.rdS 1 b) then s.rdS 1 b else s.rdS 0 a)
def execMinu (d a b : SReg) (s : State) : Host.Outcome State Fault Refusal :=
  s.scalarOp (.minu d a b) 1 d (if (s.rdS 0 a).ult (s.rdS 1 b) then s.rdS 0 a else s.rdS 1 b)
def execMaxu (d a b : SReg) (s : State) : Host.Outcome State Fault Refusal :=
  s.scalarOp (.maxu d a b) 1 d (if (s.rdS 0 a).ult (s.rdS 1 b) then s.rdS 1 b else s.rdS 0 a)
def execSeq (d a b : SReg) (s : State) : Host.Outcome State Fault Refusal :=
  s.scalarOp (.seq d a b) 1 d (flagWord (s.rdS 0 a == s.rdS 1 b))
def execSne (d a b : SReg) (s : State) : Host.Outcome State Fault Refusal :=
  s.scalarOp (.sne d a b) 1 d (flagWord (s.rdS 0 a != s.rdS 1 b))
def execSlt (d a b : SReg) (s : State) : Host.Outcome State Fault Refusal :=
  s.scalarOp (.slt d a b) 1 d (flagWord ((s.rdS 0 a).slt (s.rdS 1 b)))
def execSltu (d a b : SReg) (s : State) : Host.Outcome State Fault Refusal :=
  s.scalarOp (.sltu d a b) 1 d (flagWord ((s.rdS 0 a).ult (s.rdS 1 b)))
def execSle (d a b : SReg) (s : State) : Host.Outcome State Fault Refusal :=
  s.scalarOp (.sle d a b) 1 d (flagWord ((s.rdS 0 a).sle (s.rdS 1 b)))
def execClz (d a : SReg) (s : State) : Host.Outcome State Fault Refusal :=
  s.scalarOp (.clz d a) 1 d (BitVec.ofNat 64 (leadingZeros (s.rdS 0 a) 64))
def execCtz (d a : SReg) (s : State) : Host.Outcome State Fault Refusal :=
  s.scalarOp (.ctz d a) 1 d (BitVec.ofNat 64 (trailingZeros (s.rdS 0 a) 64))
def execPopc (d a : SReg) (s : State) : Host.Outcome State Fault Refusal :=
  s.scalarOp (.popc d a) 1 d (BitVec.ofNat 64 (popCount (s.rdS 0 a) 64))
def execMovo (d a : SReg) (s : State) : Host.Outcome State Fault Refusal :=
  s.scalarOp (.movo d a) 1 d (s.rdS 0 a)

/-- FFRDY: the lowest set tag of the mask, or 64 (R177). -/
def execFfrdy (d a : SReg) (s : State) : Host.Outcome State Fault Refusal :=
  s.scalarOp (.ffrdy d a) 1 d (BitVec.ofNat 64 (trailingZeros (s.rdS 0 a &&& s.ic.spr.tags) 64))

/-! ## The multiply group (R172) -/

def execMul (d a b : SReg) (s : State) : Host.Outcome State Fault Refusal :=
  s.scalarOp (.mul d a b) 3 d (s.rdS 0 a * s.rdS 1 b)
def execMulh (d a b : SReg) (s : State) : Host.Outcome State Fault Refusal :=
  s.scalarOp (.mulh d a b) 3 d
    (((s.rdS 0 a).signExtend 128 * (s.rdS 1 b).signExtend 128).extractLsb' 64 64)
def execMulhu (d a b : SReg) (s : State) : Host.Outcome State Fault Refusal :=
  s.scalarOp (.mulhu d a b) 3 d
    (((s.rdS 0 a).zeroExtend 128 * (s.rdS 1 b).zeroExtend 128).extractLsb' 64 64)
/-- DIVU: division by zero gives all ones (R172). -/
def execDivu (d a b : SReg) (s : State) : Host.Outcome State Fault Refusal :=
  s.scalarOp (.divu d a b) 24 d (if s.rdS 1 b = 0 then BitVec.allOnes 64 else s.rdS 0 a / s.rdS 1 b)
/-- REMU: a remainder by zero gives a (R172). -/
def execRemu (d a b : SReg) (s : State) : Host.Outcome State Fault Refusal :=
  s.scalarOp (.remu d a b) 24 d (if s.rdS 1 b = 0 then s.rdS 0 a else s.rdS 0 a % s.rdS 1 b)

/-! ## Immediates, selection and bit fields (R173 to R176) -/

def execSel (d a b c : SReg) (s : State) : Host.Outcome State Fault Refusal :=
  s.scalarOp (.sel d a b c) 1 d (if s.rdS 2 c != 0 then s.rdS 0 a else s.rdS 1 b)
def execAddsc (d a b : SReg) (sh : Fin 8) (s : State) : Host.Outcome State Fault Refusal :=
  s.scalarOp (.addsc d a b sh) 1 d (s.rdS 0 a + (s.rdS 1 b <<< sh.val))
def execAddi (d a : SReg) (imm : BitVec 14) (s : State) : Host.Outcome State Fault Refusal :=
  s.scalarOp (.addi d a imm) 1 d (s.rdS 0 a + imm.signExtend 64)
def execAndImm (d a : SReg) (imm : BitVec 14) (s : State) : Host.Outcome State Fault Refusal :=
  s.scalarOp (.andImm d a imm) 1 d (s.rdS 0 a &&& imm.signExtend 64)
def execOrImm (d a : SReg) (imm : BitVec 14) (s : State) : Host.Outcome State Fault Refusal :=
  s.scalarOp (.orImm d a imm) 1 d (s.rdS 0 a ||| imm.signExtend 64)
def execXorImm (d a : SReg) (imm : BitVec 14) (s : State) : Host.Outcome State Fault Refusal :=
  s.scalarOp (.xorImm d a imm) 1 d (s.rdS 0 a ^^^ imm.signExtend 64)
def execAndnImm (d a : SReg) (imm : BitVec 14) (s : State) : Host.Outcome State Fault Refusal :=
  s.scalarOp (.andnImm d a imm) 1 d (s.rdS 0 a &&& ~~~(imm.signExtend 64))
def execShlImm (d a : SReg) (n : Fin 64) (s : State) : Host.Outcome State Fault Refusal :=
  s.scalarOp (.shlImm d a n) 1 d (s.rdS 0 a <<< n.val)
def execShrImm (d a : SReg) (n : Fin 64) (s : State) : Host.Outcome State Fault Refusal :=
  s.scalarOp (.shrImm d a n) 1 d (s.rdS 0 a >>> n.val)
def execSarImm (d a : SReg) (n : Fin 64) (s : State) : Host.Outcome State Fault Refusal :=
  s.scalarOp (.sarImm d a n) 1 d ((s.rdS 0 a).sshiftRight n.val)
def execRotlImm (d a : SReg) (n : Fin 64) (s : State) : Host.Outcome State Fault Refusal :=
  s.scalarOp (.rotlImm d a n) 1 d ((s.rdS 0 a).rotateLeft n.val)
def execLi (d : SReg) (imm : BitVec 20) (s : State) : Host.Outcome State Fault Refusal :=
  s.scalarOp (.li d imm) 1 d (imm.signExtend 64)
/-- LUI replaces half-word q of d (R175). -/
def execLui (d : SReg) (q : Fin 4) (imm : BitVec 16) (s : State) : Host.Outcome State Fault Refusal :=
  s.scalarOp (.lui d q imm) 1 d (insertField (s.rdS 0 d) (imm.zeroExtend 64) (16 * q.val) 16)
def execBext (d a : SReg) (pos lenM1 : Fin 64) (s : State) : Host.Outcome State Fault Refusal :=
  s.scalarOp (.bext d a pos lenM1) 1 d (bitField (s.rdS 0 a) pos.val (lenM1.val + 1))
def execBins (d a : SReg) (pos lenM1 : Fin 64) (s : State) : Host.Outcome State Fault Refusal :=
  s.scalarOp (.bins d a pos lenM1) 1 d (insertField (s.rdS 0 d) (s.rdS 1 a) pos.val (lenM1.val + 1))

/-! ## Special registers (R161 to R170) -/

/-- What MOVS reads of a special register at this tempo (R161, R162, R167, R169). -/
def State.sprRead (s : State) (c : CtxId) : Spr → Word
  | .tempo => BitVec.ofNat 64 s.tempo
  | .ttempo => BitVec.ofNat 64 (s.ttempo c)
  | .lidx => (s.ctx c).spr.lidx.zeroExtend 64
  | .gsize => (s.ctx c).spr.gsize.zeroExtend 64
  | .tile i => ((s.ctx c).spr.tile[i]).zeroExtend 64
  | .taskn => (s.ctx c).spr.taskn
  | .phase => BitVec.ofNat 64 ((s.ttempo c + (s.ctx c).spr.lidx.toNat) % 32)
  | .pcid => BitVec.ofNat 64 ((dieOf (coreOf c)).val * 64 + (s.core (coreOf c)).phys.val)
  | .tags => (s.ctx c).spr.tags
  | .xst t => ((s.ctx c).spr.xst[t]).zeroExtend 64
  | .csw => (s.ctx c).ctl.csw
  | .nfmtV => ((s.ctx c).nfmtVNow).zeroExtend 64
  | .nfmtM => ((s.ctx c).nfmtMNow).zeroExtend 64
  | .amax => ((s.ctx c).spr.amax).zeroExtend 64
  | .fps => ((s.ctx c).spr.fps).zeroExtend 64
  | .lix n => (s.ctx c).ctl.lix[n]
  | .lct n => (s.ctx c).ctl.lct[n]
  | .lsd n => (s.ctx c).ctl.lsd[n]
  | .asid => (s.ctx c).spr.asid.zeroExtend 64
  | .gen => (s.ctx c).spr.gen.zeroExtend 64
  | .frec =>
    match (s.ctx c).forCtx with
    | some t => BitVec.ofNat 64 (s.framePA t)
    | none => 0

/-- The kernel that the context runs as primary or secondary is placement-invariant (R168). -/
def State.pinvOf (s : State) (c : CtxId) : Bool :=
  match s.gangOf c with
  | some g => g.kernel.pinv && (s.ctx c).ctl.kind != .second
  | none => false

/-- MOVS (R162, R168): FREC outside a second raises PRIV; PCID in a placement-invariant kernel raises PLACE. SRV and SRES
read 0 in a running context (R167); a ctl instruction of the same bundle does not show (R34). -/
def execMovs (d : SReg) (r : Spr) (s : State) : Host.Outcome State Fault Refusal :=
  let c := s.iss.ctx
  if r = .frec ∧ s.ic.ctl.kind ≠ .second then .next (s.fault { cause := 0x03, detail := 1 })
  else .next (s.scored (.movs d r) 2 fun s =>
    if r = .pcid ∧ s.pinvOf c = true then s.fault { cause := 0x60, detail := 0 }
    else
      let k := s.iss.before.getD s.ic.ctl
      let v := match r with
        | .csw => ({ k with srv := false, sres := 0 } : Ctl).csw
        | .lix n => k.lix[n]
        | r => s.sprRead c r
      s.land 2 (.s d s.sProd v))

/-- Let a write of NFMT.V or NFMT.M pend (R108). -/
def State.pendNfmt (s : State) (toM : Bool) (v : BitVec 6) : State :=
  s.mapCtx s.iss.ctx fun x =>
    { x with spr := { x.spr with nfmtPend := x.spr.nfmtPend ++ [{ toM := toM, value := v, left := 3 }] } }

/-- MOVT lands 2 tempo later, NFMT.V and NFMT.M under R108; a write of NFMT.V out of range raises FMT (R105, R163). -/
def execMovt (s1 : SReg) (r : Spr) (s : State) : Host.Outcome State Fault Refusal :=
  .next (s.scored (.movt s1 r) 2 fun s =>
    let v := s.rdS 0 s1
    match r with
    | .nfmtV =>
      if NarrowFmt.legal (v.truncate 6) then s.pendNfmt false (v.truncate 6)
      else s.fault { cause := 0x15, detail := 1 }
    | .nfmtM => s.pendNfmt true (v.truncate 3 |>.zeroExtend 6)
    | _ => s.land 2 (.spr r v))

/-- STG writes a staging register 1 tempo later (R178). -/
def execStg (a : SReg) (g : Fin 24) (s : State) : Host.Outcome State Fault Refusal :=
  .next (s.scored (.stg a g) 1 fun s => s.land 1 (.stg g (s.rdS 0 a)))

/-! ## The effect of a landing (R42, R49, R102, R163 to R165) -/

/-- Write a special register as MOVT does when it lands (R163 to R166). -/
def Ctx.sprLand (x : Ctx) (r : Spr) (v : Word) : Ctx :=
  match r with
  | .tags => { x with spr := { x.spr with tags := x.spr.tags &&& ~~~v } }
  | .fps => { x with spr := { x.spr with fps := x.spr.fps &&& ~~~(v.truncate 7) } }
  | .csw => { x with ctl := { x.ctl with schk := v.getLsbD 4 } }
  | .amax => { x with spr := { x.spr with amax := v.truncate 32 } }
  | .lct n => { x with ctl := { x.ctl with lct := x.ctl.lct.set n v } }
  | .lsd n => { x with ctl := { x.ctl with lsd := x.ctl.lsd.set n v } }
  | _ => x

/-- The AMAX update of a landing: a candidate above the magnitude of AMAX, or above a NaN, replaces it (R288). -/
def amaxOf (old cand : BitVec 32) : BitVec 32 :=
  let mag := old &&& 0x7FFFFFFF
  if (0x7F800000 : BitVec 32).ult mag || mag.ult cand then cand else old

/-- A staging register keeps the fields that MSA, MSB, MSK and MST have; their reserved bits read as 0 (R6, R178, R295). -/
def stgMask (g : Fin 24) (v : Word) : Word :=
  if g.val < 16 then v
  else if g.val % 4 < 2 then v &&& 0xFFFFFFFFFFF
  else if g.val % 4 = 2 then v &&& 0x1FFC3FFF
  else v &&& 0xFFFFFFFF

/-- A result lands in its context (R42, R49). -/
def Ctx.landed (x : Ctx) : LandWhat → Ctx
  | .s d into val =>
    let r := x.regs.setS d val
    { x with regs := match into with | some e => r.pushS e val | none => r }
  | .v ds into =>
    let r := ds.foldl (fun r d => r.setV d.1 d.2) x.regs
    { x with regs := match into, ds with | some e, d :: _ => r.pushV e d.2 | _, _ => r }
  | .p m val => { x with regs := x.regs.setP m val }
  | .spr r val => x.sprLand r val
  | .stg g val => { x with regs := { x.regs with g := x.regs.g.set g (stgMask g val) } }
  | .fps flags => { x with spr := { x.spr with fps := x.spr.fps ||| flags } }
  | .amax cand nan =>
    { x with spr := { x.spr with
        amax := match cand with | some v => amaxOf x.spr.amax v | none => x.spr.amax
        fps := if nan then x.spr.fps ||| BitVec.ofNat 7 flagNANSEEN else x.spr.fps } }
  | _ => x

end Sys2Proof.Machine
end

