-- ==== Sys2Proof/Machine/MemoryAccess.lean ====
section
/-! DEFINITION. The mem slot: fixed and elastic loads, stores, vector forms, atomics, ordered atomics, FENCE and block tags (07 R181
to R212, 08 R221 to R237), and the events that perform them. -/

namespace Sys2Proof.Machine

/-! ## Keys and results of accesses -/

/-- The access with its key moved by a function. -/
def AccOp.mapKey (f : Nat → Nat) : AccOp → AccOp
  | .load k n sx d => .load (f k) n sx d
  | .store k n v => .store (f k) n v
  | .vload k d => .vload (f k) d
  | .vstore k v m => .vstore (f k) v m
  | .gather e ks d => .gather e (ks.map fun k => k.map f) d
  | .scatter e is => .scatter e (is.map fun i => (f i.1, i.2))
  | .atom k o t x e d => .atom (f k) o t x e d
  | .aord k fl n c x => .aord (f k) fl n c x
  | .tagRead b d => .tagRead (f b) d
  | .tagWrite b v => .tagWrite (f b) v

/-- The bytes that an access reads or writes, as memory keys; a tag stands for its block (R21, R197). -/
def AccOp.touched : AccOp → List (Nat × Nat)
  | .load k n _ _ => [(k, k + n - 1)]
  | .store k n _ => [(k, k + n - 1)]
  | .vload k _ => [(k, k + 511)]
  | .vstore k _ m => (List.range 16).filterMap fun j =>
      if m.toNat / 2 ^ (256 * j) % 2 ^ 256 = 0 then none else some (k + 32 * j, k + 32 * j + 31)
  | .gather e ks _ => ks.filterMap fun k => k.map fun a => (a, a + e - 1)
  | .scatter e is => is.map fun i => (i.1, i.1 + e - 1)
  | .atom k _ t _ _ _ => [(k, k + t.bytes - 1)]
  | .aord k fl _ _ _ => [(k, k + (if fl then 3 else 7))]
  | .tagRead b _ => [(b, b + 63)]
  | .tagWrite b _ => [(b, b + 63)]

/-- Whether the access reads and writes, as the guard and FENCE class it (R233, R234). -/
def AccOp.kind : AccOp → AccessKind
  | .load .. | .vload .. | .gather .. | .tagRead .. => { rd := true, wr := false }
  | .store .. | .vstore .. | .scatter .. | .tagWrite .. | .aord .. => { rd := false, wr := true }
  | .atom .. => { rd := true, wr := true }

/-- A loaded value extended to 64 bits (R199). -/
def extendLoad (n : Nat) (sx : Bool) (v : Nat) : Word :=
  if sx then BitVec.ofInt 64 (BitVec.ofNat (8 * n) v).toInt else BitVec.ofNat 64 v

/-- The FP32 sum of an atomic: RNE, subnormals kept, one NaN (R205). -/
def atomAdd32 (a b : Nat) : Nat :=
  (FloatFmt.deliver .fp32 .rne .dflt (fAdd (FloatFmt.decode .fp32 a) (FloatFmt.decode .fp32 b)).1).1

/-- The new value of an atomic's word (R205). -/
def atomApply (o : AOp) (t : AType) (old x expected : Nat) : Nat :=
  let w := 8 * t.bytes
  let sg (v : Nat) : Int := (BitVec.ofNat w v).toInt
  let x := x % 2 ^ w
  match o, t with
  | .add, .fp32 => atomAdd32 old x
  | .add, _ => (old + x) % 2 ^ w
  | .min, .fp32 => FloatFmt.minMax .fp32 false old x
  | .max, .fp32 => FloatFmt.minMax .fp32 true old x
  | .min, _ => if sg x < sg old then x else old
  | .max, _ => if sg old < sg x then x else old
  | .xch, _ => x
  | .and, _ => old &&& x
  | .or, _ => old ||| x
  | .cas, _ => if old = expected % 2 ^ w then x else old

/-- The old value as an atomic returns it (R205). -/
def atomResult (t : AType) (old : Nat) : Word :=
  match t with
  | .i32 => BitVec.ofInt 64 (BitVec.ofNat 32 old).toInt
  | _ => BitVec.ofNat 64 old

/-- The bytes of a gathered vector (R202). -/
def gatherValue (m : Memory) (esz : Nat) (keys : List (Option Nat)) : Nat :=
  (keys.zipIdx).foldl (fun acc ki =>
    match ki.1 with
    | some k => acc + readN m k esz * 2 ^ (8 * esz * ki.2)
    | none => acc) 0

/-- What an access does to memory and tags at its home point, and the value it reads (R222). -/
def AccOp.perform (m : Memory) (tags : Assoc (BitVec 16)) : AccOp → Memory × Assoc (BitVec 16) × Nat
  | .load k n _ _ => (m, tags, readN m k n)
  | .store k n v => (writeN m k n v, tags, 0)
  | .vload k _ => (m, tags, readN m k 512)
  | .vstore k v mask =>
    (writeN m k 512 ((readN m k 512 &&& (~~~mask).toNat) ||| (v &&& mask).toNat), tags, 0)
  | .gather e ks _ => (m, tags, gatherValue m e ks)
  | .scatter e is => (is.foldl (fun m i => writeN m i.1 e i.2) m, tags, 0)
  | .atom k o t x ex _ =>
    (writeN m k t.bytes (atomApply o t (readN m k t.bytes) x.toNat ex.toNat), tags, readN m k t.bytes)
  | .aord .. => (m, tags, 0)
  | .tagRead b _ => (m, tags, (lookupD 0 tags b).toNat)
  | .tagWrite b v => (m, setTagIn tags b v, 0)

/-- What lands of a value that a fixed-latency access read (R42, R199 to R205, R210). -/
def AccOp.landing (op : AccOp) (v : Nat) : Option LandWhat :=
  match op with
  | .load _ n sx d => some (.s d (some .ld) (extendLoad n sx v))
  | .vload _ d => some (.v [(d, BitVec.ofNat 4096 v)] (some .ld))
  | .gather _ _ d => some (.v [(d, BitVec.ofNat 4096 v)] (some .ld))
  | .atom _ _ t _ _ d => some (.s d (some .ld) (atomResult t v))
  | .tagRead _ d => some (.s d none (BitVec.ofNat 64 v))
  | _ => none

/-- Destination and value of an elastic access that has performed (R193). -/
def AccOp.elasticResult (op : AccOp) (v : Nat) : Option (SReg × Word) :=
  match op with
  | .load _ n sx d => some (d, extendLoad n sx v)
  | .atom _ _ t _ _ d => some (d, atomResult t v)
  | _ => none

/-! ## Completion tags (R193 to R195, R349) -/

/-- Write XST.t and set bit t of TAGS in one tempo (R193, R349). -/
def Ctx.setTag (x : Ctx) (t : Fin 64) (status : Nat) : Ctx :=
  { x with spr := { x.spr with
      tags := x.spr.tags ||| BitVec.ofNat 64 (2 ^ t.val)
      xst := x.spr.xst.set t (BitVec.ofNat 8 status) } }

def State.setTagOf (s : State) (c : CtxId) (t : Fin 64) (status : Nat) : State :=
  s.mapCtx c fun x => x.setTag t status

/-- Another elastic access of the context names the tag and has not completed (R194). -/
def Ctx.tagPending (x : Ctx) (t : Fin 64) : Bool :=
  x.elas.any (fun e => e.tag == t) || x.acc.any (fun a => a.tag == some t)
    || x.pend.any fun l => match l.what with | .tag u _ _ => u == t | _ => false

/-- An elastic result enters its register, unless one issued later has entered it in this tempo (R49). -/
def Ctx.putResult (x : Ctx) (now : Nat) (d : SReg) (v : Word) (issued : Nat) : Ctx :=
  let old := if x.wrote.1 = now then x.wrote.2 else []
  if old.any fun w => decide (issued < w.1) && w.2 == d then x
  else { x with regs := x.regs.setS d v, wrote := (now, (issued, d) :: old) }

/-- An elastic access completes: with the last that names the tag, the destinations are written and the tag is set (R193 to
R195). -/
def Ctx.completeElastic (x : Ctx) (now : Nat) (d : Done) : Ctx :=
  let done := x.done ++ [d]
  if x.tagPending d.tag then { x with done := done }
  else
    let mine := done.filter fun e => e.tag == d.tag
    let y : Ctx := { x with done := done.filter fun e => e.tag != d.tag }
    (mine.foldl (fun y e => match e.reg, e.val with | some r, some v => y.putResult now r v e.issued | _, _ => y) y).setTag d.tag
      (if mine.any (·.lost) then 0x20 else 0)

/-! ## Committing an access -/

/-- Elastic accesses of a context in flight (R196). -/
def Ctx.elasticCount (x : Ctx) : Nat :=
  x.elas.length + (x.acc.filter fun a => a.tag.isSome).length
    + (x.pend.filter fun l => match l.what with | .tag .. => true | _ => false).length

/-- The tempo at which an access to shared scratch that issues now performs, before displacement by the other context
(R187). -/
def State.planShared (s : State) (c : CtxId) (o n : Nat) : Nat :=
  let banks := banksOf o n
  let lb := (s.ctx c).acc.foldl (fun t a => if a.banks &&& banks != 0 then max t (a.due + 1) else t) (s.tempo + 6)
  let core := (localOf (coreOf c)).val
  lb + (subBankOf o + 64 - (lb + core) % 32) % 32

/-- Where a core access goes: local, with window, key, perform tempo, banks and sub-bank, or translated. -/
structure Place where
  win : Window
  key : Nat
  due : Nat
  lat : Nat
  banks : BitVec 32
  sub : Nat
  deriving DecidableEq, Repr

/-- Window and alignment of an access at issue (R182, R186, R200, R212): a local place, or none for the translated space, or a
fault. `elastic` admits the translated space; `lat` is the landing distance in the core scratchpad. -/
def State.placeOf (s : State) (c : CtxId) (a : Word) (n align : Nat) (elastic : Bool) (lat : Nat) :
    Except FaultInfo (Option Place) :=
  match windowOf a with
  | .error d => .error (addrFault d a)
  | .ok .xlate =>
    if !elastic then .error (addrFault 3 a)
    else if a.toNat % align ≠ 0 then .error (alignFault a)
    else .ok none
  | .ok (.scratch o) =>
    if a.toNat % align ≠ 0 then .error (alignFault a)
    else .ok (some { win := .scratch (coreOf c), key := keyScratch (coreOf c) o, due := s.tempo + 2, lat := lat,
                     banks := 0, sub := 0 })
  | .ok (.shared o) =>
    if a.toNat % align ≠ 0 then .error (alignFault a)
    else if (s.rowsOf c).2 ≤ o / 16384 then .error (addrFault 4 a)
    else .ok (some { win := .shared (coreOf c), key := s.sharedKey c (coreOf c) o, due := s.planShared c o n, lat := 4,
                     banks := banksOf o n, sub := subBankOf o })

/-- A tag that a command of the footprint table holds is refused to a memory access (R350). -/
def State.tagHeld (s : State) (c : CtxId) (t : Fin 64) : Bool := (s.cmdsOf c).any fun m => m.tag == t

/-- The first flaw of a list of sector ranges (R233, R307). -/
def State.racesOf (s : State) (c : CtxId) (w : Window) (k : AccessKind) : List (Nat × Nat) → Option FaultInfo
  | [] => none
  | (lo, hi) :: rest =>
    match s.raceFlaw c w lo hi k (BitVec.ofNat 64 lo) with
    | some f => some f
    | none => s.racesOf c w k rest

/-- A memory access at the issue point: where it goes, its tag, the bytes it touches, the operation with the address in place
of the key, and the values read at issue (R413). -/
structure MemReq where
  addr : Word
  bytes : Nat
  align : Nat
  tag : Option (Fin 64)
  lat : Nat
  spans : List (Nat × Nat)
  op : AccOp
  ops : List Word

/-- Commit an elastic access to the translated space (R193, R224). -/
def State.commitElastic (s : State) (r : MemReq) (t : Fin 64) : State :=
  let c := s.iss.ctx
  let id := s.fresh
  let e : Elastic :=
    { id := id, pc := s.iss.pc, tag := t, issued := s.tempo, va := r.addr, ops := r.ops, op := r.op, bytes := r.bytes,
      stopped := false, banked := false, tgt := none }
  let s1 := (s.mapCtx c fun x => { x with elas := x.elas ++ [e] }).bump
  match r.op with
  | .aord .. => s1.later 1 (.orderedAtomicArrival c id)
  | _ => s1.later 1 (.elasticAccessComplete c id false)

/-- A core access, after the operands are read: the checks of R212 and R350 in order, then the commit. -/
def State.memAccess (s : State) (i : Instr) (r : MemReq) : State :=
  let c := s.iss.ctx
  let k := r.op.kind
  match s.placeOf c r.addr r.bytes r.align r.tag.isSome r.lat with
  | .error f => s.scored i (if r.tag.isSome then elasticLat else r.lat + 2) fun s => s.fault f
  | .ok place =>
    let lat := match place, r.tag with
      | some p, t => s.ic.tagLands (p.due + p.lat) t - s.tempo
      | none, some _ => elasticLat
      | none, none => 0
    s.scored i lat fun s =>
      let win := match place with | some p => p.win | none => .virt s.ic.spr.asid
      if (match r.tag with | some t => s.tagHeld c t | none => false) then
        s.fault { cause := 0x14, detail := 8, faddr := r.addr }
      else match s.racesOf c win k r.spans with
        | some f => s.fault { f with faddr := r.addr }
        | none =>
          if r.tag.isSome && decide (128 ≤ s.ic.elasticCount) && (s.fixedOf c).isSome then
            s.fault { cause := 0x20, detail := 3, faddr := r.addr }
          else match place, r.tag with
            | none, some t => s.commitElastic r t
            | none, none => s
            | some p, tag =>
              s.mapCtx c fun x =>
                { x with acc := x.acc ++
                  [{ due := p.due, lat := p.lat, issued := s.tempo, banks := p.banks, sub := p.sub, tag := tag,
                     op := r.op.mapKey fun a => a - r.addr.toNat + p.key, pc := s.iss.pc, va := r.addr, ops := r.ops, discard := false }] }

/-! ## Scalar loads and stores (R198 to R200) -/

/-- A scalar load or store of n bytes. -/
def scalarReq (addr : Word) (n : Nat) (tag : Option (Fin 64)) (op : AccOp) (ops : List Word) : MemReq :=
  { addr := addr, bytes := n, align := n, tag := tag, lat := 2, spans := [(addr.toNat, addr.toNat + n - 1)], op := op,
    ops := ops }

/-- base + sext(off) × unit, modulo 2^64 (R181). -/
def offsetAddr {w : Nat} (base : Word) (off : BitVec w) (unit : Nat) : Word :=
  BitVec.ofInt 64 (base.toNat + off.toInt * unit)

def execLd (v base : SReg) (z : Size) (x : Bool) (off : BitVec 10) (s : State) : Host.Outcome State Fault Refusal :=
  let b := s.rdS 0 base
  let a := offsetAddr b off z.bytes
  .next (s.memAccess (.ld v base z x off) (scalarReq a z.bytes none (.load a.toNat z.bytes x v) [b]))

def execSt (v base : SReg) (z : Size) (off : BitVec 10) (s : State) : Host.Outcome State Fault Refusal :=
  let d := s.rdS 0 v
  let b := s.rdS 1 base
  let a := offsetAddr b off z.bytes
  .next (s.memAccess (.st v base z off) (scalarReq a z.bytes none (.store a.toNat z.bytes d.toNat) [d, b]))

def execLde (v base : SReg) (z : Size) (x : Bool) (t : Fin 64) (s : State) : Host.Outcome State Fault Refusal :=
  let a := s.rdS 0 base
  .next (s.memAccess (.lde v base z x t) (scalarReq a z.bytes (some t) (.load a.toNat z.bytes x v) [a]))

def execSte (v base : SReg) (z : Size) (t : Fin 64) (s : State) : Host.Outcome State Fault Refusal :=
  let d := s.rdS 0 v
  let a := s.rdS 1 base
  .next (s.memAccess (.ste v base z t) (scalarReq a z.bytes (some t) (.store a.toNat z.bytes d.toNat) [d, a]))

/-! ## Vector loads and stores (R201 to R203) -/

def execVld (v : VReg) (base : SReg) (off : BitVec 9) (s : State) : Host.Outcome State Fault Refusal :=
  let b := s.rdS 0 base
  let a := offsetAddr b off 512
  .next (s.memAccess (.vld v base off)
    { addr := a, bytes := 512, align := 512, tag := none, lat := 2, spans := [(a.toNat, a.toNat + 511)],
      op := .vload a.toNat v, ops := [b] })

/-- The bits of a vector register that a predicate selects, by element size (R201). -/
def predMask (bits : Nat) (p : PWord) : VWord :=
  BitVec.ofNat 4096 (lanes (fun i => if p.getLsbD i then 2 ^ bits - 1 else 0) bits (laneDepth bits) 0)

/-- The sectors of a 512-byte store that the mask touches. -/
def maskSpans (a : Nat) (mask : VWord) : List (Nat × Nat) :=
  (List.range 16).filterMap fun k =>
    if mask.toNat / 2 ^ (256 * k) % 2 ^ 256 = 0 then none else some (a + 32 * k, a + 32 * k + 31)

def execVst (v : VReg) (base : SReg) (m : Fin 8) (e : ESize) (off : BitVec 9) (s : State) :
    Host.Outcome State Fault Refusal :=
  let d := s.rdV 0 e.bits v
  let b := s.rdS 1 base
  let mask := predMask e.bits (s.rdP 2 m)
  let a := offsetAddr b off 512
  .next (s.memAccess (.vst v base m e off)
    { addr := a, bytes := 512, align := 512, tag := none, lat := 2, spans := maskSpans a.toNat mask,
      op := .vstore a.toNat d mask, ops := [] })

/-- Element addresses of a gather or scatter: one of each of the 128 lanes (R202). -/
def laneAddrs (base : Word) (idx : VWord) (p : PWord) (n : Nat) : List (Option Nat) :=
  (List.range 128).map fun j =>
    if p.getLsbD j then some ((base.toNat + lane idx.toNat 32 j * n) % 2 ^ 64) else none

/-- The checks of a gather or scatter before R233 (R202, R203, R212). -/
def gatherFlaw (base : Word) (n : Nat) (addrs : List (Option Nat)) : Option FaultInfo :=
  match windowOf base with
  | .error d => some (addrFault d base)
  | .ok (.scratch _) =>
    if base.toNat % n ≠ 0 then some (alignFault base)
    else match addrs.filterMap id |>.find? (fun a => 0x3FFFFF < a) with
      | some a => some (addrFault 4 (BitVec.ofNat 64 a))
      | none => none
  | .ok _ => some (addrFault 5 base)

/-- A gather or scatter at the issue point (R202, R203). -/
def State.gatherAccess (s : State) (i : Instr) (base : Word) (n : Nat) (addrs : List (Option Nat)) (op : AccOp) : State :=
  let c := s.iss.ctx
  s.scored i 6 fun s =>
    match gatherFlaw base n addrs with
    | some f => s.fault f
    | none =>
      let spans := (addrs.filterMap id).map fun a => (a, a + n - 1)
      match s.racesOf c (.scratch (coreOf c)) op.kind spans with
      | some f => s.fault f
      | none =>
        s.mapCtx c fun x =>
          { x with acc := x.acc ++
            [{ due := s.tempo + 2, lat := 4, issued := s.tempo, banks := 0, sub := 0, tag := none,
               op := op.mapKey (keyScratch (coreOf c)), pc := s.iss.pc, va := base, ops := [], discard := false }] }

def execVgth (v : VReg) (base : SReg) (i : VReg) (m : Fin 8) (e : ESize) (s : State) :
    Host.Outcome State Fault Refusal :=
  let b := s.rdS 0 base
  let n := e.bits / 8
  let addrs := laneAddrs b (s.rdV 1 e.bits i) (s.rdP 2 m) n
  .next (s.gatherAccess (.vgth v base i m e) b n addrs (.gather n addrs v))

def execVsct (v : VReg) (base : SReg) (i : VReg) (m : Fin 8) (e : ESize) (s : State) :
    Host.Outcome State Fault Refusal :=
  let d := s.rdV 0 e.bits v
  let b := s.rdS 1 base
  let n := e.bits / 8
  let addrs := laneAddrs b (s.rdV 2 e.bits i) (s.rdP 3 m) n
  let items := (addrs.zipIdx).filterMap fun ai => ai.1.map fun a => (a, lane d.toNat e.bits ai.2)
  .next (s.gatherAccess (.vsct v base i m e) b n addrs (.scatter n items))

/-! ## Atomics (R204 to R206) -/

/-- An atomic at the issue point. -/
def State.atomic (s : State) (i : Instr) (o : AOp) (d : SReg) (b x ex : Word) (ty : AType) (t : Option (Fin 64))
    (ops : List Word) : Host.Outcome State Fault Refusal :=
  .next (s.memAccess i (scalarReq b ty.bytes t (.atom b.toNat o ty x ex d) ops))

def execAadd (d base val : SReg) (ty : AType) (s : State) : Host.Outcome State Fault Refusal :=
  s.atomic (.aadd d base val ty) .add d (s.rdS 0 base) (s.rdS 1 val) 0 ty none [s.rdS 0 base, s.rdS 1 val]
def execAmin (d base val : SReg) (ty : AType) (s : State) : Host.Outcome State Fault Refusal :=
  s.atomic (.amin d base val ty) .min d (s.rdS 0 base) (s.rdS 1 val) 0 ty none [s.rdS 0 base, s.rdS 1 val]
def execAmax (d base val : SReg) (ty : AType) (s : State) : Host.Outcome State Fault Refusal :=
  s.atomic (.amax d base val ty) .max d (s.rdS 0 base) (s.rdS 1 val) 0 ty none [s.rdS 0 base, s.rdS 1 val]
def execAxch (d base val : SReg) (ty : AType) (s : State) : Host.Outcome State Fault Refusal :=
  s.atomic (.axch d base val ty) .xch d (s.rdS 0 base) (s.rdS 1 val) 0 ty none [s.rdS 0 base, s.rdS 1 val]
def execAand (d base val : SReg) (ty : AType) (s : State) : Host.Outcome State Fault Refusal :=
  s.atomic (.aand d base val ty) .and d (s.rdS 0 base) (s.rdS 1 val) 0 ty none [s.rdS 0 base, s.rdS 1 val]
def execAor (d base val : SReg) (ty : AType) (s : State) : Host.Outcome State Fault Refusal :=
  s.atomic (.aor d base val ty) .or d (s.rdS 0 base) (s.rdS 1 val) 0 ty none [s.rdS 0 base, s.rdS 1 val]
/-- ACAS reads d at issue as the expected value (R205). -/
def execAcas (d base val : SReg) (ty : AType) (s : State) : Host.Outcome State Fault Refusal :=
  s.atomic (.acas d base val ty) .cas d (s.rdS 1 base) (s.rdS 2 val) (s.rdS 0 d) ty none
    [s.rdS 0 d, s.rdS 1 base, s.rdS 2 val]

def execAaddE (d base val : SReg) (t : Fin 64) (ty : AType) (s : State) : Host.Outcome State Fault Refusal :=
  s.atomic (.aaddE d base val t ty) .add d (s.rdS 0 base) (s.rdS 1 val) 0 ty (some t) [s.rdS 0 base, s.rdS 1 val]
def execAminE (d base val : SReg) (t : Fin 64) (ty : AType) (s : State) : Host.Outcome State Fault Refusal :=
  s.atomic (.aminE d base val t ty) .min d (s.rdS 0 base) (s.rdS 1 val) 0 ty (some t) [s.rdS 0 base, s.rdS 1 val]
def execAmaxE (d base val : SReg) (t : Fin 64) (ty : AType) (s : State) : Host.Outcome State Fault Refusal :=
  s.atomic (.amaxE d base val t ty) .max d (s.rdS 0 base) (s.rdS 1 val) 0 ty (some t) [s.rdS 0 base, s.rdS 1 val]
def execAxchE (d base val : SReg) (t : Fin 64) (ty : AType) (s : State) : Host.Outcome State Fault Refusal :=
  s.atomic (.axchE d base val t ty) .xch d (s.rdS 0 base) (s.rdS 1 val) 0 ty (some t) [s.rdS 0 base, s.rdS 1 val]
def execAandE (d base val : SReg) (t : Fin 64) (ty : AType) (s : State) : Host.Outcome State Fault Refusal :=
  s.atomic (.aandE d base val t ty) .and d (s.rdS 0 base) (s.rdS 1 val) 0 ty (some t) [s.rdS 0 base, s.rdS 1 val]
def execAorE (d base val : SReg) (t : Fin 64) (ty : AType) (s : State) : Host.Outcome State Fault Refusal :=
  s.atomic (.aorE d base val t ty) .or d (s.rdS 0 base) (s.rdS 1 val) 0 ty (some t) [s.rdS 0 base, s.rdS 1 val]
def execAcasE (d base val : SReg) (t : Fin 64) (ty : AType) (s : State) : Host.Outcome State Fault Refusal :=
  s.atomic (.acasE d base val t ty) .cas d (s.rdS 1 base) (s.rdS 2 val) (s.rdS 0 d) ty (some t)
    [s.rdS 0 d, s.rdS 1 base, s.rdS 2 val]

/-! ## Ordered atomics (R207, R208) -/

/-- AORD commits a contribution; in the core scratchpad it raises ADDR, detail 0x05. -/
def execAord (q base val : SReg) (t : Fin 64) (fl : Bool) (s : State) : Host.Outcome State Fault Refusal :=
  let sq := s.rdS 0 q
  let b := s.rdS 1 base
  let x := s.rdS 2 val
  let n := if fl then 4 else 8
  let r := scalarReq b n (some t) (.aord b.toNat fl (sq.truncate 32) ((sq >>> 32).truncate 32) x) [sq, b, x]
  let i : Instr := .aord q base val t fl
  match windowOf b with
  | .ok (.scratch _) => .next (s.scored i elasticLat fun s => s.fault (addrFault 5 b))
  | .ok (.shared o) =>
    .next (s.scored i elasticLat fun s =>
      if b.toNat % n ≠ 0 then s.fault (alignFault b)
      else if (s.rowsOf s.iss.ctx).2 ≤ o / 16384 then s.fault (addrFault 4 b)
      else if s.tagHeld s.iss.ctx t then s.fault { cause := 0x14, detail := 8, faddr := b }
      else match s.racesOf s.iss.ctx (.shared (coreOf s.iss.ctx)) r.op.kind r.spans with
        | some f => s.fault f
        | none =>
          if decide (128 ≤ s.ic.elasticCount) && (s.fixedOf s.iss.ctx).isSome then
            s.fault { cause := 0x20, detail := 3, faddr := b }
          else s.commitElastic r t)
  | _ => .next (s.memAccess i r)

/-- Bank of a home point, for the ordered-atomic buffers (R186, R208, R492). -/
def bankOfKey (key : Nat) : Nat :=
  if key / 2 ^ 38 % 4 = 0 then (cachePlace 1 (key % 2 ^ 36 + key / 2 ^ 40 * 2 ^ 36)).1 else key / 16 % 32

/-- A deferred condition of context c (R197): it joins a record that is not yet written, or waits with the context; a
fixed-length gang is held from this tempo (R416). -/
def State.deferItem (s : State) (c : CtxId) (d : DefItem) : State :=
  (s.holdGang c s.tempo).mapCtx c fun x =>
    match x.frz with
    | some f =>
      if f.written || d.waits then { x with frz := some { f with late := f.late ++ [d] } }
      else if d.listed then { x with frz := some { f with items := f.items ++ [d] } }
      else x
    | none => { x with defer := x.defer ++ [d] }

/-- Change an elastic access of a context. -/
def State.mapElastic (s : State) (c : CtxId) (id : Nat) (f : Elastic → Elastic) : State :=
  s.mapCtx c fun x => { x with elas := x.elas.map fun y => if y.id = id then f y else y }

/-- Stop an elastic access with a condition (R197); reissued, it translates again (R220). -/
def State.stopElastic (s : State) (c : CtxId) (e : Elastic) (f : FaultInfo) : State :=
  let s0 := match f.place with | some b => s.healed b | none => s
  (s0.mapElastic c e.id fun y => { y with stopped := true, sent := false, tgt := none }).deferItem c
    { cause := f.cause, detail := f.detail, slot := 5, tag := e.tag.val, pc := e.pc, addr := f.faddr, ops := e.ops,
      what := .mem e.id, chain := 0xFF, link := 0xFF, aux := f.aux, place := f.place }

/-- Remove an elastic access and complete it (R193, R195). -/
def State.endElastic (s : State) (c : CtxId) (id : Nat) (val : Option Word) (lost : Bool) : State :=
  s.mapCtx c fun x =>
    match x.elas.find? fun e => e.id == id with
    | some e =>
      { x with elas := x.elas.filter fun y => y.id != id }.completeElastic s.tempo
        { tag := e.tag, reg := e.op.destS, val := if lost then none else val, issued := e.issued, lost := lost }
    | none => x

/-! ## Elastic accesses on their way (R10, R193 to R197, R206, R220, R391) -/

/-- What an elastic access needs of its page. -/
def AccOp.need (op : AccOp) : Need :=
  match op with
  | .atom .. | .aord .. => .atomic
  | .store .. => .write
  | _ => .read

/-- Atomics that PCI Express carries to host memory (R206). -/
def hostAtomic (o : AOp) (t : AType) : Bool :=
  match o, t with
  | .add, .i32 | .add, .i64 | .xch, _ | .cas, _ => true
  | _, _ => false

/-- A target that an access does not take once it has translated: an atomic that the host link does not carry, an ordered one outside
the device memory of the package (R206, R207). -/
def AccOp.refuses (op : AccOp) (t : Tgt) : Bool :=
  match op with
  | .atom _ o ty _ _ _ => t.host && !hostAtomic o ty
  | .aord .. => !t.dev
  | _ => false

/-- The home point of an elastic access, or a deferred fault; it translates once (R220). One that is reissued in a local window is
carried out there (R197). -/
def State.elasticHome (s : State) (c : CtxId) (e : Elastic) : Except FaultInfo Tgt :=
  match e.tgt, windowOf e.va with
  | some t, _ => .ok (s.freshKey t)
  | none, .ok (.scratch o) => .ok (localTgt (keyScratch (coreOf c) o))
  | none, .ok (.shared o) => .ok (localTgt (s.sharedKey c (coreOf c) o))
  | none, _ =>
    match s.translate (coreOf c) (s.ctx c).part (s.ctx c).spr.asid e.va e.op.need with
    | .error f => .error f
    | .ok t => if e.op.refuses t then .error (addrFault 5 e.va) else .ok t

/-- An elastic access has yet to walk the page tables. -/
def Elastic.walks (e : Elastic) : Bool :=
  e.tgt.isNone && match windowOf e.va with | .ok .xlate => true | _ => false

/-- An elastic access has passed translation: it completes on it (R217, R220). -/
def State.translated (s : State) (c : CtxId) (e : Elastic) (t : Tgt) : State :=
  if e.walks then
    (s.fillTlb (coreOf c) (s.ctx c).part (s.ctx c).spr.asid e.va).mapElastic c e.id fun y => { y with tgt := some t }
  else s

/-- The request of an elastic access to a home point at another die (R379). -/
def Elastic.packet (e : Elastic) (p : Packet) : Packet :=
  let q : Packet := { p with acc := some e.id }
  match e.op with
  | .load _ n _ _ => { q with kind := .read, len := n }
  | .store _ n v => { q with kind := .write, bytes := bytesOf v n, len := n }
  | .atom _ o ty x ex _ => { q with kind := .atomic, len := ty.bytes, atom := some (o, ty, x, ex) }
  | .aord _ fl n count x => { q with kind := .atomic, len := if fl then 4 else 8, aord := some (fl, n, count, x) }
  | _ => q

/-- An access to another die crosses the package ring as a packet (R10, R391). -/
def State.sendAccess (s : State) (c : CtxId) (e : Elastic) (t : Tgt) : State :=
  let p := s.newPacket c .read t none
  (s.mapElastic c e.id fun y => { y with sent := true, seq := p.seq }).sendPacket (e.packet p)

/-- An elastic access sets out: it walks where no TLB translates it, over the ring where a table stands at another die; at a home point of
its own die it does `here`, and else it sends its request. `again` is the event that tries again (R10, R195, R220). -/
def State.elasticGo (s : State) (c : CtxId) (e : Elastic) (again : Instr) (here : State → Tgt → State) : State :=
  let k := coreOf c
  let x := s.ctx c
  if e.walks && s.walkDead k x.part x.spr.asid e.va.toNat then
    (s.countSump (dieOf k) (dieOf k) .dead).endElastic c e.id none true
  else if e.walks && s.walkBlocked k x.part x.spr.asid e.va.toNat then s.later 1 again
  else
    match s.elasticHome c e with
    | .error f => s.stopElastic c e f
    | .ok t =>
      let s1 := s.translated c e t
      if dieOfTgt t = dieOf k then here s1 t else s1.sendAccess c e t

/-! ## At the home point (R197, R222, R242, R436, R495, R497, R523) -/

/-- What a home point says to an access: it may perform, waits, is lost with the host link, or is stopped by a condition. -/
inductive HomeSays
  | go
  | wait
  | lost
  | stop (f : FaultInfo)
  deriving DecidableEq, Repr

/-- The home point's answer to an access of n bytes of partition p at a virtual address; `wr` asks for room in the write queue. -/
def State.homeSays (s : State) (p : PartId) (t : Tgt) (n : Nat) (wr : Bool) (va : Word) : HomeSays :=
  if t.host && !s.pkg.linkUp then .lost
  else if s.keyLost t then .stop (protFault 4 va)
  else if s.untestable t.key n || (wr && s.queueFull p t) then .wait
  else
    match s.eccAt t.key (t.key + n - 1) with
    | some b => .stop (s.eccFault b va)
    | none => .go

/-- What an access leaves behind at a device target: the slice cache and the monitors (R493, R499). -/
def State.touchDev (s : State) (p : PartId) (asid : BitVec 14) (kind : Fin 4) (src : BitVec 12) (t : Tgt) : State :=
  if t.dev then (s.monitorFrom p asid kind src t.pa).cacheTouch p t (kind != 0) else s

/-- Perform an elastic access at its translated target, and the value read (R222). -/
def State.performAt (s : State) (c : CtxId) (t : Tgt) (op : AccOp) : State × Nat :=
  let p := (s.ctx c).part
  match op with
  | .load _ n _ _ => (s, s.readTgt t n)
  | .store _ n v => (s.writeTgt p c t n v (some op.kind), 0)
  | .atom _ o ty x ex _ =>
    let old := s.readTgt t ty.bytes
    (s.writeTgt p c t ty.bytes (atomApply o ty old x.toNat ex.toNat) (some op.kind), old)
  | _ => (s, 0)

def needKind : Need → Fin 4
  | .write => 1
  | .atomic => 2
  | _ => 0

/-- An elastic access performs at its home point and completes (R193, R222). -/
def State.performElastic (s : State) (c : CtxId) (e : Elastic) (t : Tgt) : State :=
  let x := s.ctx c
  let r := s.performAt c t e.op
  (r.1.drawn.touchDev x.part x.spr.asid (needKind e.op.need) 0 t).endElastic c e.id ((e.op.elasticResult r.2).map (·.2)) false

/-- AER reports an access to host memory that the host did not answer (R511, R523). -/
def State.aerLost (s : State) (t : Tgt) : State :=
  if t.host then { s with pkg := { s.pkg with aerErrors := s.pkg.aerErrors + 1 } } else s

/-- An elastic access is lost at its home point: whether a store or an atomic has performed is open (R195; log entry 47). -/
def State.loseAccess (s : State) (c : CtxId) (e : Elastic) (t : Tgt) : State :=
  let s1 := if e.op.need != .read && Config.freeBits s.draws 1011 % 2 == 1 then (s.performAt c t e.op).1 else s
  (s1.drawn.aerLost t).endElastic c e.id none true

/-- An elastic access at a home point of its own die. -/
def State.elasticHere (c : CtxId) (e : Elastic) (s : State) (t : Tgt) : State :=
  match s.homeSays (s.ctx c).part t e.bytes (e.op.need != .read) e.va with
  | .go => s.performElastic c e t
  | .wait => s.later 1 (.elasticAccessComplete c e.id false)
  | .lost => s.loseAccess c e t
  | .stop f => s.stopElastic c e f

/-- The elastic access of a context that an event is for: neither stopped nor held in a home bank. -/
def State.elastic? (s : State) (c : CtxId) (n : Nat) : Option Elastic :=
  (s.ctx c).elas.find? fun e => e.id == n && !e.stopped && !e.banked

/-- ELASTIC_ACCESS_COMPLETE: access n of context c sets out, performs, is stopped by a condition, or is lost (R193, R195, R197). One whose
request is on the ring ends with its answer. -/
def execElasticAccessComplete (c : CtxId) (n : Nat) (lost : Bool) (s : State) : Host.Outcome State Fault Refusal :=
  .next (
    match s.elastic? c n with
    | none => s
    | some e =>
      if lost then
        match e.sent, s.elasticHome c e with
        | false, .ok t => if s.homeSays (s.ctx c).part t e.bytes true e.va = .go then s.loseAccess c e t else s.endElastic c n none true
        | _, _ => s.endElastic c n none true
      else if e.sent then s
      else match e.op with
        | .aord .. => s
        | _ => s.elasticGo c e (.elasticAccessComplete c n false) (State.elasticHere c e))

/-! ## Ordered atomics at their home bank (R207, R208) -/

/-- The accesses of one word that an applied contribution adds (R207, R208). -/
def aordAdd (fl : Bool) (old x : Nat) : Nat := if fl then atomAdd32 old (x % 2 ^ 32) else (old + x) % 2 ^ 64

/-- Apply held contributions from `next` on, with fuel for the number held (R208). -/
def Stream.drain : Nat → Stream → Nat → Stream × Nat × List (CtxId × Nat)
  | 0, st, w => (st, w, [])
  | n + 1, st, w =>
    match st.held.find? fun h => h.1 == st.next with
    | none => (st, w, [])
    | some (k, x, c, id) =>
      let r := Stream.drain n { st with next := st.next + 1, held := st.held.filter fun h => h.1 != k } (aordAdd st.fl w x.toNat)
      (r.1, r.2.1, (c, id) :: r.2.2)

/-- An answer of a home point to an access of context c goes back over the ring, with the number of its request (R379). -/
def State.replyAccess (s : State) (home : DieId) (c : CtxId) (e : Elastic) : State :=
  let x := s.ctx c
  let p : Packet :=
    { s.newPacket c .atomicReply (e.tgt.getD (localTgt 0)) none with
      seq := e.seq, back := true, sinc := s.asidIncarn x.part x.spr.asid, dinc := x.incarn, srcDie := home, dstDie := dieOf (coreOf c),
      acc := some e.id }
  ({ s with packets := s.packets ++ [p], fresh := s.fresh + 1 } : State).later 1 (.packetInject p.id)

/-- An applied contribution ends its access: at its own die at once, elsewhere when the answer arrives. -/
def State.aordDone (s : State) (home : DieId) (c : CtxId) (id : Nat) : State :=
  match (s.ctx c).elas.find? fun e => e.id == id with
  | none => s
  | some e => if e.sent then s.replyAccess home c e else s.endElastic c id none false

/-- What a home bank makes of a contribution (R208). -/
inductive AordSays
  /-- no room: the issuing core retries -/
  | room
  /-- it waits for room in the write queue -/
  | wait
  /-- deferred ADDR, detail 0x07, with the streams as they are left -/
  | flaw (s : State)
  | done (s : State)

/-- A contribution of context c, under an ASID of a partition, reaches its home bank: held, applied with those that wait for it, or not
taken (R207, R208). Each counts in the monitors when it is applied (R224, R499). A context that has ended since belongs to no gang any
more (R432). -/
def State.aordBank (s : State) (p : PartId) (asid : BitVec 14) (c : CtxId) (id : Nat) (fl : Bool) (n count : BitVec 32) (x : Word)
    (t : Tgt) : AordSays :=
  let d := dieOfKey t.key
  let same (y : Stream) : Bool := y.part == p && y.asid == asid && y.key == t.key
  let bank := bankOfKey t.key
  let peers := (s.die d).streams.filter fun y => y.part == p && bankOfKey y.key == bank
  let waiting : Nat := peers.foldl (fun k y => k + y.held.length) 0
  let old? := (s.die d).streams.find? same
  let st : Stream := old?.getD
    { part := p, asid := asid, key := t.key, count := count, next := 0, held := [], fl := fl, gangs := [] }
  let rest := (s.die d).streams.filter fun y => !same y
  let bytes := if st.fl then 4 else 8
  if (old?.isNone && decide (32 ≤ peers.length)) || (n != st.next && st.next.ult n && n.ult st.count && decide (256 ≤ waiting)) then
    .room
  else if count != st.count || st.count.ule n || n.ult st.next || st.held.any (fun h => h.1 == n) then
    .flaw (s.mapDie d fun y => { y with streams := rest ++ [st] })
  else if n = st.next ∧ s.queueFull p t then .wait
  else
    let own := if (s.ctx c).elas.any (fun e => e.id == id) then (s.ctx c).gang.toList else []
    let st1 := { st with held := st.held ++ [(n, x, c, id)], gangs := (st.gangs ++ own).eraseDups }
    let r := Stream.drain st1.held.length st1 (s.readTgt t bytes)
    let s1 := s.mapDie d fun y => { y with streams := if r.1.next = r.1.count then rest else rest ++ [r.1] }
    let s2 := if r.2.2.isEmpty then s1 else
      let s2 := s1.writeTgt p c t bytes r.2.1 (some { rd := false, wr := true })
      if t.dev then s2.shareEntry p ((r.2.2.map (·.1)).filter fun d => d != c) else s2
    let s3 := s2.mapElastic c id fun z => { z with banked := true }
    .done (r.2.2.foldl (fun s a => (s.touchDev p asid 2 0 t).aordDone d a.1 a.2) s3)

/-- A contribution at a home bank of its own die. -/
def State.aordHere (c : CtxId) (e : Elastic) (fl : Bool) (n count : BitVec 32) (x : Word) (s : State) (t : Tgt) : State :=
  match s.homeSays (s.ctx c).part t (if fl then 4 else 8) false e.va with
  | .wait => s.later 1 (.orderedAtomicArrival c e.id)
  | .lost => s.endElastic c e.id none true
  | .stop f => s.stopElastic c e f
  | .go =>
    match s.aordBank (s.ctx c).part (s.ctx c).spr.asid c e.id fl n count x t with
    | .room => s.later 64 (.orderedAtomicArrival c e.id)
    | .wait => s.later 1 (.orderedAtomicArrival c e.id)
    | .flaw s1 => s1.stopElastic c e (addrFault 7 e.va)
    | .done s1 => s1

/-- ORDERED_ATOMIC_ARRIVAL of elastic access n of context c (R208). -/
def execOrderedAtomicArrival (c : CtxId) (n : Nat) (s : State) : Host.Outcome State Fault Refusal :=
  .next (
    match s.elastic? c n with
    | none => s
    | some e =>
      match e.op with
      | .aord _ fl k count x =>
        if e.sent then s else s.elasticGo c e (.orderedAtomicArrival c n) (State.aordHere c e fl k count x)
      | _ => s)

/-! ## Fixed-latency accesses perform (R185, R187, R224) -/

/-- An access reaches its perform tempo at tempo t; while its gang is held one of fixed latency is paused, and one that ends by a tag goes
on (R407). -/
def Access.now (a : Access) (t : Nat) (held : Bool) : Bool := a.due == t && (a.tag.isSome || !held)

/-- Accesses of a context that reach their perform tempo at tempo t, in issue order: which perform, the bank ports they take,
and the context's list afterwards, displaced ones moved on by 32 (R187). -/
def portPass (t : Nat) (held : Bool) : List Access → BitVec 32 → BitVec 32 → List Access × List Access × BitVec 32
  | [], taken, _ => ([], [], taken)
  | a :: rest, taken, blocked =>
    if a.now t held ∧ a.banks &&& (taken ||| blocked) = 0 then
      let r := portPass t held rest (taken ||| a.banks) blocked
      (a :: r.1, r.2.1, r.2.2)
    else
      let b := if a.now t held then { a with due := t + 32 } else a
      let r := portPass t held rest taken (blocked ||| a.banks)
      (r.1, b :: r.2.1, r.2.2)

/-- Enter the landing of an access that performs; in a frozen context its entry into a last-result pair is kept back (R407). -/
def Ctx.landAccess (x : Ctx) (l : Landing) : Ctx :=
  match x.frz with
  | none => { x with pend := x.pend ++ [l] }
  | some f =>
    { x with
      pend := x.pend ++ [{ l with what := l.what.plain }]
      frz := some { f with kept := f.kept ++ (l.what.keptPart.map fun w => { l with what := w }).toList } }

/-- An access meets a block with an uncorrectable error (R197): an elastic form waits to be reissued; of the others a load or an
atomic lands 0, a store writes nothing, and no item is listed. -/
def State.eccFixed (s : State) (c : CtxId) (a : Access) (b : Nat) : State :=
  let f := s.eccFault b a.va
  match a.tag with
  | some t =>
    let e : Elastic :=
      { id := s.fresh, pc := a.pc, tag := t, issued := a.issued, va := a.va, ops := a.ops,
        op := a.op.mapKey fun _ => a.va.toNat, bytes := (a.op.touched.map fun r => r.2 + 1 - r.1).foldl max 0,
        stopped := false, banked := false, tgt := none }
    (s.bump.mapCtx c fun x => { x with elas := x.elas ++ [e] }).stopElastic c e f
  | none =>
    let s1 := (s.healed b).deferItem c
      { cause := f.cause, detail := f.detail, slot := 0, tag := 0xFF, pc := a.pc, addr := f.faddr, ops := [], what := .none,
        chain := 0xFF, link := 0xFF, aux := f.aux, place := f.place }
    match a.op.landing 0 with
    | none => s1
    | some w =>
      s1.mapCtx c fun x => x.landAccess { due := s.tempo + a.lat, issued := a.issued, slot := 5, what := w }

/-- One access performs: memory and tags change, and its result is set to land (R185, R187, R224). -/
def State.performFixed (s : State) (c : CtxId) (a : Access) : State :=
 match s.eccIn a.op.touched with
 | some b => if a.discard then s else s.eccFixed c a b
 | none =>
  let s0 := a.op.touched.foldl (fun s r => s.fadeBanks r.1 (r.2 + 1 - r.1)) s
  let r := a.op.perform s0.mem s0.tags
  let s1 : State := { s0 with mem := r.1, tags := r.2.1 }
  let what : Option LandWhat :=
    match a.tag with
    | some t =>
      match a.op.elasticResult r.2.2 with
      | some (d, v) => some (.tag t (some d) v)
      | none => some (.tag t none 0)
    | none => a.op.landing r.2.2
  match (if a.discard then none else what) with
  | none => s1
  | some w =>
    s1.mapCtx c fun x => x.landAccess { due := s.tempo + a.lat, issued := a.issued, slot := 5, what := w }

/-- An access of context c performs now (R187, R407). -/
def State.performDue (s : State) (c : CtxId) : Bool := (s.ctx c).acc.any fun a => a.now s.tempo (s.heldCtx c)

/-- Banks of accesses that have the tempo and meet a shared bank under test (R436). -/
def State.testedBanks (s : State) (c : CtxId) : BitVec 32 :=
  (s.ctx c).acc.foldl (fun w a =>
    if a.now s.tempo (s.heldCtx c) && a.op.touched.any (fun r => s.untestable r.1 (r.2 + 1 - r.1)) then w ||| a.banks else w) 0

/-- FIXED_STORE_PERFORM: the accesses of context c that have the tempo perform, the earlier-issued first (R185, R187). While a bank
that one needs is tested, a fixed-length gang is held and any other access waits for the next rotation (R436). -/
def execFixedStorePerform (c : CtxId) (s : State) : Host.Outcome State Fault Refusal :=
  .next (if !s.performDue c then s
    else if (s.fixedOf c).isSome && s.testedBanks c != 0 then s.holdGang c s.tempo
    else
    let k := s.core (coreOf c)
    let taken := if k.ports.1 = s.tempo then k.ports.2 else 0
    let r := portPass s.tempo (s.heldCtx c) (s.ctx c).acc taken (s.testedBanks c)
    let s1 := (s.mapCtx c fun x => { x with acc := r.2.1 }).mapCore (coreOf c) fun k =>
      { k with ports := (s.tempo, r.2.2) }
    r.1.foldl (fun s a => s.performFixed c a) s1)

/-! ## Block tags (R210) -/

/-- A TAGR or TAGW at the issue point. -/
def State.tagAccess (s : State) (i : Instr) (a : Word) (op : AccOp) : State :=
  s.memAccess i
    { addr := a, bytes := 64, align := 64, tag := none, lat := 4, spans := [(a.toNat, a.toNat + 63)], op := op, ops := [] }

def execTagr (s1 base : SReg) (off : BitVec 10) (s : State) : Host.Outcome State Fault Refusal :=
  let a := offsetAddr (s.rdS 0 base) off 64
  .next (s.tagAccess (.tagr s1 base off) a (.tagRead a.toNat s1))

def execTagw (s1 base : SReg) (off : BitVec 10) (s : State) : Host.Outcome State Fault Refusal :=
  let v := s.rdS 0 s1
  let a := offsetAddr (s.rdS 1 base) off 64
  .next (s.tagAccess (.tagw s1 base off) a (.tagWrite a.toNat (v.truncate 16)))

/-! ## FENCE (R209, R219, R234 to R237) -/

/-- The home point of an elastic access, as far as a fence asks: 0 local, 1 the issuing die, 2 the package, 3 elsewhere
(R235). -/
def State.homeLevel (s : State) (c : CtxId) (e : Elastic) : Nat :=
  match windowOf e.va with
  | .ok .xlate =>
    match s.elasticHome c e with
    | .ok t => if t.dev then (if dieOfTgt t = dieOf (coreOf c) then 1 else 2) else 3
    | .error _ => 3
  | _ => 0

def FScope.level : FScope → Nat | .core => 0 | .clus => 1 | .die => 1 | .pkg => 2 | .sys => 3

/-- A fence of a kind counts an access. -/
def FKind.counts (k : FKind) (a : AccessKind) : Bool :=
  match k with
  | .st => a.wr
  | .ld => a.rd
  | .full => a.wr || a.rd

/-- Every access of the fence's set has reached the state of its scope (R234, R235). -/
def State.fenceMet (s : State) (c : CtxId) (sc : FScope) (k : FKind) : Bool :=
  let x := s.ctx c
  !(x.acc.any fun a => FKind.counts k a.op.kind)
    && !(x.elas.any fun e => !e.banked && FKind.counts k e.op.kind && decide (s.homeLevel c e ≤ FScope.level sc))
    && (sc != .sys || !((s.part x.part).wq.any fun w =>
        (w.ctx == c || w.also.contains c) && decide (s.tempo < w.drain) && (match w.kind with | some a => FKind.counts k a | none => false)))

/-! ## TLBI (R219) -/

/-- A TLB entry is one that a TLBI of partition p invalidates. -/
def TlbEntry.stale (e : TlbEntry) (p : PartId) (w : TlbiWhat) : Bool :=
  match w with
  | .all => e.part == p
  | .asid a => e.part == p && e.asid == a
  | .page a va => e.hits p a va.toNat

def dropTlb (p : PartId) (w : TlbiWhat) (l : List TlbEntry) : List TlbEntry := l.filter fun e => !e.stale p w

/-- Invalidate in the first-level TLB of one core. -/
def State.tlbCore (s : State) (p : PartId) (w : TlbiWhat) (k : CoreId) : State :=
  s.mapCore k fun c => { c with tlb := dropTlb p w c.tlb }

/-- Invalidate in the last-level TLB of one die. -/
def State.tlbDie (s : State) (p : PartId) (w : TlbiWhat) (d : DieId) : State :=
  s.mapDie d fun x => { x with tlb := dropTlb p w x.tlb }

/-- Invalidate in every core of the partition on the dies that a test selects, and in those dies. -/
def State.tlbWide (s : State) (p : PartId) (w : TlbiWhat) (sel : DieId → Bool) : State :=
  let s1 := ((s.part p).cores.filter fun k => sel (dieOf k)).foldl (fun s k => s.tlbCore p w k) s
  ((List.finRange 8).filter sel).foldl (fun s d => s.tlbDie p w d) s1

/-- A TLBI of the issuing context: complete for it at once, and for other cores at a later FENCE of PKG or SYS scope. -/
def State.tlbInvalidate (s : State) (w : TlbiWhat) (sc : TlbScope) : State :=
  let c := s.iss.ctx
  let p := s.ic.part
  let s1 := s.tlbCore p w (coreOf c)
  if sc = .core then s1
  else (s1.tlbDie p w (dieOf (coreOf c))).mapCtx c fun x => { x with tlbi := x.tlbi ++ [(w, sc)] }

/-- TLBI ALL: supervisor privilege only. -/
def execTlbiAll (s1 : SReg) (sc : TlbScope) (s : State) : Host.Outcome State Fault Refusal :=
  .next (
    if s.ic.ctl.kind ≠ .second then s.fault { cause := 0x03, detail := 1 }
    else s.scored (.tlbiAll s1 sc) 1 fun s => s.tlbInvalidate .all sc)

/-- TLBI ASID: at task privilege only the context's own ASID. -/
def execTlbiAsid (s1 : SReg) (sc : TlbScope) (s : State) : Host.Outcome State Fault Refusal :=
  .next (s.scored (.tlbiAsid s1 sc) 1 fun s =>
    let a : BitVec 14 := (s.rdS 0 s1).truncate 14
    if s.ic.ctl.kind ≠ .second ∧ a ≠ s.ic.spr.asid then s.fault { cause := 0x03, detail := 1 }
    else s.tlbInvalidate (.asid a) sc)

/-- TLBI PAGE: the context's translating ASID. -/
def execTlbiPage (s1 : SReg) (sc : TlbScope) (s : State) : Host.Outcome State Fault Refusal :=
  .next (s.scored (.tlbiPage s1 sc) 1 fun s => s.tlbInvalidate (.page s.ic.spr.asid (s.rdS 0 s1)) sc)

/-- The TLBIs of the issuing context complete on other cores (R209, R219). -/
def State.completeTlbis (s : State) : State :=
  let c := s.iss.ctx
  let p := s.ic.part
  let s1 := s.ic.tlbi.foldl (fun s w =>
    s.tlbWide p w.1 fun d => w.2 == .part || d == dieOf (coreOf c)) s
  s1.mapCtx c fun x => { x with tlbi := [] }

/-- FENCE issues once its set has reached its state; PKG and SYS then complete the TLBIs issued before it (R209, R219,
R236). -/
def execFence (sc : FScope) (_k : FKind) (s : State) : Host.Outcome State Fault Refusal :=
  .next (if FScope.level sc < 2 then s else s.completeTlbis)

/-! ## Landings (R49) -/

/-- Of two landings the first lands first: by tempo, then MOVT writes before the updates of the same tempo, then in issue order (R49,
R102, R165). -/
def Landing.before (a b : Landing) : Bool :=
  let spr (l : Landing) : Nat := match l.what with | .spr .. => 0 | _ => 1
  if a.due ≠ b.due then decide (a.due < b.due)
  else if spr a ≠ spr b then decide (spr a < spr b)
  else decide (a.issued ≤ b.issued)

/-- Put a landing in front of the first that does not come before it. -/
def landingPut (l : Landing) : List Landing → List Landing
  | [] => [l]
  | m :: rest => if l.before m then l :: m :: rest else m :: landingPut l rest

/-- One result lands; a scalar register keeps note of it for the elastic results of the tempo (R49). -/
def Ctx.landOne (t : Nat) (x : Ctx) (l : Landing) : Ctx :=
  match l.what with
  | .tag tg d v => x.completeElastic t { tag := tg, reg := d, val := d.map fun _ => v, issued := l.issued, lost := false }
  | .s d into v =>
    { x.landed (.s d into v) with wrote := (t, (l.issued, d) :: if x.wrote.1 = t then x.wrote.2 else []) }
  | w => x.landed w

/-- A landing is due at tempo t; of a paused member those alone that end by a tag (R407). -/
def Landing.dueAt (t : Nat) (paused : Bool) (l : Landing) : Bool := decide (l.due ≤ t) && (l.what.tag?.isSome || !paused)

/-- RESULT_LANDING of context c: what is due lands in order of tempo and issue (R42, R49, R102, R165). -/
def landAll (t : Nat) (paused : Bool) (x : Ctx) : Ctx :=
  let now := x.pend.filter (Landing.dueAt t paused)
  let y := { x with pend := x.pend.filter fun l => !l.dueAt t paused }
  (now.foldr landingPut []).foldl (Ctx.landOne t) y

end Sys2Proof.Machine
end

