-- ==== Sys2Proof/Machine/Vector.lean ====
section
/-! DEFINITION. The vector slots va and vb: arithmetic, comparison, movement, permutation, reduction, conversion, bit planes and
predicates (09 R244 to R274). -/

namespace Sys2Proof.Machine

/-! ## Elements -/

/-- Combine f over the 2^d indices from `lo` on. -/
def laneFold {α : Type} (op : α → α → α) (f : Nat → α) : Nat → Nat → α
  | 0, lo => f lo
  | d + 1, lo => op (laneFold op f d lo) (laneFold op f d (lo + 2 ^ d))

/-- Depth of the lane tree of a type (R65). -/
def typeDepth (t : VType) : Nat := laneDepth t.bits

/-- Element-wise results with their flags: the element function, the elements it governs, and the value of the others. -/
structure Lanes where
  /-- container width of the destination -/
  bits : Nat
  /-- element count is 2 to this -/
  depth : Nat
  value : Nat → Nat × Nat

/-- An inactive element takes the value of `other` and no flag (R245). -/
def masked (p : PWord) (other : Nat → Nat) (f : Nat → Nat × Nat) (j : Nat) : Nat × Nat :=
  if p.getLsbD j then f j else (other j, 0)

/-- The packed register of element-wise results. -/
def Lanes.pack (l : Lanes) : VWord := BitVec.ofNat 4096 (lanes (fun j => (l.value j).1) l.bits l.depth 0)

/-- The flags of element-wise results (R102). -/
def Lanes.flags (l : Lanes) : Nat := laneFlags (fun j => (l.value j).2) l.depth 0

/-- Let flags land with a result (R102). -/
def State.landFlags (s : State) (lat fl : Nat) : State := s.land lat (.fps (BitVec.ofNat 7 fl))

/-- Let a vector result and its flags land (R42, R102, R249). -/
def State.landLanes (s : State) (lat : Nat) (d : VReg) (l : Lanes) : State :=
  (s.land lat (.v [(d, l.pack)] s.vProd)).landFlags lat l.flags

/-- SCORE, then FMT for a form that reads N4 elements as numbers with WIDTH above 4 (R50, R104, R274). -/
def State.vecForm (s : State) (i : Instr) (lat : Nat) (numbers : List VType) (k : State → State) :
    Host.Outcome State Fault Refusal :=
  .next (s.scored i lat fun s =>
    if numbers.contains .n4 && decide (4 < (NarrowFmt.of s.ic.nfmtVNow).width) then
      s.fault { cause := 0x15, detail := 2 }
    else k s)

/-- The number format in effect for the bundle (R105, R108). -/
def State.nf (s : State) : NarrowFmt := NarrowFmt.of s.ic.nfmtVNow

/-! ## Arithmetic on one element (R251, R254, R255) -/

/-- A floating-point result rounded by RNE, with the flags of the operation (R251). -/
def floatOut (t : VType) (sat : SatMode) (r : FVal × Nat) : Nat × Nat :=
  let d := (FloatFmt.of t).deliver .rne sat r.1
  (d.1, d.2 ||| r.2)

/-- An element-wise operation by its exact integer and floating-point forms. -/
def arith2 (nf : NarrowFmt) (sat : SatMode) (t : VType) (fi : Int → Int → Int) (ff : FVal → FVal → FVal × Nat)
    (a b : Nat) : Nat × Nat :=
  if t.isFloat then floatOut t sat (ff ((FloatFmt.of t).decode a) ((FloatFmt.of t).decode b))
  else (writeNum nf t (fi (readNum nf t a) (readNum nf t b)), 0)

/-- A fused operation (R255). -/
def arith3 (nf : NarrowFmt) (sat : SatMode) (t : VType) (fi : Int → Int → Int → Int)
    (ff : FVal → FVal → FVal → FVal × Nat) (a b d : Nat) : Nat × Nat :=
  if t.isFloat then
    floatOut t sat (ff ((FloatFmt.of t).decode a) ((FloatFmt.of t).decode b) ((FloatFmt.of t).decode d))
  else (writeNum nf t (fi (readNum nf t a) (readNum nf t b) (readNum nf t d)), 0)

/-- VMIN and VMAX: an operand, with no flag (R254). -/
def minMax2 (nf : NarrowFmt) (t : VType) (isMax : Bool) (a b : Nat) : Nat :=
  if t.isFloat then (FloatFmt.of t).minMax isMax a b
  else
    let x := readNum nf t a
    let y := readNum nf t b
    writeNum nf t (if isMax then max x y else min x y)

/-- VABS and VNEG (R254). -/
def signOp (nf : NarrowFmt) (t : VType) (neg : Bool) (a : Nat) : Nat :=
  if t.isFloat then
    let f := FloatFmt.of t
    let top := 2 ^ (f.ebits + f.fbits)
    if (f.decode a).isNan then f.nan
    else if neg then (if a / top % 2 = 1 then a - top else a + top) else a % top
  else
    let x := readNum nf t a
    writeNum nf t (if neg then -x else (x.natAbs : Int))

/-- VSHL on one element: a code without substitution, a count in its container (R259). -/
def shlEl (nf : NarrowFmt) (t : VType) (a c : Nat) : Nat :=
  let w := numWidth nf t
  if w ≤ c then 0 else writeNum nf t ((a % 2 ^ w * 2 ^ c : Nat) : Int)

/-- VSHR on one element (R259). -/
def shrEl (nf : NarrowFmt) (t : VType) (a c : Nat) : Nat :=
  let w := numWidth nf t
  if w ≤ c then 0 else writeNum nf t ((a % 2 ^ w / 2 ^ c : Nat) : Int)

/-- VSAR on one element (R259). -/
def sarEl (nf : NarrowFmt) (t : VType) (a c : Nat) : Nat :=
  let w := numWidth nf t
  let x := signedOf w a
  writeNum nf t (if w ≤ c then (if x < 0 then -1 else 0) else x / (2 ^ c : Nat))

/-! ## Element-wise forms -/

/-- The operands of an element-wise form of two registers, by element. -/
def State.pair (s : State) (t : VType) (a b : VReg) (f : Nat → Nat → Nat × Nat) : Nat → Nat × Nat :=
  let x := (s.rdV 0 t.bits a).toNat
  let y := (s.rdV 1 t.bits b).toNat
  fun j => f (lane x t.bits j) (lane y t.bits j)

/-- d, a, b, m with inactive elements 0. -/
def State.vec2 (s : State) (lat : Nat) (d a b : VReg) (m : Fin 8) (t : VType) (f : Nat → Nat → Nat × Nat) : State :=
  s.landLanes lat d
    { bits := t.bits, depth := typeDepth t, value := masked (s.rdP 2 m) (fun _ => 0) (s.pair t a b f) }

/-- d, a, m with inactive elements 0. -/
def State.vec1 (s : State) (lat : Nat) (d a : VReg) (m : Fin 8) (t : VType) (f : Nat → Nat × Nat) : State :=
  let x := (s.rdV 0 t.bits a).toNat
  s.landLanes lat d
    { bits := t.bits, depth := typeDepth t, value := masked (s.rdP 1 m) (fun _ => 0) fun j => f (lane x t.bits j) }

/-- d, a, m moving whole elements by position (R252): element j is element `g j` of a. -/
def State.vecPick (s : State) (lat : Nat) (d a : VReg) (p : PWord) (t : VType) (g : Nat → Nat) : State :=
  let x := (s.rdV 0 t.bits a).toNat
  s.landLanes lat d
    { bits := t.bits, depth := typeDepth t, value := masked p (fun _ => 0) fun j => (lane x t.bits (g j), 0) }

/-- The fused forms read d, a and b; an inactive element of d stays (R245, R255). -/
def State.vecFused (s : State) (d a b : VReg) (m : Fin 8) (t : VType) (f : Nat → Nat → Nat → Nat × Nat) : State :=
  let z := (s.rdV 0 t.bits d).toNat
  let x := (s.rdV 1 t.bits a).toNat
  let y := (s.rdV 2 t.bits b).toNat
  s.landLanes 4 d
    { bits := t.bits, depth := typeDepth t,
      value := masked (s.rdP 3 m) (lane z t.bits) fun j => f (lane x t.bits j) (lane y t.bits j) (lane z t.bits j) }

def execVadd (d a b : VReg) (m : Fin 8) (t : VType) (s : State) : Host.Outcome State Fault Refusal :=
  s.vecForm (.vadd d a b m t) 2 [t] fun s => s.vec2 2 d a b m t (arith2 s.nf s.iss.sat t (· + ·) fAdd)
def execVsub (d a b : VReg) (m : Fin 8) (t : VType) (s : State) : Host.Outcome State Fault Refusal :=
  s.vecForm (.vsub d a b m t) 2 [t] fun s =>
    s.vec2 2 d a b m t (arith2 s.nf s.iss.sat t (· - ·) fun x y => fAdd x y.negate)
def execVmul (d a b : VReg) (m : Fin 8) (t : VType) (s : State) : Host.Outcome State Fault Refusal :=
  s.vecForm (.vmul d a b m t) 4 [t] fun s => s.vec2 4 d a b m t (arith2 s.nf s.iss.sat t (· * ·) fMul)
def execVfma (d a b : VReg) (m : Fin 8) (t : VType) (s : State) : Host.Outcome State Fault Refusal :=
  s.vecForm (.vfma d a b m t) 4 [t] fun s =>
    s.vecFused d a b m t (arith3 s.nf s.iss.sat t (fun x y z => x * y + z) fFma)
def execVfms (d a b : VReg) (m : Fin 8) (t : VType) (s : State) : Host.Outcome State Fault Refusal :=
  s.vecForm (.vfms d a b m t) 4 [t] fun s =>
    s.vecFused d a b m t (arith3 s.nf s.iss.sat t (fun x y z => x * y - z) fun x y z => fFma x y z.negate)
def execVfnma (d a b : VReg) (m : Fin 8) (t : VType) (s : State) : Host.Outcome State Fault Refusal :=
  s.vecForm (.vfnma d a b m t) 4 [t] fun s =>
    s.vecFused d a b m t (arith3 s.nf s.iss.sat t (fun x y z => z - x * y) fun x y z => fFma x.negate y z)
def execVmin (d a b : VReg) (m : Fin 8) (t : VType) (s : State) : Host.Outcome State Fault Refusal :=
  s.vecForm (.vmin d a b m t) 2 [t] fun s => s.vec2 2 d a b m t fun x y => (minMax2 s.nf t false x y, 0)
def execVmax (d a b : VReg) (m : Fin 8) (t : VType) (s : State) : Host.Outcome State Fault Refusal :=
  s.vecForm (.vmax d a b m t) 2 [t] fun s => s.vec2 2 d a b m t fun x y => (minMax2 s.nf t true x y, 0)
def execVabs (d a : VReg) (m : Fin 8) (t : VType) (s : State) : Host.Outcome State Fault Refusal :=
  s.vecForm (.vabs d a m t) 2 [t] fun s => s.vec1 2 d a m t fun x => (signOp s.nf t false x, 0)
def execVneg (d a : VReg) (m : Fin 8) (t : VType) (s : State) : Host.Outcome State Fault Refusal :=
  s.vecForm (.vneg d a m t) 2 [t] fun s => s.vec1 2 d a m t fun x => (signOp s.nf t true x, 0)

/-! ## Logic and shifts (R258, R259) -/

def execVand (d a b : VReg) (m : Fin 8) (t : VType) (s : State) : Host.Outcome State Fault Refusal :=
  s.vecForm (.vand d a b m t) 2 [] fun s => s.vec2 2 d a b m t fun x y => (x &&& y, 0)
def execVor (d a b : VReg) (m : Fin 8) (t : VType) (s : State) : Host.Outcome State Fault Refusal :=
  s.vecForm (.vor d a b m t) 2 [] fun s => s.vec2 2 d a b m t fun x y => (x ||| y, 0)
def execVxor (d a b : VReg) (m : Fin 8) (t : VType) (s : State) : Host.Outcome State Fault Refusal :=
  s.vecForm (.vxor d a b m t) 2 [] fun s => s.vec2 2 d a b m t fun x y => (x ^^^ y, 0)
def execVshl (d a b : VReg) (m : Fin 8) (t : VType) (s : State) : Host.Outcome State Fault Refusal :=
  s.vecForm (.vshl d a b m t) 2 [t] fun s => s.vec2 2 d a b m t fun x c => (shlEl s.nf t x c, 0)
def execVshr (d a b : VReg) (m : Fin 8) (t : VType) (s : State) : Host.Outcome State Fault Refusal :=
  s.vecForm (.vshr d a b m t) 2 [t] fun s => s.vec2 2 d a b m t fun x c => (shrEl s.nf t x c, 0)
def execVsar (d a b : VReg) (m : Fin 8) (t : VType) (s : State) : Host.Outcome State Fault Refusal :=
  s.vecForm (.vsar d a b m t) 2 [t] fun s => s.vec2 2 d a b m t fun x c => (sarEl s.nf t x c, 0)

/-! ## Groups (R248, R256, R257) -/

/-- Results of logical elements of type `dt` in the k registers of the group d, with their flags (R248). -/
def State.landGroup (s : State) (lat : Nat) (d : VReg) (k : Nat) (bits : Nat) (n : Nat) (f : Nat → Nat × Nat) : State :=
  let regs := (groupRegs d k).zipIdx.map fun (r, i) =>
    (r, (BitVec.ofNat 4096 (lanes (fun q => (f (q * k + i)).1) bits (laneDepth bits) 0) : VWord))
  (s.land lat (.v regs s.vProd)).landFlags lat (laneFlags (fun j => (f j).2) n 0)

/-- The result type of VADDW and VMULW (R256). -/
def widenType (nf : NarrowFmt) : VType → VType
  | .i8 => .i32 | .u8 => .u32
  | .n8 => if nf.sgn then .i32 else .u32
  | .n4 => if nf.sgn then .i16 else .u16
  | .i16 => .i32 | .u16 => .u32
  | _ => .fp32

/-- A widening operation on one element (R256). -/
def widenEl (nf : NarrowFmt) (sat : SatMode) (t : VType) (fi : Int → Int → Int) (ff : FVal → FVal → FVal × Nat)
    (a b : Nat) : Nat × Nat :=
  if t.isFloat then floatOut .fp32 sat (ff ((FloatFmt.of t).decode a) ((FloatFmt.of t).decode b))
  else ((fi (readNum nf t a) (readNum nf t b) % (2 ^ (widenType nf t).bits : Nat)).toNat, 0)

/-- VADDW and VMULW. -/
def State.vecWiden (s : State) (lat : Nat) (d a b : VReg) (m : Fin 8) (t : VType) (f : Nat → Nat → Nat × Nat) : State :=
  s.landGroup lat d (t.widenGroup.getD 1) (widenType s.nf t).bits (typeDepth t)
    (masked (s.rdP 2 m) (fun _ => 0) (s.pair t a b f))

def execVaddw (d a b : VReg) (m : Fin 8) (t : VType) (s : State) : Host.Outcome State Fault Refusal :=
  s.vecForm (.vaddw d a b m t) 2 [t] fun s => s.vecWiden 2 d a b m t (widenEl s.nf s.iss.sat t (· + ·) fAdd)
def execVmulw (d a b : VReg) (m : Fin 8) (t : VType) (s : State) : Host.Outcome State Fault Refusal :=
  s.vecForm (.vmulw d a b m t) 4 [t] fun s => s.vecWiden 4 d a b m t (widenEl s.nf s.iss.sat t (· * ·) fMul)

/-- Exact sum of several terms: infinities of opposite sign are invalid, whatever stands between them (R257). -/
def sumFloat (l : List FVal) (first : FVal) : FVal × Nat :=
  let all := first :: l
  (l.foldl (fun u v => (fAdd u v).1) first, if all.contains (.inf false) && all.contains (.inf true) then flagNV else 0)

/-- The sum of d and the exact products of four pairs of floating-point elements, with the flags of invalid operations (R257). -/
def dotFloat (f : FloatFmt) (x y : Nat → Nat) (d : FVal) : FVal × Nat :=
  let p := (List.range 4).map fun k => fMul (f.decode (x k)) (f.decode (y k))
  let r := sumFloat (p.map (·.1)) d
  (r.1, p.foldl (fun n q => n ||| q.2) r.2)

/-- VDOT4 on one element of d (R257). -/
def dot4El (nf : NarrowFmt) (sat : SatMode) (t : VType) (x y : Nat → Nat) (d : Nat) : Nat × Nat :=
  if t.isFloat then
    floatOut .fp32 sat (dotFloat (FloatFmt.of t) x y (FloatFmt.fp32.decode d))
  else
    let p (k : Nat) : Int := readNum nf t (x k) * readNum nf t (y k)
    ((((d : Int) + p 0 + p 1 + p 2 + p 3) % (2 ^ 32 : Nat)).toNat, 0)

def execVdot4 (d a b : VReg) (m : Fin 8) (t : VType) (s : State) : Host.Outcome State Fault Refusal :=
  s.vecForm (.vdot4 d a b m t) 4 [t] fun s =>
    let z := (s.rdV 0 32 d).toNat
    let x := (s.rdV 1 t.bits a).toNat
    let y := (s.rdV 2 t.bits b).toNat
    s.landLanes 4 d
      { bits := 32, depth := 7,
        value := masked (s.rdP 3 m) (lane z 32) fun j =>
          dot4El s.nf s.iss.sat t (fun k => lane x 8 (4 * j + k)) (fun k => lane y 8 (4 * j + k)) (lane z 32 j) }

/-! ## Comparison, selection and movement (R260, R261) -/

/-- A condition on an order: −1, 0 or 1. -/
def condOf (c : Cond) (o : Int) : Bool :=
  match c with
  | .eq => o == 0 | .ne => o != 0 | .lt => decide (o < 0) | .le => decide (o ≤ 0)
  | .gt => decide (0 < o) | .ge => decide (0 ≤ o) | .un => false

/-- Conditions that a NaN operand makes invalid (R101, R260). -/
def Cond.ordered (c : Cond) : Bool :=
  match c with
  | .lt | .le | .gt | .ge => true
  | _ => false

/-- VCMP on one element: the predicate bit and its flags (R260). -/
def cmpEl (nf : NarrowFmt) (t : VType) (c : Cond) (a b : Nat) : Nat × Nat :=
  if t.isFloat then
    let x := (FloatFmt.of t).decode a
    let y := (FloatFmt.of t).decode b
    if x.isNan || y.isNan then ((c == .ne || c == .un).toNat, if Cond.ordered c then flagNV else 0)
    else ((condOf c (fCmp x y)).toNat, 0)
  else
    let x := readNum nf t a
    let y := readNum nf t b
    ((condOf c (if x < y then -1 else if x = y then 0 else 1)).toNat, 0)

def execVcmp (c : Cond) (p : Fin 8) (a b : VReg) (m : Fin 8) (t : VType) (s : State) :
    Host.Outcome State Fault Refusal :=
  s.vecForm (.vcmp c p a b m t) 2 [t] fun s =>
    let f := masked (s.rdP 2 m) (fun _ => 0) (s.pair t a b (cmpEl s.nf t c))
    (s.land 2 (.p p (BitVec.ofNat 1024 (lanes (fun j => (f j).1) 1 (typeDepth t) 0)))).landFlags 2
      (laneFlags (fun j => (f j).2) (typeDepth t) 0)

/-- VSEL: m selects (R261). -/
def execVsel (d a b : VReg) (m : Fin 8) (t : VType) (s : State) : Host.Outcome State Fault Refusal :=
  s.vecForm (.vsel d a b m t) 2 [] fun s =>
    let x := (s.rdV 0 t.bits a).toNat
    let y := (s.rdV 1 t.bits b).toNat
    s.landLanes 2 d
      { bits := t.bits, depth := typeDepth t,
        value := masked (s.rdP 2 m) (lane y t.bits) fun j => (lane x t.bits j, 0) }

def execVmov (d a : VReg) (m : Fin 8) (t : VType) (s : State) : Host.Outcome State Fault Refusal :=
  s.vecForm (.vmov d a m t) 2 [] fun s => s.vec1 2 d a m t fun x => (x, 0)

def execVbcst (d : VReg) (s1 : SReg) (m : Fin 8) (t : VType) (s : State) : Host.Outcome State Fault Refusal :=
  s.vecForm (.vbcst d s1 m t) 2 [] fun s =>
    let x := (s.rdS 0 s1).toNat % 2 ^ t.bits
    s.landLanes 2 d
      { bits := t.bits, depth := typeDepth t, value := masked (s.rdP 1 m) (fun _ => 0) fun _ => (x, 0) }

/-! ## Permutations (R262 to R264) -/

/-- The source position of VPERM for an index x (R262). -/
def permAt (t : VType) (j x : Nat) : Nat := if t.bits = 8 then 256 * (j / 256) + x else x % t.count

def execVperm (d a b : VReg) (m : Fin 8) (t : VType) (s : State) : Host.Outcome State Fault Refusal :=
  s.vecForm (.vperm d a b m t) 2 [] fun s =>
    let y := (s.rdV 1 t.bits b).toNat
    s.vecPick 2 d a (s.rdP 2 m) t fun j => permAt t j (lane y t.bits j)

/-- The source position of VSHUF (R263). -/
def shufAt (p : Shuf) (n j : Nat) : Nat :=
  match p with
  | .dup0 => 0
  | .rev => n - 1 - j
  | .evod => if j < n / 2 then 2 * j else 2 * (j - n / 2) + 1
  | .zip => if j % 2 = 0 then j / 2 else n / 2 + j / 2
  | .bfly c => j ^^^ 2 ^ c.val

def execVshuf (d a : VReg) (p : Shuf) (m : Fin 8) (t : VType) (s : State) : Host.Outcome State Fault Refusal :=
  s.vecForm (.vshuf d a p m t) 2 [] fun s => s.vecPick 2 d a (s.rdP 1 m) t (shufAt p t.count)

def execVrot (d a : VReg) (s1 : SReg) (m : Fin 8) (t : VType) (s : State) : Host.Outcome State Fault Refusal :=
  s.vecForm (.vrot d a s1 m t) 2 [] fun s =>
    let r := (s.rdS 1 s1).toNat % t.count
    s.vecPick 2 d a (s.rdP 2 m) t fun j => (j + r) % t.count

/-! ## Reductions and scans (R265) -/

/-- What combine(S) needs of S: whether it is empty, the exact sum, the NaN and infinities it holds, and the running result of
the other operations. -/
structure Combine where
  any : Bool
  sum : FVal
  nan : Bool
  pinf : Bool
  ninf : Bool
  code : Nat
  deriving DecidableEq, Repr

def Combine.empty : Combine :=
  { any := false, sum := .fin false 0 0, nan := false, pinf := false, ninf := false, code := 0 }

/-- The value of an element for a sum. -/
def sumVal (nf : NarrowFmt) (t : VType) (x : Nat) : FVal :=
  if t.isFloat then (FloatFmt.of t).decode x else intVal (readNum nf t x)

/-- Add an element to S. -/
def Combine.insert (nf : NarrowFmt) (t : VType) (op : RedOp) (k : Combine) (x : Nat) : Combine :=
  match op with
  | .add =>
    match sumVal nf t x with
    | .nan => { k with any := true, nan := true }
    | .inf false => { k with any := true, pinf := true }
    | .inf true => { k with any := true, ninf := true }
    | .fin g m e => { k with any := true, sum := if k.any then (fAdd k.sum (.fin g m e)).1 else .fin g m e }
  | .min => { k with any := true, code := if k.any then minMax2 nf t false k.code x else minMax2 nf t false x x }
  | .max => { k with any := true, code := if k.any then minMax2 nf t true k.code x else minMax2 nf t true x x }
  | .and => { k with any := true, code := if k.any then k.code &&& x else x }
  | .or => { k with any := true, code := if k.any then k.code ||| x else x }
  | .xor => { k with any := true, code := if k.any then k.code ^^^ x else x }

/-- A signed integer from an exact integral value. -/
def FVal.toInt : FVal → Int
  | .fin g m e => (if g then -(m : Int) else m) * (2 ^ e.toNat : Nat)
  | _ => 0

/-- combine(S) with its flags. -/
def Combine.result (nf : NarrowFmt) (sat : SatMode) (t : VType) (op : RedOp) (k : Combine) : Nat × Nat :=
  if !k.any then (0, 0)
  else
    match op with
    | .add =>
      if !t.isFloat then (writeNum nf t k.sum.toInt, 0)
      else if k.pinf && k.ninf then ((FloatFmt.of t).nan, flagNV)
      else if k.nan then ((FloatFmt.of t).nan, 0)
      else if k.pinf || k.ninf then floatOut t sat (.inf k.ninf, 0)
      else floatOut t sat (k.sum, 0)
    | .min | .max => (k.code, 0)
    | _ => (if t.isNarrow then writeNum nf t (k.code : Int) else k.code, 0)

/-- combine over elements j to j + n − 1 that are active. -/
def combineGo (nf : NarrowFmt) (t : VType) (op : RedOp) (p : PWord) (x : Nat) : Nat → Nat → Combine → Combine
  | 0, _, k => k
  | n + 1, j, k =>
    combineGo nf t op p x n (j + 1) (if p.getLsbD j then k.insert nf t op (lane x t.bits j) else k)

/-- The elements of VSCAN from j on, packed, with their flags. -/
def scanGo (nf : NarrowFmt) (sat : SatMode) (t : VType) (op : RedOp) (p : PWord) (x : Nat) :
    Nat → Nat → Combine → Nat × Nat
  | 0, _, _ => (0, 0)
  | n + 1, j, k =>
    if p.getLsbD j then
      let k1 := k.insert nf t op (lane x t.bits j)
      let r := k1.result nf sat t op
      let rest := scanGo nf sat t op p x n (j + 1) k1
      (r.1 + 2 ^ t.bits * rest.1, r.2 ||| rest.2)
    else
      let rest := scanGo nf sat t op p x n (j + 1) k
      (2 ^ t.bits * rest.1, rest.2)

/-- VRED and VSCAN at the issue point. -/
def State.reduce (s : State) (scan : Bool) (d a : VReg) (op : RedOp) (m : Fin 8) (t : VType) : State :=
  let x := (s.rdV 0 t.bits a).toNat
  let p := s.rdP 1 m
  let r := if scan then scanGo s.nf s.iss.sat t op p x t.count 0 .empty
    else (combineGo s.nf t op p x t.count 0 .empty).result s.nf s.iss.sat t op
  (s.land 4 (.v [(d, BitVec.ofNat 4096 r.1)] s.vProd)).landFlags 4 r.2

def execVred (d a : VReg) (op : RedOp) (m : Fin 8) (t : VType) (s : State) : Host.Outcome State Fault Refusal :=
  s.vecForm (.vred d a op m t) 4 [t] fun s => s.reduce false d a op m t
def execVscan (d a : VReg) (op : RedOp) (m : Fin 8) (t : VType) (s : State) : Host.Outcome State Fault Refusal :=
  s.vecForm (.vscan d a op m t) 4 [t] fun s => s.reduce true d a op m t

/-! ## AMAX candidates (R287, R288) -/

/-- Magnitude of an element as an FP32 pattern, none for a NaN; and whether it is a NaN. -/
def amaxEl (t : VType) (x : Nat) : Option Nat × Bool :=
  match (FloatFmt.of t).decode x with
  | .nan => (none, true)
  | .inf _ => (some FloatFmt.fp32.infinity, false)
  | .fin _ m e => (some (FloatFmt.fp32.round .rne .dflt false m e).1, false)

/-- Combine candidates. -/
def amaxJoin (a b : Option Nat × Bool) : Option Nat × Bool :=
  (match a.1, b.1 with
   | some x, some y => some (max x y)
   | some x, none => some x
   | none, y => y, a.2 || b.2)

/-- Let an AMAX update land (R289). -/
def State.landAmax (s : State) (lat : Nat) (depth : Nat) (f : Nat → Option Nat × Bool) : State :=
  let r := laneFold amaxJoin f depth 0
  s.land lat (.amax (r.1.map (BitVec.ofNat 32)) r.2)

/-- The candidates of active source elements. -/
def amaxOfEl (t : VType) (p : PWord) (x : Nat → Nat) (j : Nat) : Option Nat × Bool :=
  if p.getLsbD j then amaxEl t (x j) else (none, false)

def execVamax (a : VReg) (m : Fin 8) (t : VType) (s : State) : Host.Outcome State Fault Refusal :=
  s.vecForm (.vamax a m t) 2 [] fun s =>
    let x := (s.rdV 0 t.bits a).toNat
    s.landAmax 2 (typeDepth t) (amaxOfEl t (s.rdP 1 m) (lane x t.bits))

/-! ## Conversions (R98, R100, R266 to R269) -/

/-- Convert one element from type st to type dt. -/
def convEl (nf : NarrowFmt) (rm : Rm) (sat : SatMode) (sty dt : VType) (x : Nat) : Nat × Nat :=
  let v := if sty.isFloat then (FloatFmt.of sty).decode x else intVal (readNum nf sty x)
  if dt.isFloat then (FloatFmt.of dt).deliver rm sat v
  else
    let r := fToInt rm sat (numRange nf dt).1 (numRange nf dt).2 v
    (writeNum nf dt r.1, r.2)

/-- Let the AMAX update of a converting slot land, if its source is floating-point (R269, R288). -/
def State.convAmax (s : State) (sty : VType) (p : PWord) (depth : Nat) (x : Nat → Nat) : State :=
  if sty.isFloat then s.landAmax 3 depth (amaxOfEl sty p x) else s

def execVcvt (d a : VReg) (sty : VType) (m : Fin 8) (dt : VType) (s : State) : Host.Outcome State Fault Refusal :=
  s.vecForm (.vcvt d a sty m dt) 3 [sty, dt] fun s =>
    let x := lane (s.rdV 0 sty.bits a).toNat sty.bits
    let p := s.rdP 1 m
    let n := min (typeDepth sty) (typeDepth dt)
    (s.landLanes 3 d
      { bits := dt.bits, depth := n,
        value := masked p (fun _ => 0) fun j => convEl s.nf s.iss.rm s.iss.sat sty dt (x j) }).convAmax sty p n x

/-- Logical element i of a group of registers (R248). -/
def groupLane (regs : List VWord) (bits i : Nat) : Nat :=
  lane (regs.getD (i % regs.length) 0).toNat bits (i / regs.length)

def execVpack (d a : VReg) (sty : VType) (m : Fin 8) (dt : VType) (s : State) : Host.Outcome State Fault Refusal :=
  s.vecForm (.vpack d a sty m dt) 3 [sty, dt] fun s =>
    let k := sty.bits / dt.bits
    let regs := (groupRegs a k).zipIdx.map fun (r, i) => s.rdV i sty.bits r
    let x := groupLane regs sty.bits
    let p := s.rdP k m
    (s.landLanes 3 d
      { bits := dt.bits, depth := typeDepth dt,
        value := masked p (fun _ => 0) fun j => convEl s.nf s.iss.rm s.iss.sat sty dt (x j) }).convAmax sty p
      (typeDepth dt) x

/-- VUNPK: exact, with no prefix read and no flag (R268). -/
def execVunpk (d a : VReg) (sty : VType) (m : Fin 8) (dt : VType) (s : State) : Host.Outcome State Fault Refusal :=
  s.vecForm (.vunpk d a sty m dt) 3 [sty, dt] fun s =>
    let x := lane (s.rdV 0 sty.bits a).toNat sty.bits
    s.landGroup 3 d (dt.bits / sty.bits) dt.bits (typeDepth sty)
      (masked (s.rdP 1 m) (fun _ => 0) fun j => ((convEl s.nf .rne .dflt sty dt (x j)).1, 0))

/-! ## Bit planes (R270, R271) -/

/-- FMT for N8 with P above WIDTH. -/
def State.planeForm (s : State) (i : Instr) (t : VType) (planes : Nat) (k : State → State) :
    Host.Outcome State Fault Refusal :=
  s.vecForm i 3 [] fun s =>
    if t = .n8 ∧ s.nf.width < planes then s.fault { cause := 0x15, detail := 3 } else k s

/-- Plane word w of the destination: word n of its group holds bit P−1−n of the group's codes (R112, R270). -/
def planeWord (t : VType) (planes : Nat) (q : Nat → Nat) (w : Nat) : Nat :=
  let g := w / t.bits
  let n := w % t.bits
  if planes ≤ n then 0 else lanes (fun j => q (64 * g + j) / 2 ^ (planes - 1 - n) % 2) 1 6 0

def execVpln (d a : VReg) (pM1 : Fin 16) (m : Fin 8) (t : VType) (s : State) : Host.Outcome State Fault Refusal :=
  s.planeForm (.vpln d a pM1 m t) t (pM1.val + 1) fun s =>
    let x := (s.rdV 0 t.bits a).toNat
    let p := s.rdP 1 m
    let q (j : Nat) : Nat := if p.getLsbD j then lane x t.bits j else 0
    s.land 3 (.v [(d, BitVec.ofNat 4096 (lanes (planeWord t (pM1.val + 1) q) 64 6 0))] s.vProd)

/-- The P-bit code of element e in the layout of R112. -/
def planeCode (t : VType) (x e : Nat) : Nat → Nat → Nat
  | 0, _ => 0
  | left + 1, n =>
    lane x 64 (e / 64 * t.bits + n) / 2 ^ (e % 64) % 2 * 2 ^ left + planeCode t x e left (n + 1)

/-- VUNPL stores a P-bit code extended by the type's signedness (R271; log entry 15 for N8). -/
def planeOut (nf : NarrowFmt) (t : VType) (planes q : Nat) : Nat :=
  writeNum nf t (if numSigned nf t then signedOf planes q else (q : Int))

def execVunpl (d a : VReg) (pM1 : Fin 16) (m : Fin 8) (t : VType) (s : State) : Host.Outcome State Fault Refusal :=
  s.planeForm (.vunpl d a pM1 m t) t (pM1.val + 1) fun s =>
    let x := (s.rdV 0 t.bits a).toNat
    s.landLanes 3 d
      { bits := t.bits, depth := typeDepth t,
        value := masked (s.rdP 1 m) (fun _ => 0) fun j =>
          (planeOut s.nf t (pM1.val + 1) (planeCode t x j (pM1.val + 1) 0), 0) }

/-! ## Predicate operations (R272, R273) -/

/-- A predicate operation: its result lands 2 tempo after issue. -/
def State.predOp (s : State) (i : Instr) (pd : Fin 8) (v : PWord) : Host.Outcome State Fault Refusal :=
  .next (s.scored i 2 fun s => s.land 2 (.p pd v))

def execPand (pd pa pb : Fin 8) (s : State) : Host.Outcome State Fault Refusal :=
  s.predOp (.pand pd pa pb) pd (s.rdP 0 pa &&& s.rdP 1 pb)
def execPor (pd pa pb : Fin 8) (s : State) : Host.Outcome State Fault Refusal :=
  s.predOp (.por pd pa pb) pd (s.rdP 0 pa ||| s.rdP 1 pb)
def execPxor (pd pa pb : Fin 8) (s : State) : Host.Outcome State Fault Refusal :=
  s.predOp (.pxor pd pa pb) pd (s.rdP 0 pa ^^^ s.rdP 1 pb)
def execPnot (pd pa : Fin 8) (s : State) : Host.Outcome State Fault Refusal :=
  s.predOp (.pnot pd pa) pd (~~~(s.rdP 0 pa))

/-- PCNT counts the bits below n(t); it enters no last-result pair (R42, R273). -/
def execPcnt (d : SReg) (pa : Fin 8) (t : VType) (s : State) : Host.Outcome State Fault Refusal :=
  .next (s.scored (.pcnt d pa t) 2 fun s =>
    let p := s.rdP 0 pa
    s.land 2 (.s d none (BitVec.ofNat 64 (laneFold (· + ·) (fun j => (p.getLsbD j).toNat) (typeDepth t) 0))))

end Sys2Proof.Machine
end

