-- ==== Sys2Proof/Machine/Planes.lean ====
section
/-! DEFINITION. Plane tensors: block tags (04 R109, R110), the conversion of a group to planes (R114), the layout of planes
(R112, R113), and the check of a plane operand (11 R297). -/

namespace Sys2Proof.Machine

/-! ## Block tags (R109) -/

def tagKind (t : BitVec 16) : Nat := fld t.toNat 14 2
def tagSigned (t : BitVec 16) : Bool := t.getLsbD 13
def tagHalf (t : BitVec 16) : Bool := t.getLsbD 12
def tagPm1 (t : BitVec 16) : Nat := fld t.toNat 8 4
def tagScale (t : BitVec 16) : Nat := fld t.toNat 0 8

/-- The tag of a block of a plane tensor. -/
def planeTag (sgn half : Bool) (pm1 scale : Nat) : BitVec 16 :=
  BitVec.ofNat 16 (0x4000 + 0x2000 * sgn.toNat + 0x1000 * half.toNat + 0x100 * pm1 + scale)

/-- Kinds of groups in an operand that must agree: SIGNED and PM1. -/
abbrev GroupKind := Bool × Nat

/-- The check of one group, of one block or two, read at p planes: its kind, or the FMT detail and the block at fault
(R110, R297). -/
def checkGroup (two : Bool) (p : Nat) (agreed : Option GroupKind) (t0 t1 : BitVec 16) : Except (Nat × Nat) GroupKind :=
  let kind : GroupKind := (tagSigned t0, tagPm1 t0)
  if tagKind t0 ≠ 1 ∨ (tagHalf t0 = true ∧ tagPm1 t0 < 8) then .error (0x11, 0)
  else if tagPm1 t0 + 1 < p ∨ decide (8 ≤ tagPm1 t0) ≠ two ∨ tagHalf t0 = true then .error (0x12, 0)
  else if (match agreed with | some k => decide (k ≠ kind) | none => false) then .error (0x13, 0)
  else if !two then .ok kind
  else if tagKind t1 ≠ 1 ∨ (tagHalf t1 = true ∧ tagPm1 t1 < 8) then .error (0x11, 1)
  else if tagHalf t1 = false then .error (0x12, 1)
  else if tagSigned t1 ≠ tagSigned t0 ∨ tagPm1 t1 ≠ tagPm1 t0 ∨ tagScale t1 ≠ tagScale t0 then .error (0x13, 1)
  else .ok kind

/-! ## Groups as read -/

/-- A group of 64 elements: its scale byte, signedness, and its first planes as 64-bit words. -/
structure Group where
  scale : Nat
  sgn : Bool
  words : List Nat
  deriving DecidableEq, Repr

/-- Plane words 0 to p−1 of a group's blocks (R112). -/
def planeWords (blocks : List Nat) (p : Nat) : List Nat :=
  (List.range p).map fun n => lane (blocks.getD (n / 8) 0) 64 (n % 8)

/-- The code of element e read at the planes of the words (R113). -/
def groupCode (g : Group) (e : Nat) : Int :=
  let q := g.words.foldl (fun q w => 2 * q + w / 2 ^ e % 2) 0
  if g.sgn then signedOf g.words.length q else q

/-- Weight exponent of a group read at its planes: E − 127 − (p − 1) (R113). -/
def Group.weight (g : Group) : Int := (g.scale : Int) - 127 - ((g.words.length : Int) - 1)

/-! ## Conversion of a group to planes (R114, R332) -/

/-- floor(log2 |x|) of a finite value that is not zero. -/
def floorLog (v : FVal) : Option Int :=
  match v with
  | .fin _ m e => if m = 0 then none else some ((Nat.log2 m : Int) + e)
  | _ => none

/-- Scale byte E of a group; a poisoned element does not enter (R114, R332). -/
def groupScale (sgn : Bool) (xs : List (Option FVal)) : Nat :=
  let emax := xs.foldl (fun a x =>
    match x.bind floorLog, a with
    | some e, some b => some (max e b)
    | some e, none => some e
    | none, b => b) none
  match emax with
  | none => 0
  | some e => min 255 (e + 127 + (if sgn then 1 else 0)).toNat

/-- Range of P-bit codes (R111, R107). -/
def codeRange (p : Nat) (sgn sym : Bool) : Int × Int :=
  if sgn then (-(2 ^ (p - 1) : Nat) + (if sym then 1 else 0), (2 ^ (p - 1) : Nat) - 1) else (0, (2 ^ p : Nat) - 1)

/-- Code of one element with its flags; a poisoned one takes the largest positive code (R114, R120). DESIGN CHOICE (log entry 115): an
infinite input takes its end of the range under WRAP too, and a negative input that rounds to 0 is in range of an unsigned code. -/
def elementCode (p : Nat) (sgn sym : Bool) (rm : Rm) (sat : SatMode) (w : Int) (x : Option FVal) : Int × Nat :=
  let r := codeRange p sgn sym
  match x with
  | none => (r.2, 0)
  | some (.fin n m e) => fToInt rm sat r.1 r.2 (.fin n m (e - w))
  | some (.inf n) => fToInt rm .sat r.1 r.2 (.inf n)
  | some .nan => (0, flagNV)

/-- DEF reads as SAT towards integers and planes (R114, R331). -/
def satOrSat (m : SatMode) : SatMode := match m with | .dflt => .sat | o => o

/-- The blocks of a group of codes in the layout of R112. -/
def codeBlocks (p : Nat) (codes : List Int) : List Nat :=
  let q : List Nat := codes.map fun (c : Int) => (c % (2 ^ p : Nat)).toNat
  let word (n : Nat) : Nat :=
    if p ≤ n then 0 else lanes (fun j => q.getD j 0 / 2 ^ (p - 1 - n) % 2) 1 6 0
  let block (h : Nat) : Nat := lanes (fun n => word (8 * h + n)) 64 3 0
  if p ≤ 8 then [block 0] else [block 0, block 1]

/-- Convert a group: its scale byte, blocks and flags (R114). -/
def convertGroup (p : Nat) (sgn sym : Bool) (rm : Rm) (sat : SatMode) (xs : List (Option FVal)) :
    Nat × List Nat × Nat :=
  let e := groupScale sgn xs
  let w : Int := (e : Int) - 127 - ((p : Int) - 1)
  let cs := xs.map (elementCode p sgn sym rm (satOrSat sat) w)
  (e, codeBlocks p (cs.map (·.1)), cs.foldl (fun f c => f ||| c.2) 0)

/-- The status bits of collected flags: NV, OF, UF, NX and SATF (R333, R351). -/
def statusFlags (fl : Nat) : Nat :=
  (if fl &&& flagNV = 0 then 0 else 16) + (if fl &&& flagOF = 0 then 0 else 8) + (if fl &&& flagUF = 0 then 0 else 4)
    + (if fl &&& flagNX = 0 then 0 else 2) + (if fl &&& flagSATF = 0 then 0 else 1)

end Sys2Proof.Machine
end

