-- ==== Sys2Proof/Machine/Commands.lean ====
section
/-! DEFINITION. The footprint table: tags of commands, ordering edges, commit and end (13 R347 to R358), shared by the engine, the
fabric commands, CHC and CHS. -/

namespace Sys2Proof.Machine

/-- Staging register n of a command whose base is b, wrapping from xs15 to xs0 (R68, R348). A command that is re-entered behind an STG of
its own bundle reads what that STG has landed meanwhile, for no snapshot holds a staging register (R178, R408; DESIGN CHOICE, log entry
118). -/
def State.xs (s : State) (b : Fin 16) (n : Nat) : Word := s.ic.regs.g[(Fin.ofNat 24 ((b.val + n) % 16) : Fin 24)]

/-- The tag is in flight, held by any command or access (R350). -/
def State.tagBusy (s : State) (c : CtxId) (t : Fin 64) : Bool := (s.tagsInFlight c).getLsbD t.val

/-- RACE, detail 0x07 (R350). -/
def tagFault : FaultInfo := { cause := 0x14, detail := 7 }

/-- A footprint, rounded out to whole sectors by its tests (R354). -/
def footOf (w : Window) (lo len : Nat) : Option Footprint := if len = 0 then none else some { win := w, lo := lo, hi := lo + len - 1 }

def overlapOpt (a b : Option Footprint) : Bool :=
  match a, b with
  | some x, some y => x.overlaps y
  | _, _ => false

/-- Command n waits on the earlier command e (R355, R394). -/
def Cmd.waitsOn (n e : Cmd) : Bool :=
  let writes (m : Cmd) (f : Option Footprint) : Bool := overlapOpt m.dst f || overlapOpt m.also f
  writes n e.src || writes e n.dst || writes e n.also || writes e n.src

/-- A command before it enters the table. -/
def Cmd.new (t : Fin 64) (k : CmdKind) (s : State) : Cmd :=
  { id := s.fresh, tag := t, kind := k, pc := s.iss.pc, issued := s.tempo, ops := [], src := none, dst := none, also := none,
    edges := [], notBefore := 0, rm := s.iss.rm, sat := s.iss.sat, subo := (s.ic.nfmtMNow).getLsbD 2, atw := none, started := false,
    stopped := false, cancelAt := none, refused := false, slots := [], slotsData := false, injected := false }

/-- Enter a command in the issuing context's footprint table, with its ordering edges or without (R354, R355). -/
def State.enterCmd (s : State) (m : Cmd) (edges : Bool) : State :=
  let c := s.iss.ctx
  let l := s.cmdsOf c
  let e := if edges then (l.filter fun x => m.waitsOn x).map (·.id) else []
  (s.setCmds c (l ++ [{ m with edges := e }])).bump

/-- A command ends: it leaves the table, its edges clear, and its tag is set with a status (R349, R354). -/
def State.finishCmd (s : State) (c : CtxId) (t : Fin 64) (status : Nat) : State :=
  let l := s.cmdsOf c
  let ids := (l.filter fun m => m.tag == t).map (·.id)
  let rest := (l.filter fun m => m.tag != t).map fun m => { m with edges := m.edges.filter fun e => !ids.contains e }
  if ids.isEmpty then s else (s.setCmds c rest).setTagOf c t status

/-- Change the command of a tag. -/
def State.mapCmd (s : State) (c : CtxId) (t : Fin 64) (f : Cmd → Cmd) : State :=
  s.setCmds c ((s.cmdsOf c).map fun m => if m.tag = t then f m else m)

/-- The command of a tag. -/
def State.cmd? (s : State) (c : CtxId) (t : Fin 64) : Option Cmd := (s.cmdsOf c).find? fun m => m.tag == t

/-- Commands that wait for the engine: neither timed, nor CHC or CHS (R353). -/
def CmdKind.engine : CmdKind → Bool
  | .xsnd | .xrcv | .chc _ | .chs _ => false
  | _ => true

/-- Commands of a context that have committed and not started (R353). -/
def State.engineWaiting (s : State) (c : CtxId) : Nat :=
  ((s.cmdsOf c).filter fun m => m.kind.engine && !m.started).length

/-- A command at the issue point, its operands read: the flaws of its own checks come in the order of R358. -/
structure XeReq where
  tag : Fin 64
  kind : CmdKind
  /-- the register that AT reads (R348) -/
  at_ : Option Word
  flaw : Option FaultInfo
  ops : List Word
  src : Option Footprint
  dst : Option Footprint
  also : Option Footprint := none

/-- RACE, detail 0x06: a guarded destination meets an operand span of the array (R308). -/
def State.spanRace (s : State) (f : Option Footprint) : Bool :=
  match f with
  | some x =>
    match x.win with
    | .scratch k => s.guardOf s.iss.ctx && k == coreOf s.iss.ctx && s.spanHit k x.lo x.hi
    | _ => false
  | none => false

/-- An xe command at its slot (R348, R350, R357, R358). -/
def State.xeIssue (s : State) (r : XeReq) : State :=
  let c := s.iss.ctx
  let late := match r.at_ with | some w => decide (fld w.toNat 0 32 < s.ttempo c + 2) | none => false
  if r.at_.isSome ∧ s.timedPrimary c = false then s.fault { cause := 0x04, detail := 0 }
  else if s.tagBusy c r.tag then s.fault tagFault
  else match r.flaw with
    | some f => s.fault f
    | none =>
      if late then s.fault { cause := 0x20, detail := 8 }
      else if s.spanRace r.dst then s.fault { cause := 0x14, detail := 6 }
      else if r.kind.engine ∧ s.timedPrimary c = true ∧ 16 ≤ s.engineWaiting c then s.fault { cause := 0x20, detail := 7 }
      else
        s.enterCmd
          { Cmd.new r.tag r.kind s with
            ops := r.ops, src := r.src, dst := r.dst, also := r.also, atw := r.at_,
            notBefore := match r.at_ with | some w => fld w.toNat 0 32 | none => 0 } true

/-- A member of the context's gang by its logical index: its context. -/
def State.member? (s : State) (c : CtxId) (lidx : Nat) : Option CtxId :=
  match s.gangOf c with
  | some g => g.members[lidx]?
  | none => none

end Sys2Proof.Machine
end

