-- ==== Sys2Proof/Machine/Chains.lean ====
section
/-! DEFINITION. Accumulator chains (12 R317 to R346) and link elements (04 R115 to R120). -/

namespace Sys2Proof.Machine

/-! ## Link elements (R115 to R117, R119) -/

/-- Elements of a tile: row × 32 + column. -/
abbrev Elem := BitVec 97

def Elem.m (x : Elem) : Int := (x.truncate 96 : BitVec 96).toInt
def Elem.poison (x : Elem) : Bool := x.getLsbD 96
def Elem.poisoned (x : Elem) : Elem := x ||| (1#97 <<< 96)

/-- m + c modulo 2^96, the poison bit kept. -/
def Elem.add (x : Elem) (c : Int) : Elem :=
  let m : BitVec 96 := (x.truncate 96) + BitVec.ofInt 96 c
  (m.zeroExtend 97) ||| (x &&& (1#97 <<< 96))

/-- One group contribution (d, s) to an element of a link with anchor a (R116). -/
def contribute (a : Int) (x : Elem) (d s : Int) : Elem :=
  let r := (roundScaled .rne (decide (d < 0)) d.natAbs (s - a)).1
  if 2 ^ 70 ≤ r then x.poisoned
  else if x.poison then x
  else x.add (if d < 0 then -(r : Int) else r)

/-- Elements of a tile by a function of the index. -/
def tileOf (f : Nat → Elem) : Assoc Elem :=
  (List.range 1024).filterMap fun i => if f i = 0 then none else some (i, f i)

/-- A hop value of an element in hop format code fmt (R119): HX carries the element, the others a bit pattern. -/
def hopValue (fmt : Fin 4) (a : Int) (x : Elem) : Elem :=
  let f := if fmt = 1 then FloatFmt.fp32 else FloatFmt.bf16
  if fmt = 0 then x
  else if x.poison then BitVec.ofNat 97 f.nan
  else BitVec.ofNat 97 (f.round .rne .dflt (decide (x.m < 0)) x.m.natAbs a).1

/-- An incoming hop value added to an element (R117). -/
def hopAdd (fmt : Fin 4) (a : Int) (x v : Elem) : Elem :=
  let add (c : Int) : Elem := if 2 ^ 94 ≤ c.natAbs then x.poisoned else if x.poison then x else x.add c
  if fmt = 0 then (if v.poison then x.poisoned else add v.m)
  else
    match (if fmt = 1 then FloatFmt.fp32 else FloatFmt.bf16).decode v.toNat with
    | .fin n m e =>
      let r := (roundScaled .rne n m (e - a)).1
      add (if n then -(r : Int) else r)
    | _ => x.poisoned

/-! ## Chains, links and their places -/

/-- A chain of a gang by its id, as every host sees it at this tempo (R321 to R323, R343). -/
def State.chainOf (s : State) (g : Nat) (id : Fin 64) : Option Chain :=
  (s.chains.find? fun k => k.2.gang == g && k.2.id == id && decide (k.2.born ≤ s.tempo)
    && (match k.2.freed with | some t => decide (s.tempo < t) | none => true)).map (·.2)

/-- The chain that an instruction of the issuing context names (R299, R321). -/
def State.myChain (s : State) (id : Fin 64) : Option Chain :=
  match s.ic.gang with
  | some g => s.chainOf g id
  | none => none

def chainFault (d : Nat) (c : Fin 64) (l : Nat) : FaultInfo := { cause := 0x30, detail := d, chain := c.val, link := l }

/-- The context that hosts a member, by its logical index. -/
def State.hostCtx (s : State) (ch : Chain) (lidx : Nat) : Option CtxId :=
  match s.gang? ch.gang with
  | some g => g.members[lidx]?
  | none => none

/-- The core that hosts an entry. -/
def State.hostCore (s : State) (ch : Chain) (k : ChainLink) : CoreId :=
  match s.hostCtx ch k.core with
  | some c => coreOf c
  | none => 0

/-- Entry l of a chain. -/
def Chain.link? (ch : Chain) (l : Nat) : Option ChainLink := ch.links[l]?

/-- Change entry l of chain u. -/
def State.mapLink (s : State) (u l : Nat) (f : ChainLink → ChainLink) : State :=
  s.mapChain u fun ch => { ch with links := (ch.links.zipIdx).map fun k => if k.2 = l then f k.1 else k.1 }

/-- The slot that serves an entry. -/
def State.slotOf (s : State) (ch : Chain) (k : ChainLink) : LinkSlot := (s.core (s.hostCore ch k)).links[k.slot]

/-- Retirement has mapped the slot of an entry out (R437). -/
def State.slotOut (s : State) (ch : Chain) (k : ChainLink) : Bool :=
  s.pkg.mappedOut.any fun u => u.unit == .link && u.place == keyLink (s.hostCore ch k) k.slot.val 0

def State.setSlot (s : State) (ch : Chain) (k : ChainLink) (x : LinkSlot) : State :=
  s.mapCore (s.hostCore ch k) fun c => { c with links := c.links.set k.slot x }

/-- The slot of an entry becomes free for another chain. -/
def State.freeSlot (s : State) (ch : Chain) (k : ChainLink) : State :=
  let x := s.slotOf ch k
  if x.owner = some ch.uid then s.setSlot ch k { x with owner := none } else s

/-- State of a link as it is, or as it was before the freeze. -/
def ChainLink.base (k : ChainLink) : LinkState := if k.state = .frozen then k.held else k.state

/-- Hop packets of a chain in flight. -/
def State.hopsOf (s : State) (u : Nat) : Nat :=
  (s.packets.filter fun p => match p.kind with | .hop v _ => v == u | _ => false).length

/-- Commands of the array in flight for a chain. -/
def State.mmasOf (s : State) (u : Nat) : Bool :=
  s.cores.any fun k => k.2.array.any fun a => !a.mlat && a.chain == u && !a.stopped

/-- A frozen chain has settled (R335). -/
def State.settled (s : State) (ch : Chain) : Bool :=
  ch.frozen && s.hopsOf ch.uid == 0 && !s.mmasOf ch.uid
    && (match ch.close with | some k => !k.started || k.done | none => true)

/-! ## Hops (R326, R327) -/

/-- The payload of a hop: its values one after another, in the bytes that its format takes (log entry 119). -/
def hopBytes (fmt : Fin 4) (vals : List Elem) : List Byte :=
  vals.flatMap fun v => bytesOf v.toNat (if fmt = 0 then 13 else if fmt = 1 then 4 else 2)

/-- A hop packet to the next link; within a die the chain controller carries it, between dies the ring (R326). -/
def State.sendHop (s : State) (ch : Chain) (l : Nat) (vals : List Elem) : State :=
  match ch.link? l, ch.link? (l + 1) with
  | some a, some b =>
    let src := (s.hostCtx ch a.core).getD 0
    let dst := (s.hostCtx ch b.core).getD 0
    let d1 := dieOf (coreOf src)
    let d2 := dieOf (coreOf dst)
    let id := s.fresh
    let p : Packet :=
      { id := id, kind := .hop ch.uid (Fin.ofNat 64 (l + 1)), part := (s.ctx src).part, srcPkg := s.pkg.id, src := src,
        seq := 0, back := false, sinc := (s.ctx src).incarn, dinc := (s.ctx dst).incarn, dstCtx := some dst, dstAsid := none, srcDie := d1,
        dstDie := d2, tgt := none, bytes := hopBytes a.hop vals, len := 256, atom := none, hopVals := vals, hopFmt := a.hop, cmd := 0,
        at_ := if d1 = d2 then .slot else .pending }
    let s1 : State := { s with packets := s.packets ++ [p], fresh := s.fresh + 1 }
    if d1 = d2 then s1.later 1 (.packetReceive id true true) else s1.later 1 (.packetInject id)
  | _, _ => s

/-- The elements of a slot. -/
def LinkSlot.elem (x : LinkSlot) (i : Nat) : Elem := lookupD 0 x.tile i

/-- The close starts when the tail is RIPE, a close is armed and the chain is not frozen (R333). -/
def State.armClose (s : State) (u : Nat) : State :=
  match s.chain? u with
  | some ch =>
    match ch.link? (ch.nlink - 1), ch.close with
    | some t, some k =>
      if t.state = .ripe ∧ k.started = false ∧ ch.frozen = false then s.later 1 (.closeStart u) else s
    | _, _ => s
  | none => s

/-- Test link l of chain u, and let it ripen (R325, R326, R328). -/
def State.ripen (s : State) (u l : Nat) : State :=
  match s.chain? u with
  | none => s
  | some ch =>
    match ch.link? l with
    | none => s
    | some k =>
      if ch.frozen || k.spare || k.state != .open_ || k.landed != k.count || !(l == 0 || k.hopr) then s
      else
        let up : Option ChainLink := if l = 0 then none else ch.link? (l - 1)
        let s1 : State :=
          match up with
          | some a =>
            if a.state == LinkState.sent then
              (s.freeSlot ch a).mapLink u (l - 1) fun x => { x with state := .closed, shadow := none }
            else s
          | none => s
        if l + 1 = ch.nlink then (s1.mapLink u l fun x => { x with state := .ripe }).armClose u
        else
          let x := s1.slotOf ch k
          let vals := (List.range 1024).map fun i => hopValue k.hop ch.anchor (x.elem i)
          (s1.mapLink u l fun x => { x with state := .sent, shadow := some vals }).sendHop ch l vals

/-- A link accepts a hop packet (R327): none when it is dropped. -/
def State.acceptHop (s : State) (u l : Nat) (fmt : Fin 4) (vals : List Elem) : Option State :=
  match s.chain? u with
  | none => none
  | some ch =>
    match ch.link? l with
    | none => none
    | some k =>
      if ch.freed.isSome || k.hopr || k.base != .open_ then none
      else
        let x := s.slotOf ch k
        let x1 : LinkSlot := { x with tile := tileOf fun i => hopAdd fmt ch.anchor (x.elem i) (vals.getD i 0) }
        some (((s.setSlot ch k x1).mapLink u l fun y => { y with hopr := true }).ripen u l)

/-! ## Faults of links (R334 to R336) -/

/-- The context that a chain's faults go to: its owner, or else the running member of the lowest index (R336). -/
def State.chainOwner (s : State) (ch : Chain) : Option CtxId :=
  let live (c : CtxId) : Bool := (s.ctx c).gang == some ch.gang && (s.ctx c).run != .free
  match (s.hostCtx ch ch.owner).filter live with
  | some c => some c
  | none =>
    match s.gang? ch.gang with
    | some g => g.members.find? live
    | none => none

/-- A deferred condition that names a chain and link and stops no access (R336, R401), with what its record says of a test (R412,
R436). -/
def State.deferChain (s : State) (ch : Chain) (cause detail : Nat) (l : Nat) (aux : Word) (unit test : Nat) (place : Option Nat) :
    State :=
  match s.chainOwner ch with
  | none => s
  | some c =>
    s.deferItem c
      { cause := cause, detail := detail, slot := 0, tag := 0xFF, pc := (s.ctx c).ctl.pc, addr := 0, ops := [],
        what := .none, chain := ch.id.val, link := l, aux := aux, unit := unit, test := test, place := place }

/-- The ring segment by which a hop reached link l, as a test names it: the die that it leaves, and its direction (log entry 111). -/
def State.hopSegment (s : State) (ch : Chain) (l : Nat) (k : ChainLink) : Nat :=
  let dst := dieOf (s.hostCore ch k)
  let src := match ch.link? (l - 1) with | some x => dieOf (s.hostCore ch x) | none => dst
  let desc := s.routeDesc src dst
  (nextDie dst (!desc)).val * 2 ^ 40 + desc.toNat

/-- A link fault: the link is FAULTED, its contents lost, and the chain freezes and reports (R334 to R336); `crc` tells that a hop
failed its CRC, for which the ring segment is tested, as link storage is for reason 1 (R436). -/
def State.faultLinkBy (s : State) (u l : Nat) (reason : Fin 16) (crc : Bool) : State :=
  match s.chain? u with
  | none => s
  | some ch =>
    match ch.link? l with
    | none => s
    | some k =>
      if ch.freed.isSome || k.spare || k.state == .faulted then s
      else
        let x := s.slotOf ch k
        let lost : LinkSlot := { x with tile := tileOf fun i => BitVec.ofNat 97 (Config.freeBits s.draws (4000 + i)) }
        let s1 := (if x.owner = some u then s.setSlot ch k lost else s).drawn
        let s2 := s1.mapLink u l fun y => { y with state := .faulted, held := y.base, reason := reason, shadow := none }
        let s3 : State := { s2 with cores := s2.cores.map fun c =>
          (c.1, { c.2 with array := c.2.array.map fun a =>
            if !a.mlat && a.chain == u && a.link.val == l then { a with discard := true } else a }) }
        if ch.frozen then s3
        else
          let s4 := s3.mapChain u fun y =>
            { y with
              frozen := true, flink := l, freason := reason.val, ftempo := BitVec.ofNat 64 s.tempo, fcrc := crc,
              links := y.links.map fun z =>
                if z.spare || z.state == .faulted then z else { z with held := z.state, state := .frozen } }
          s4.deferChain ch 0x31 reason.val l 0 (if crc then 4 else 0) 0
            (some (if crc then s.hopSegment ch l k else keyLink (s.hostCore ch k) k.slot.val 0))

/-- A link fault that no CRC shows. -/
def State.faultLink (s : State) (u l : Nat) (reason : Fin 16) : State := s.faultLinkBy u l reason false

/-- The core that hosted links of chains is lost: each of them faults, reason 2 (R334). -/
def State.loseHost (s : State) (k : CoreId) : State :=
  s.chains.foldl (fun s ch =>
    (List.range ch.2.links.length).foldl (fun s l =>
      match ch.2.link? l with
      | some x => if s.hostCore ch.2 x = k && (s.hostCtx ch.2 x.core).isSome then s.faultLink ch.1 l 2 else s
      | none => s) s) s

/-- LINK_FAULT: reasons 1 to 4 (R334). -/
def execLinkFault (ch : Nat) (l : Fin 64) (reason : Fin 16) (s : State) : Host.Outcome State Fault Refusal :=
  .next (if 1 ≤ reason.val ∧ reason.val ≤ 4 then s.faultLink ch l.val reason else s)

/-! ## CHB (R317 to R323) -/

/-- Bytes of a row of the output (R319). -/
def rowBytes (ofmt pm1 : Nat) : Nat :=
  if ofmt = 0 ∨ ofmt = 5 then 128 else if ofmt = 1 ∨ ofmt = 2 then 64 else if ofmt < 5 then 32
  else if pm1 < 8 then 64 else 128

/-- A descriptor's entry (R318). -/
def entryOf (w : Nat) : ChainLink :=
  { core := fld w 0 12, slot := Fin.ofNat 8 (fld w 12 3), count := fld w 16 16, hop := Fin.ofNat 4 (fld w 32 2),
    spare := fld w 34 1 == 1, used := false, state := if fld w 34 1 = 1 then .free else .open_, held := .free, landed := 0,
    hopr := false, shadow := none, slost := false, reason := 0, resend := false }

/-- Entry n of a descriptor of nlink links is well formed (R318, R319). -/
def entryOk (nlink gsize : Nat) (n w : Nat) : Bool :=
  let spare := decide (nlink ≤ n)
  fld w 35 29 == 0 && fld w 15 1 == 0 && (fld w 34 1 == 1) == spare && decide (fld w 0 12 < gsize)
    && fld w 32 2 != 3 && (!(spare || n + 1 == nlink) || fld w 32 2 == 0) && (!spare || fld w 16 16 == 0)
    && (n != 0 || decide (1 ≤ fld w 16 16))

/-- No two entries name the same host and slot. -/
def distinctPlaces : List Nat → Bool
  | [] => true
  | w :: rest => !(rest.any fun v => fld v 0 15 == fld w 0 15) && distinctPlaces rest

/-- The header's fields, by the bytes of R317. -/
def hdrByte (h : Nat) (n len : Nat) : Nat := h / 2 ^ (8 * n) % 2 ^ (8 * len)

/-- A descriptor is well formed (R319). -/
def descriptorOk (h : Nat) (entries : List Nat) (gsize : Nat) : Bool :=
  let ofmt := hdrByte h 3 1
  let pm1 := hdrByte h 6 1
  let bias := hdrByte h 7 1
  let anchor := signedOf 16 (hdrByte h 4 2)
  let rstr := hdrByte h 12 4
  let nlink := hdrByte h 1 1 + 1
  decide (hdrByte h 0 1 < 64) && decide (nlink ≤ 64) && decide (hdrByte h 2 1 ≤ 16) && decide (ofmt ≤ 7)
    && decide (-512 ≤ anchor) && decide (anchor ≤ 511) && (if ofmt < 6 then pm1 == 0 else decide (pm1 < 16))
    && decide (bias < 3) && hdrByte h 20 12 == 0 && rstr % (if ofmt < 6 then 32 else 64) == 0
    && decide (rowBytes ofmt pm1 ≤ rstr) && (bias == 0 || hdrByte h 16 4 % 32 == 0)
    && ((entries.zipIdx).all fun e => entryOk nlink gsize e.2 e.1) && distinctPlaces entries

/-- The chain that a descriptor describes. -/
def chainFrom (s : State) (u g : Nat) (h : Nat) (entries : List Nat) : Chain :=
  { uid := u, born := s.tempo + 2, freed := none, gang := g, id := Fin.ofNat 64 (hdrByte h 0 1),
    owner := s.ic.spr.lidx.toNat, ofmt := hdrByte h 3 1, anchor := signedOf 16 (hdrByte h 4 2), pm1 := hdrByte h 6 1,
    bias := hdrByte h 7 1, scale := BitVec.ofNat 32 (hdrByte h 8 4), rstr := hdrByte h 12 4, baddr := hdrByte h 16 4,
    nlink := hdrByte h 1 1 + 1, links := entries.map entryOf, close := none, frozen := false, flink := 0xFF,
    freason := 0, ftempo := 0, fcrc := false }

/-- The chain that a CHB builds from the descriptor at an address, under number u, or the first failure; slots reserved under u are
free to it (R322). -/
def State.chbChain (s : State) (addr : Word) (u : Nat) : Except FaultInfo Chain :=
    let a := addr.toNat
    let top := 0x400000
    let key := keyScratch (coreOf s.iss.ctx) a
    let h := readN s.mem key 32
    let n := hdrByte h 1 1 % 64 + 1 + hdrByte h 2 1
    let entries := (List.range n).map fun i => readN s.mem (key + 32 + 8 * i) 8
    let id : Fin 64 := Fin.ofNat 64 (hdrByte h 0 1)
    if a % 32 ≠ 0 then .error (alignFault addr)
    else if top < a + 32 ∨ top < a + 32 + 8 * n then .error (addrFault 8 addr)
    else
      match s.ic.gang with
      | none => .error (chainFault 1 id 0xFF)
      | some g =>
        if s.chains.any (fun k => k.2.gang == g && k.2.id == id
            && (match k.2.freed with | some t => decide (s.tempo < t) | none => true)) then
          .error (chainFault 6 id 0xFF)
        else if !descriptorOk h entries (s.ic.spr.gsize.toNat) then .error (chainFault 7 id 0xFF)
        else
          let ch := chainFrom s u g h entries
          if ch.links.any fun k => match (s.slotOf ch k).owner with | some o => o != u | none => s.slotOut ch k then
            .error (chainFault 0x0D id 0xFF)
          else .ok ch

/-- CHB builds a chain; its hold, in which its slots are reserved, is at presenting, and from its commit no reservation is left to lapse
(R322). -/
def execChb (s1 : SReg) (s : State) : Host.Outcome State Fault Refusal :=
  .next (s.scored (.chb s1) 1 fun s =>
    let u := (s.ic.hold.bind (·.chb)).getD s.fresh
    match s.chbChain (s.rdS 0 s1) u with
    | .error f => s.fault f
    | .ok ch =>
      let s2 := ch.links.foldl (fun s k =>
        s.setSlot ch k { tile := if k.spare then (s.slotOf ch k).tile else [], owner := some ch.uid }) (s.lapse s.iss.ctx)
      ((s2.setChain ch.uid ch).mapCtx s.iss.ctx fun x => { x with hold := x.hold.map fun q => { q with chb := none } }).bump)

/-- The check of a held CHB, in slot 6, ends: when it passes, the host slots are reserved until the bundle issues (R322). -/
def State.reserveChb (s : State) (s1 : SReg) : State :=
  match s.chbChain (State.rdS { s with iss := { s.iss with slot := 6 } } 0 s1) s.fresh with
  | .error _ => s
  | .ok ch =>
    let s2 := ch.links.foldl (fun s k => s.setSlot ch k { s.slotOf ch k with owner := some ch.uid }) s
    (s2.mapCtx s.iss.ctx fun x => { x with hold := x.hold.map fun h => { h with chb := some ch.uid } }).bump

/-! ## CHC and the close (R330 to R333, R120) -/

/-- Bias values that a close reads (R317). -/
def biasCount (bias : Nat) : Nat := if bias = 0 then 0 else if bias = 1 then 32 else 1024

/-- CHC arms the close; of a chain that a CHF has freed and whose id is not free yet, the close ends at once, OUTCOME 01 (R343). -/
def execChc (c : Fin 64) (s1 : SReg) (t : Fin 64) (s : State) : Host.Outcome State Fault Refusal :=
  .next (s.scored (.chc c s1 t) 1 fun s =>
    let d := s.rdS 0 s1
    let me := s.iss.ctx
    if s.tagBusy me t then s.fault tagFault
    else match s.myChain c with
      | none => s.fault (chainFault 1 c 0xFF)
      | some ch =>
        match ch.link? (ch.nlink - 1) with
        | none => s.fault (chainFault 1 c 0xFF)
        | some tail =>
          let row := rowBytes ch.ofmt ch.pm1
          let span := 31 * ch.rstr + row
          let nb := 4 * biasCount ch.bias
          if s.ic.spr.lidx.toNat ≠ tail.core then s.fault (chainFault 9 c 0xFF)
          else if ch.close.isSome then s.fault (chainFault 8 c 0xFF)
          else if d.toNat % (if ch.ofmt < 6 then 32 else 64) ≠ 0 then s.fault (alignFault d)
          else if 0x400000 < d.toNat + span ∨ (nb ≠ 0 ∧ 0x400000 < ch.baddr + nb) then s.fault (addrFault 8 d)
          else
            let k : Close :=
              { ctx := me, tag := t, dest := d.toNat, rm := s.iss.rm, sat := s.iss.sat,
                subo := (s.ic.nfmtMNow).getLsbD 2, started := false, done := false, rows := [], btags := [], xst := 0 }
            let s2 := s.enterCmd
              { Cmd.new t (.chc ch.uid) s with
                ops := [d], src := footOf (.scratch (s.hostCore ch tail)) ch.baddr nb,
                dst := footOf (.scratch (coreOf me)) d.toNat span } false
            if ch.freed.isSome then s2.finishCmd me t 0x40
            else (s2.mapChain ch.uid fun x => { x with close := some k }).armClose ch.uid)

/-- Exact sum for a close: an exact zero of two signs is −0 under RDN (R96, R331). -/
def closeAdd (rm : Rm) (a b : FVal) : FVal × Nat :=
  let r := fAdd a b
  match r.1 with
  | .fin _ 0 e => if a.neg == b.neg then r else (.fin (rm == .rdn) 0 e, r.2)
  | _ => r

/-- x = m × 2^A × SCALE + b of an element, none when it is poisoned, with the flags of invalid operations (R331). -/
def closeValue (ch : Chain) (rm : Rm) (x : Elem) (b : FVal) : Option FVal × Nat :=
  if x.poison then (none, 0)
  else
    let p := fMul (.fin (decide (x.m < 0)) x.m.natAbs ch.anchor) (FloatFmt.fp32.decode ch.scale.toNat)
    let r := closeAdd rm p.1 b
    (some r.1, p.2 ||| r.2)

/-- Output format of a float close (R317). -/
def closeFmt (ofmt : Nat) : FloatFmt :=
  if ofmt = 1 then .bf16 else if ofmt = 2 then .fp16 else if ofmt = 3 then .e4m3 else if ofmt = 4 then .e5m2 else .fp32

/-- One element of a float or INT32 output with its flags (R120, R331). -/
def closeElem (ofmt : Nat) (rm : Rm) (sat : SatMode) (x : Option FVal) : Nat × Nat :=
  if ofmt = 5 then
    match x with
    | none => (0x7FFFFFFF, 0)
    | some v =>
      let r := fToInt rm (satOrSat sat) (-(2 ^ 31 : Nat)) ((2 ^ 31 : Nat) - 1) v
      ((r.1 % (2 ^ 32 : Nat)).toNat, r.2)
  else
    match x with
    | none => ((closeFmt ofmt).nan, 0)
    | some v => (closeFmt ofmt).deliver rm sat v

/-- A row of the output: its bytes, value, block tags and flags (R331, R332). -/
def closeRow (ch : Chain) (k : Close) (row : List (Option FVal)) : Nat × Nat × List (BitVec 16) × Nat :=
  if ch.ofmt < 6 then
    let es := rowBytes ch.ofmt ch.pm1 / 32
    let out := row.map (closeElem ch.ofmt k.rm k.sat)
    (32 * es, out.foldr (fun o v => o.1 + 2 ^ (8 * es) * v) 0, [], out.foldl (fun f o => f ||| o.2) 0)
  else
    let sgn := ch.ofmt == 7
    let zero : Option FVal := some (.fin false 0 0)
    let r := convertGroup (ch.pm1 + 1) sgn (sgn && k.subo) k.rm k.sat (row ++ List.replicate 32 zero)
    (64 * r.2.1.length, r.2.1.foldr (fun b v => b + 2 ^ 512 * v) 0,
      (List.range r.2.1.length).map fun h => planeTag sgn (h == 1) ch.pm1 r.1, r.2.2)

/-- CLOSE_START: the tile is taken from the tail and computed (R331 to R333). -/
def execCloseStart (ch : Nat) (s : State) : Host.Outcome State Fault Refusal :=
  .next (
    match s.chain? ch with
    | none => s
    | some x =>
      match x.close, x.link? (x.nlink - 1) with
      | some k, some tail =>
        if k.started || x.frozen || x.freed.isSome || tail.state != .ripe then s
        else
          let core := s.hostCore x tail
          let slot := s.slotOf x tail
          let bias (i : Nat) : FVal :=
            if x.bias = 0 then .fin false 0 0
            else FloatFmt.fp32.decode
              (readN s.mem (keyScratch core (x.baddr + 4 * (if x.bias = 1 then i % 32 else i))) 4)
          let vals := (List.range 1024).map fun i => closeValue x k.rm (slot.elem i) (bias i)
          let rows := (List.range 32).map fun i => closeRow x k (((vals.drop (32 * i)).take 32).map (·.1))
          let fl := vals.foldl (fun f v => f ||| v.2) (rows.foldl (fun f r => f ||| r.2.2.2) 0)
          let pois := vals.any fun v => v.1.isNone
          let place (i : Nat) : Nat := keyScratch (coreOf k.ctx) (k.dest + i * x.rstr)
          let k1 : Close :=
            { k with
              started := true
              rows := (rows.zipIdx).map fun r => (place r.2, r.1.1, r.1.2.1)
              btags := (rows.zipIdx).flatMap fun r => (r.1.2.2.1.zipIdx).map fun t => (place r.2 + 64 * t.2, t.1)
              xst := (if pois then 32 else 0) + statusFlags fl }
          (s.mapChain ch fun y => { y with close := some k1 }).later 1 (.closeComplete ch)
      | _, _ => s)

/-- The writes of a close: rows, as many at once as is left open, then block tags (R232, R333); none once all are written. -/
def State.closeWrite (s : State) (ch : Nat) (k : Close) : Option State :=
  let put (s : State) (k : Close) : State := (s.drawn.mapChain ch fun y => { y with close := some k }).later 1 (.closeComplete ch)
  if !k.rows.isEmpty then
    let n := Config.freeBits s.draws 1002 % k.rows.length + 1
    some (put (s.setMem ((k.rows.take n).foldl (fun m r => writeN m r.1 r.2.1 r.2.2) s.mem)) { k with rows := k.rows.drop n })
  else if !k.btags.isEmpty then some (put (k.btags.foldl (fun s t => s.setTag t.1 t.2) s) { k with btags := [] })
  else none

/-- The end of a close: the tag is set, the tail becomes CLOSED and its slot free (R333, R335). -/
def State.closeEnd (s : State) (ch : Nat) (x : Chain) (k : Close) (tail : ChainLink) : State :=
  let s1 := (s.finishCmd k.ctx k.tag k.xst).mapChain ch fun y => { y with close := some { k with done := true } }
  let s2 := if x.freed.isSome then s1 else
    s1.mapLink ch (x.nlink - 1) fun y =>
      if y.state = .frozen then { y with held := .closed }
      else if y.state = .faulted then y else { y with state := .closed }
  if tail.state = .faulted then s2 else s2.freeSlot x tail

/-- CLOSE_COMPLETE: rows and tags are written, and at a later tempo the close ends (R333, R335, R349). -/
def execCloseComplete (ch : Nat) (s : State) : Host.Outcome State Fault Refusal :=
  .next (
    match s.chain? ch with
    | none => s
    | some x =>
      match x.close, x.link? (x.nlink - 1) with
      | some k, some tail =>
        if !k.started || k.done then s
        else if s.coreTested (coreOf k.ctx) then s.later 1 (.closeComplete ch)
        else (s.closeWrite ch k).getD (s.closeEnd ch x k tail)
      | _, _ => s)

/-! ## CHS (R337) -/

def linkCode : LinkState → Nat
  | .free => 0 | .open_ => 1 | .ripe => 2 | .sent => 3 | .closed => 4 | .frozen => 5 | .faulted => 6

/-- An entry of the status record. -/
def statusEntry (k : ChainLink) : Nat :=
  k.core * 2 ^ 52 + k.slot.val * 2 ^ 49 + k.landed % 2 ^ 16 * 2 ^ 33 + k.count * 2 ^ 17 + linkCode k.state * 2 ^ 14
    + (if k.state = .frozen ∨ k.state = .faulted then linkCode k.held else 0) * 2 ^ 11 + k.hopr.toNat * 2 ^ 10
    + k.shadow.isSome.toNat * 2 ^ 9 + k.slost.toNat * 2 ^ 8 + k.hop.val * 2 ^ 6 + k.spare.toNat * 2 ^ 5
    + k.used.toNat * 2 ^ 4 + k.reason.val

/-- An entry of a chain's descriptor (R318). -/
def descEntry (k : ChainLink) : Nat :=
  k.spare.toNat * 2 ^ 34 + k.hop.val * 2 ^ 32 + k.count % 2 ^ 16 * 2 ^ 16 + k.slot.val * 2 ^ 12 + k.core

/-- The descriptor header of a chain (R317). -/
def Chain.header (ch : Chain) : Nat :=
  ch.id.val + 2 ^ 8 * (ch.nlink - 1) + 2 ^ 16 * (ch.links.length - ch.nlink) + 2 ^ 24 * ch.ofmt
    + 2 ^ 32 * (ch.anchor % 65536).toNat + 2 ^ 48 * ch.pm1 + 2 ^ 56 * ch.bias + 2 ^ 64 * ch.scale.toNat + 2 ^ 96 * ch.rstr
    + 2 ^ 128 * ch.baddr

/-- The status record of a chain as one number. -/
def State.statusRecord (s : State) (ch : Chain) : Nat :=
  let flags := ch.frozen.toNat + 2 * (s.settled ch).toNat + 4 * ch.close.isSome.toNat
    + 8 * (match ch.close with | some k => k.done.toNat | none => 0)
  let h := ch.id.val + 2 ^ 8 * (ch.nlink - 1) + 2 ^ 16 * (ch.links.length - ch.nlink) + 2 ^ 24 * flags
    + 2 ^ 32 * ch.flink + 2 ^ 40 * ch.freason + 2 ^ 64 * ch.ftempo.toNat
  h + 2 ^ 128 * ch.links.foldr (fun k v => statusEntry k + 2 ^ 64 * v) 0

def statusBytes (ch : Chain) : Nat := 16 + 8 * ch.links.length

def execChs (c : Fin 64) (s1 : SReg) (t : Fin 64) (s : State) : Host.Outcome State Fault Refusal :=
  .next (s.scored (.chs c s1 t) 1 fun s =>
    let a := s.rdS 0 s1
    let me := s.iss.ctx
    if s.tagBusy me t then s.fault tagFault
    else match s.myChain c with
      | none => s.fault (chainFault 1 c 0xFF)
      | some ch =>
        if a.toNat % 16 ≠ 0 then s.fault (alignFault a)
        else if 0x400000 < a.toNat + statusBytes ch then s.fault (addrFault 8 a)
        else
          s.enterCmd
            { Cmd.new t (.chs ch.uid) s with
              ops := [a], dst := footOf (.scratch (coreOf me)) a.toNat (statusBytes ch) } true)

/-- CHS reads its chain and writes the record: false while a frozen chain has not settled (R337). -/
def State.chsReady (s : State) (u : Nat) : Bool :=
  match s.chain? u with
  | some ch => !ch.frozen || s.settled ch
  | none => true

/-- A CHS writes the status record of its chain. -/
def State.chsWrite (s : State) (c : CtxId) (m : Cmd) (u : Nat) : State :=
  match s.chain? u with
  | some ch => s.setMem (writeN s.mem (keyScratch (coreOf c) ((m.ops.getD 0 0).toNat)) (statusBytes ch) (s.statusRecord ch))
  | none => s

/-! ## CHP, CHR and CHF (R338 to R343) -/

/-- The place of link l can be restored (R339). -/
def Chain.restorable (ch : Chain) (l : Nat) : Bool :=
  match ch.link? l with
  | none => false
  | some k =>
    match k.held with
    | .sent => true
    | .open_ =>
      l == 0 || (match ch.link? (l - 1) with
        | some u => match u.base with
          | .open_ | .ripe => true
          | .sent => u.shadow.isSome
          | _ => false
        | none => false)
    | _ => false

/-- Resend the shadow of link l (R340, R342). -/
def State.resend (s : State) (u l : Nat) : State :=
  match s.chain? u with
  | none => s
  | some ch =>
    match ch.link? l with
    | some k =>
      match k.shadow with
      | some v => if k.state = .sent then s.sendHop ch l v else s
      | none => s
    | none => s

/-- A chain thaws (R340). -/
def State.thaw (s : State) (u : Nat) : State :=
  match s.chain? u with
  | none => s
  | some ch =>
    let s1 := s.mapChain u fun y =>
      { y with
        frozen := false
        links := y.links.map fun z =>
          { (if z.state = .frozen then { z with state := z.held, held := .free } else z) with resend := false } }
    let idx := List.range ch.nlink
    let s2 := idx.foldl (fun s l =>
      match ch.link? l with
      | some k => if k.resend then s.resend u l else s
      | none => s) s1
    (idx.foldl (fun s l => s.ripen u l) s2).armClose u

/-- CHP splices a spare into the place of link l; it held at presenting until the chain had settled (R338, R339). -/
def execChp (c l : Fin 64) (s1 : SReg) (s : State) : Host.Outcome State Fault Refusal :=
  .next (s.scored (.chp c l s1) 1 fun s =>
    let e := (s.rdS 0 s1).toNat
    match s.myChain c with
    | none => s.fault (chainFault 1 c 0xFF)
    | some ch =>
      match ch.link? l.val, ch.link? e with
      | some k, sp? =>
        if !ch.frozen then s.fault (chainFault 0x0C c 0xFF)
        else if decide (ch.nlink ≤ l.val) || k.state != .faulted then s.fault (chainFault 0x0A c l.val)
        else
          match sp? with
          | none => s.fault (chainFault 0x0B c l.val)
          | some sp =>
            if e < ch.nlink || sp.used || (s.slotOf ch sp).owner != some ch.uid then s.fault (chainFault 0x0B c l.val)
            else if !ch.restorable l.val then s.fault (chainFault 0x0A c l.val)
            else
              let wasOpen := k.held == .open_
              let s2 := s.freeSlot ch k
              let s3 := s2.setSlot ch sp { tile := [], owner := some ch.uid }
              let s4 := (s3.mapLink ch.uid l.val fun y =>
                { y with
                  core := sp.core, slot := sp.slot, state := .frozen, landed := 0, reason := 0, shadow := none,
                  hopr := false, slost := !wasOpen, resend := false }).mapLink ch.uid e fun y => { y with used := true }
              let s5 := if wasOpen ∧ l.val ≠ 0 then s4.mapLink ch.uid (l.val - 1) fun y => { y with resend := true } else s4
              match s5.chain? ch.uid with
              | some ch1 => if ch1.links.any (fun y => y.state == .faulted) then s5 else s5.thaw ch.uid
              | none => s5
      | none, _ =>
        if !ch.frozen then s.fault (chainFault 0x0C c 0xFF) else s.fault (chainFault 0x0A c l.val))

/-- CHR resends a shadow, at the thaw when the chain is frozen (R342). -/
def execChr (c l : Fin 64) (s : State) : Host.Outcome State Fault Refusal :=
  .next (
    match s.myChain c with
    | none => s.fault (chainFault 1 c 0xFF)
    | some ch =>
      match ch.link? l.val with
      | none => s.fault (chainFault 0x0C c l.val)
      | some k =>
        if k.spare || k.base != .sent || k.shadow.isNone then s.fault (chainFault 0x0C c l.val)
        else if ch.frozen then s.mapLink ch.uid l.val fun y => { y with resend := true }
        else s.resend ch.uid l.val)

/-- Free a chain: its slots, its products and hops, and an armed close that has not started, which ends with `outcome`
(R343). -/
def State.freeChain (s : State) (u : Nat) (outcome : Nat) : State :=
  match s.chain? u with
  | none => s
  | some ch =>
    if ch.freed.isSome then s
    else
      let s1 := ch.links.foldl (fun s k => s.freeSlot ch k) s
      let s2 : State := { s1 with cores := s1.cores.map fun c =>
        (c.1, { c.2 with array := c.2.array.map fun a => if !a.mlat && a.chain == u then { a with discard := true } else a }) }
      let s3 := s2.mapChain u fun y => { y with freed := some (s.tempo + 2) }
      match ch.close with
      | some k => if k.started then s3 else s3.finishCmd k.ctx k.tag outcome
      | none => s3

/-- CHF frees a finished chain. -/
def execChf (c : Fin 64) (s : State) : Host.Outcome State Fault Refusal :=
  .next (
    match s.myChain c with
    | none => s.fault (chainFault 1 c 0xFF)
    | some ch =>
      if (ch.links.any fun k => !k.spare && k.state != .closed)
          || (match ch.close with | some k => !k.done | none => false) then s.fault (chainFault 0x0E c 0xFF)
      else s.freeChain ch.uid 0x40)

/-- CHF with abort frees a chain in every state. -/
def execChfAbort (c : Fin 64) (s : State) : Host.Outcome State Fault Refusal :=
  .next (
    match s.myChain c with
    | none => s.fault (chainFault 1 c 0xFF)
    | some ch => s.freeChain ch.uid 0x40)

end Sys2Proof.Machine
end

