-- ==== Sys2Proof/Machine/Matrix.lean ====
section
/-! DEFINITION. The mx slot's matrix products, latch and link storage, and the events of the plane array (11 R292 to R316). -/

namespace Sys2Proof.Machine

/-! ## Issue of MMA and MLAT -/

/-- The four staging registers of a half (R295). -/
def State.half (s : State) (g : Bool) (n : Fin 4) : Word :=
  s.ic.regs.g[(Fin.ofNat 24 (16 + 4 * g.toNat + n.val) : Fin 24)]

/-- The core's primary context is free or frozen (R293). -/
def State.primaryIdle (s : State) (k : CoreId) : Bool :=
  match (s.ctx (primaryOf k)).run with
  | .free | .frozen => true
  | _ => false

/-- A primary context may always use the array; another one without the latch, while the primary is idle (R293). -/
def State.arrayClass (s : State) (lat : Bool) : Bool :=
  if s.ic.ctl.kind = .primary then true
  else !lat && s.primaryIdle (coreOf s.iss.ctx)

/-- Commands of the array that have issued and not started (R304). -/
def Core.arrayWaiting (k : Core) : Nat := (k.array.filter fun a => !a.started && !a.stopped).length

/-- The latch as the commands that have issued leave it: K and pa when valid (R311; log entry 16). -/
def State.latchAfter (s : State) (k : CoreId) : Option (Nat × Nat) :=
  let c := s.core k
  c.array.foldl (fun l a =>
    if a.stopped then l
    else if a.mlat then some (mskK a.msk, mskPa a.msk)
    else if !a.started && !mskLat a.msk && a.ctx == primaryOf k then none
    else l) (if c.latch.valid then some (c.latch.k, c.latch.pa) else none)

/-- Bytes of the core scratchpad, or shared scratch, that a fixed-latency access writes, as memory keys. -/
def AccOp.ranges : AccOp → List (Nat × Nat)
  | .store k n _ => [(k, k + n - 1)]
  | .vstore k _ m => maskSpans k m
  | .scatter e is => is.map fun i => (i.1, i.1 + e - 1)
  | .atom k _ t _ _ _ => [(k, k + t.bytes - 1)]
  | .tagWrite k _ => [(k, k + 63)]
  | _ => []

/-- A store of the bundle that has not performed by the next tempo meets an operand span (R307). -/
def State.bundleStoreHit (s : State) (spans : List (Nat × Nat)) : Bool :=
  let base := keyScratch (coreOf s.iss.ctx) 0
  s.ic.acc.any fun a => decide (s.tempo + 1 < a.due) && a.op.kind.wr &&
    a.op.ranges.any fun r => spans.any fun sp => sectorsMeet r.1 r.2 (base + sp.1) (base + sp.2)

/-- Sides of a command that are read from memory: base, stride and whether groups take two blocks (R296, R311). -/
def arraySides (mlat : Bool) (msa msb msk : Word) : List (Word × Bool) :=
  (if !mlat && mskLat msk then [] else [(msa, mskA2 msk)]) ++ (if mlat then [] else [(msb, mskB2 msk)])

/-- The conditions of R296, with the base of the operand at fault. -/
def sidesFlaw (k : Nat) (sides : List (Word × Bool)) : Option FaultInfo :=
  match sides.find? (fun x => spanBase x.1 % 64 != 0 || spanStride x.1 % 64 != 0) with
  | some x => some (alignFault (BitVec.ofNat 64 (spanBase x.1)))
  | none =>
    match sides.find? (fun x => decide (0x3FFFFF < (spanOf x.1 k x.2).2)) with
    | some x => some (addrFault 8 (BitVec.ofNat 64 (spanBase x.1)))
    | none =>
      if k = 0 ∨ k % 64 ≠ 0 ∨ 8192 < k then some { cause := 0x15, detail := 0x10 } else none

/-- Tempo from now at which the array finishes the commands before this one (R302). -/
def State.arrayReady (s : State) (k : CoreId) : Nat := max (s.tempo + 2) (s.core k).arrayFree

/-- The races of an operand read, with the base of the operand: the guard, then a store of the same bundle (R233, R307, R308). The guard
checks the operand read of an MLAT as it does that of an MMA (DESIGN CHOICE, log entry 120). -/
def State.operandRace (s : State) (spans : List (Nat × Nat)) : Option FaultInfo :=
  let c := s.iss.ctx
  match spans.find? (fun sp =>
      (s.guardHit c (.scratch (coreOf c)) sp.1 sp.2 { rd := true, wr := false }).isSome) with
  | some sp => some { cause := 0x14, detail := 4, faddr := BitVec.ofNat 64 sp.1 }
  | none =>
    (spans.find? fun sp => s.bundleStoreHit [sp]).map fun sp =>
      { cause := 0x14, detail := 5, faddr := BitVec.ofNat 64 sp.1 }

/-- Passes of an MMA (R292). -/
def passesOf (msk : Word) : Nat := (mskK msk + 255) / 256 * mskPa msk * mskPb msk

/-- The checks of R299 from the operands on, then the commit of an MMA or MLAT. -/
def State.arrayIssue (s : State) (a : ArrayCmd) (at_ : Bool) : State :=
  let c := s.iss.ctx
  let k := coreOf c
  let sides := arraySides a.mlat a.msa a.msb a.msk
  let spans := sides.map fun x => spanOf x.1 (mskK a.msk) x.2
  let tt := s.ttempo c
  let aimed := fld a.mst.toNat 0 32
  match sidesFlaw (mskK a.msk) sides with
  | some f => s.fault f
  | none =>
    if a.mlat = false ∧ a.op = .bxnor ∧ ¬(mskPa a.msk = 1 ∧ mskPb a.msk = 1) then s.fault { cause := 0x15, detail := 0x16 }
    else if a.mlat = false ∧ mskLat a.msk = true ∧ s.latchAfter k ≠ some (mskK a.msk, mskPa a.msk) then
      s.fault { cause := 0x15, detail := 0x14 }
    else if a.mlat = true ∧ 256 < mskK a.msk then s.fault { cause := 0x15, detail := 0x15 }
    else if at_ = true ∧ aimed < tt + 2 then s.fault { cause := 0x20, detail := 4 }
    else if at_ = true ∧ s.tempo + (aimed - tt) < (s.core k).arrayFree then s.fault { cause := 0x20, detail := 5 }
    else match s.operandRace spans with
      | some f => s.fault f
      | none =>
        if 8 ≤ (s.core k).arrayWaiting then s.fault { cause := 0x20, detail := 6 }
        else
          let plan := if at_ then s.tempo + (aimed - tt) else s.arrayReady k
          (s.mapCore k fun x =>
            { x with array := x.array ++ [{ a with plan := plan }], arrayFree := plan + a.passes }).bump

/-- A command of the array before its start tempo is known. -/
def State.arrayCmd (s : State) (mlat : Bool) (chain : Nat) (l : Fin 64) (g : Bool) (op : CellOp) : ArrayCmd :=
  { id := s.fresh, ctx := s.iss.ctx, pc := s.iss.pc, mlat := mlat, chain := chain, link := l, op := op,
    msa := s.half g 0, msb := s.half g 1, msk := s.half g 2, mst := s.half g 3, nfmtM := s.ic.nfmtMNow,
    issued := s.tempo, plan := 0, passes := if mlat then 4 else passesOf (s.half g 2), started := false, stopped := false,
    discard := false, captured := false, ablk := [], bblk := [] }

/-- MMAs of link l in flight on a core. -/
def Core.mmasInFlight (k : Core) (u : Nat) (l : Fin 64) : Nat :=
  (k.array.filter fun a => !a.mlat && a.chain == u && a.link == l && !a.stopped && !a.discard).length

/-- MMA (R293, R298 to R304). -/
def execMma (c l : Fin 64) (g : Bool) (op : CellOp) (at_ : Bool) (s : State) : Host.Outcome State Fault Refusal :=
  .next (
    let k := coreOf s.iss.ctx
    if s.arrayClass (mskLat (s.half g 2)) = false ∨ (at_ = true ∧ s.timedPrimary s.iss.ctx = false) then
      s.fault { cause := 0x04, detail := 0 }
    else match s.myChain c with
      | none => s.fault (chainFault 1 c l.val)
      | some ch =>
        match (if l.val < ch.nlink then ch.link? l.val else none) with
        | none => s.fault (chainFault 2 c l.val)
        | some x =>
          if s.hostCore ch x ≠ k then s.fault (chainFault 3 c l.val)
          else if ch.frozen then s.fault (chainFault 4 c l.val)
          else if x.count ≤ x.landed + (s.core k).mmasInFlight ch.uid l then
            (s.faultLink ch.uid l.val 3).fault (chainFault 5 c l.val)
          else s.arrayIssue (s.arrayCmd false ch.uid l g op) at_)

/-- MLAT (R293, R310). -/
def execMlat (g : Bool) (s : State) : Host.Outcome State Fault Refusal :=
  .next (
    if s.ic.ctl.kind ≠ .primary then s.fault { cause := 0x04, detail := 0 }
    else s.arrayIssue (s.arrayCmd true 0 0 g .prod) false)

/-- MFMT writes NFMT.M under R108 (R312). -/
def execMfmt (a : SReg) (s : State) : Host.Outcome State Fault Refusal :=
  .next (s.scored (.mfmt a) 2 fun s =>
    s.mapCtx s.iss.ctx fun x =>
      { x with spr := { x.spr with nfmtPend := x.spr.nfmtPend ++
        [{ toM := true, value := ((s.rdS 0 a).truncate 3).zeroExtend 6, left := 3 }] } })

/-! ## Starting: the operands are read and their tags checked (R297, R306, R309) -/

/-- Addresses of the groups of an operand, row by row (R296). -/
def groupAddrs (w : Word) (k : Nat) (two : Bool) : List Nat :=
  (List.range 32).flatMap fun i => (List.range (k / 64)).map fun n =>
    spanBase w + i * spanStride w + n * groupBytes two

/-- A block of the core scratchpad with its tag. -/
def State.scratchBlock (s : State) (k : CoreId) (a : Nat) : BitVec 16 × BitVec 512 :=
  (s.tagOf (keyScratch k a), BitVec.ofNat 512 (readN s.mem (keyScratch k a) 64))

/-- The blocks of the groups at some addresses. -/
def State.blocksAt (s : State) (k : CoreId) (two : Bool) (addrs : List Nat) : List (BitVec 16 × BitVec 512) :=
  addrs.flatMap fun a => if two then [s.scratchBlock k a, s.scratchBlock k (a + 64)] else [s.scratchBlock k a]

/-- Check the groups of an operand, or find the FMT condition with the address of the block at fault (R297). -/
def checkBlocks (two : Bool) (p : Nat) : List Nat → List (BitVec 16 × BitVec 512) → Option GroupKind → Except (Nat × Nat) Unit
  | a :: addrs, b0 :: rest, agreed =>
    let b1 := (rest.head?.map (·.1)).getD 0
    match checkGroup two p agreed b0.1 b1 with
    | .error (d, h) => .error (d, a + 64 * h)
    | .ok kind => checkBlocks two p addrs (if two then rest.drop 1 else rest) (some kind)
  | _, _, _ => .ok ()

/-- The group addresses of A, none when the latch holds it, and of B, none for an MLAT (R296, R311). -/
def ArrayCmd.addrsA (a : ArrayCmd) : List Nat :=
  if !a.mlat && mskLat a.msk then [] else groupAddrs a.msa (mskK a.msk) (mskA2 a.msk)
def ArrayCmd.addrsB (a : ArrayCmd) : List Nat := if a.mlat then [] else groupAddrs a.msb (mskK a.msk) (mskB2 a.msk)

/-- The scratchpad of a core with every store that was issued before a tempo, whether or not a hold keeps it back (R306, R407). -/
def State.settledFor (s : State) (k : CoreId) (t : Nat) : State :=
  let due := ((s.ctx (primaryOf k)).acc ++ (s.ctx (secondaryOf k)).acc).filter fun a =>
    a.banks == 0 && a.op.kind.wr && decide (a.issued < t)
  due.foldl (fun s a =>
    let r := a.op.perform s.mem s.tags
    { s with mem := r.1, tags := r.2.1 }) s

/-- A command with its operands as they stand now (R306). -/
def State.capture (s : State) (k : CoreId) (a : ArrayCmd) : ArrayCmd :=
  if a.captured then a
  else
    let s1 := s.settledFor k a.issued
    { a with
      captured := true
      ablk := s1.blocksAt k (mskA2 a.msk) a.addrsA
      bblk := s1.blocksAt k (mskB2 a.msk) a.addrsB }

/-- At the end of the tempo after its issue a command's operands are taken: no later write changes what it reads (R306). -/
def State.captureOperands (s : State) : State :=
  { s with cores := s.cores.map fun k =>
      (k.1, { k.2 with array := k.2.array.map fun a =>
        if a.issued < s.tempo then s.capture (Fin.ofNat 256 k.1) a else a }) }

/-- The operands of a command as read, A from the latch where it says so, or the FMT condition with its address (R297, R306,
R311). -/
def State.operands (s : State) (k : CoreId) (a : ArrayCmd) :
    Except (Nat × Nat) (List (BitVec 16 × BitVec 512) × List (BitVec 16 × BitVec 512)) :=
  let b := s.capture k a
  let lat := !a.mlat && mskLat a.msk
  if lat && !(s.core k).latch.valid then .error (0x14, 0)
  else
    match checkBlocks (mskA2 a.msk) (mskPa a.msk) a.addrsA b.ablk none with
    | .error e => .error e
    | .ok _ =>
      match checkBlocks (mskB2 a.msk) (mskPb a.msk) a.addrsB b.bblk none with
      | .error e => .error e
      | .ok _ => .ok (if lat then (s.core k).latch.blocks else b.ablk, b.bblk)

/-- The commands of the array of a held gang's member make no pass; those of a frozen context run on (R305). -/
def State.arrayPaused (s : State) (a : ArrayCmd) : Bool := s.heldCtx a.ctx && (s.ctx a.ctx).run != .frozen

/-- The next command of a core that has its start tempo. -/
def State.arrayStart? (s : State) (k : CoreId) : Option ArrayCmd :=
  (s.core k).array.find? fun a => !a.started && !a.stopped && decide (a.plan ≤ s.tempo) && !s.arrayPaused a

/-- Replace a command of the array by its id. -/
def Core.mapArray (k : Core) (id : Nat) (f : ArrayCmd → ArrayCmd) : Core :=
  { k with array := k.array.map fun a => if a.id = id then f a else a }

/-- A deferred condition of a command of the array (R309, R413). -/
def arrayItem (a : ArrayCmd) (f : FaultInfo) : DefItem :=
  { cause := f.cause, detail := f.detail, slot := 6, tag := 0xFF, pc := a.pc, addr := f.faddr,
    ops := [a.msa, a.msb, a.msk, a.mst, a.nfmtM.zeroExtend 64], what := .mx a.id, chain := 0xFF, link := 0xFF, aux := f.aux,
    place := f.place }

/-- Discard a command that met a condition, and with it every later one of its context that has not started (R309). -/
def State.discardArray (s : State) (k : CoreId) (a : ArrayCmd) (f : FaultInfo) : State :=
  let later := ((s.core k).array.dropWhile fun b => b.id != a.id).filter fun b =>
    b.id == a.id || (b.ctx == a.ctx && !b.started && !b.stopped)
  let gone (b : ArrayCmd) : Bool := later.any fun x => x.id == b.id
  let s1 := s.mapCore k fun c =>
    let l := c.array.map fun b => if gone b then { b with stopped := true, started := false } else b
    { c with
      array := l
      arrayFree := l.foldl (fun t b => if b.stopped then t else max t (b.plan + b.passes)) s.tempo
      latch := if a.mlat || a.ctx == primaryOf k then { c.latch with valid := false } else c.latch }
  later.foldl (fun s b => s.deferItem b.ctx (arrayItem b f)) s1

/-- The first block of a command's operands that holds an uncorrectable error (R309). -/
def State.arrayEcc (s : State) (k : CoreId) (a : ArrayCmd) : Option Nat :=
  if s.bad.isEmpty then none
  else
    (arraySides a.mlat a.msa a.msb a.msk).findSome? fun w =>
      (groupAddrs w.1 (mskK a.msk) w.2).findSome? fun x =>
        s.eccAt (keyScratch k x) (keyScratch k x + groupBytes w.2 - 1)

/-- ARRAY_COMMAND_START of a core's next command (R302, R306, R309, R311). -/
def execArrayCommandStart (core : CoreId) (s : State) : Host.Outcome State Fault Refusal :=
  .next (
    match s.arrayStart? core with
    | none => s
    | some a =>
     match s.arrayEcc core a with
     | some b => (s.healed b).discardArray core a (s.eccFault b (BitVec.ofNat 64 (b % 2 ^ 22)))
     | none =>
      match s.operands core a with
      | .error (d, addr) => s.discardArray core a { cause := 0x15, detail := d, faddr := BitVec.ofNat 64 addr }
      | .ok (la, lb) =>
        s.mapCore core fun c =>
          { c.mapArray a.id (fun b => { b with started := true, ablk := la, bblk := lb }) with
            latch := if a.mlat || (!mskLat a.msk && a.ctx == primaryOf core) then { c.latch with valid := false }
              else c.latch })

/-- The MLAT of a core that has finished its load. -/
def State.mlatDone? (s : State) (k : CoreId) : Option ArrayCmd :=
  (s.core k).array.find? fun a => a.mlat && a.started && !a.stopped && decide (a.plan + 4 ≤ s.tempo) && !s.arrayPaused a

/-- MLAT_LOAD_END: the latch is valid (R310, R311). -/
def execMlatLoadEnd (core : CoreId) (s : State) : Host.Outcome State Fault Refusal :=
  .next (
    match s.mlatDone? core with
    | none => s
    | some a =>
      s.mapCore core fun c =>
        { c with
          array := c.array.filter fun b => b.id != a.id
          latch := { valid := true, k := mskK a.msk, pa := mskPa a.msk, a2 := mskA2 a.msk, blocks := a.ablk } })

/-! ## Products (R300) -/

/-- The groups of an operand, of one block or two each. -/
def groupsOf (two : Bool) (p : Nat) : List (BitVec 16 × BitVec 512) → List Group
  | b0 :: rest =>
    if two then
      match rest with
      | b1 :: more =>
        { scale := tagScale b0.1, sgn := tagSigned b0.1, words := planeWords [b0.2.toNat, b1.2.toNat] p }
          :: groupsOf two p more
      | [] => []
    else { scale := tagScale b0.1, sgn := tagSigned b0.1, words := planeWords [b0.2.toNat] p } :: groupsOf two p rest
  | [] => []

/-- A code with the substitution of NFMT.M (R107, R300). -/
def substCode (sub : Bool) (g : Group) (e : Nat) : Int :=
  let q := groupCode g e
  if sub && g.sgn && q == -(2 ^ (g.words.length - 1) : Nat) then q + 1 else q

/-- Ones of a plane word. -/
def ones64 (x : Nat) : Nat := laneFold (· + ·) (fun j => x / 2 ^ j % 2) 6 0

/-- Weight of plane x of a group in HAMM (R300). -/
def planeWeight (g : Group) (x : Nat) : Int :=
  let w : Int := (2 ^ (g.words.length - 1 - x) : Nat)
  if g.sgn && x == 0 then -w else w

/-- The exact integer d of one group pair (R300). -/
def cellProduct (op : CellOp) (nfmtM : BitVec 3) (a b : Group) : Int :=
  match op with
  | .prod =>
    laneFold (· + ·) (fun e => substCode (nfmtM.getLsbD 0) a e * substCode (nfmtM.getLsbD 1) b e) 6 0
  | .hamm =>
    (a.words.zipIdx).foldl (fun t wx => (b.words.zipIdx).foldl (fun t wy =>
      t + planeWeight a wx.2 * planeWeight b wy.2 * (ones64 (wx.1 ^^^ wy.1) : Int)) t) 0
  | .bxnor => 64 - 2 * (ones64 ((a.words.getD 0 0) ^^^ (b.words.getD 0 0)) : Int)

/-- The contributions of an MMA to one element: groups n to n + left − 1 (R116, R300). -/
def addGroups (op : CellOp) (nfmtM : BitVec 3) (anchor : Int) (a b : Nat → Group) : Nat → Nat → Elem → Elem
  | 0, _, x => x
  | left + 1, n, x =>
    addGroups op nfmtM anchor a b left (n + 1)
      (contribute anchor x (cellProduct op nfmtM (a n) (b n)) ((a n).weight + (b n).weight))

/-- Every contribution of a command to a tile. -/
def ArrayCmd.addTo (a : ArrayCmd) (anchor : Int) (tile : Nat → Elem) : Assoc Elem :=
  let k := mskK a.msk / 64
  let two := match a.ablk with | b :: _ => decide (8 ≤ tagPm1 b.1) | [] => false
  let ga := (groupsOf two (mskPa a.msk) a.ablk).toArray
  let gb := (groupsOf (mskB2 a.msk) (mskPb a.msk) a.bblk).toArray
  let none_ : Group := { scale := 0, sgn := false, words := [] }
  tileOf fun i =>
    addGroups a.op a.nfmtM anchor (fun n => ga.getD (i / 32 * k + n) none_) (fun n => gb.getD (i % 32 * k + n) none_) k 0
      (tile i)

/-- The slot of a core is under test: what needs it waits (R436). -/
def State.slotTested (s : State) (k : CoreId) (slot : Fin 8) : Bool := s.untestable (keyLink k slot.val 0) 1

/-- The link slot of an MMA is under test: its landing waits (R436). -/
def State.landTested (s : State) (a : ArrayCmd) : Bool :=
  match (s.chain? a.chain).bind fun ch => (ch.link? a.link.val).map fun l => (s.hostCore ch l, l.slot) with
  | some (k, slot) => s.slotTested k slot
  | none => false

/-- The MMA of a core that has its landing tempo (R302). -/
def State.mmaDone? (s : State) (k : CoreId) : Option ArrayCmd :=
  (s.core k).array.find? fun a =>
    !a.mlat && a.started && !a.stopped && decide (a.plan + a.passes + 6 ≤ s.tempo) && !s.arrayPaused a && !s.landTested a

/-- MMA_LANDING: the contributions and the count enter the link, which may ripen; a discarded product enters nothing (R300,
R301, R343). -/
def execMmaLanding (core : CoreId) (s : State) : Host.Outcome State Fault Refusal :=
  .next (
    match s.mmaDone? core with
    | none => s
    | some a =>
      let s1 := s.mapCore core fun c => { c with array := c.array.filter fun b => b.id != a.id }
      match s1.chain? a.chain with
      | none => s1
      | some ch =>
        match ch.link? a.link.val with
        | none => s1
        | some l =>
          if a.discard || ch.freed.isSome || l.state == .faulted then s1
          else
            let x := s1.slotOf ch l
            let tile := a.addTo ch.anchor x.elem
            ((s1.setSlot ch l { x with tile := tile }).mapLink ch.uid a.link.val fun y =>
              { y with landed := y.landed + 1 }).ripen ch.uid a.link.val)

/-! ## Link storage (R313, R314) -/

/-- LKR, LKW or LKZ at the issue point: a second only (R67, R313). -/
def State.linkOp (s : State) (i : Instr) (k : Fin 8) (what : State → LkWhat) : Host.Outcome State Fault Refusal :=
  .next (
    if s.ic.ctl.kind ≠ .second then s.fault { cause := 0x03, detail := 1 }
    else s.scored i 4 fun s =>
      s.mapCore (coreOf s.iss.ctx) fun c =>
        { c with lk := c.lk ++
          [{ due := s.tempo + 2, ctx := s.iss.ctx, slot := k, issued := s.tempo, what := what s }] })

def execLkr (v : Fin 32) (k : Fin 8) (row : Fin 32) (s : State) : Host.Outcome State Fault Refusal :=
  s.linkOp (.lkr v k row) k fun _ => .read row v
def execLkw (v : Fin 32) (k : Fin 8) (row : Fin 32) (s : State) : Host.Outcome State Fault Refusal :=
  s.linkOp (.lkw v k row) k fun s => .write row (s.rdV 0 8 (.v v))
def execLkz (k : Fin 8) (s : State) : Host.Outcome State Fault Refusal :=
  s.linkOp (.lkz k) k fun _ => .zero

/-- A row of a slot in the layout of R67: 128 bits an element. -/
def rowVector (x : LinkSlot) (row : Nat) : VWord :=
  BitVec.ofNat 4096 (lanes (fun j => (x.elem (32 * row + j)).toNat) 128 5 0)

/-- A slot with a row written. -/
def LinkSlot.setRow (x : LinkSlot) (row : Nat) (v : VWord) : LinkSlot :=
  { x with tile := tileOf fun i =>
      if i / 32 = row then BitVec.ofNat 97 (lane v.toNat 128 (i % 32)) else x.elem i }

/-- An operation on link storage that acts now: those of a slot under test wait (R314, R436). -/
def State.lkNow (s : State) (core : CoreId) (o : LkOp) : Bool := decide (o.due ≤ s.tempo) && !s.slotTested core o.slot

/-- The reads that are due leave for their registers, and then the writes and clears take effect (R314). -/
def State.linkStorage (s : State) (core : CoreId) : State :=
  let due := (s.core core).lk.filter (s.lkNow core)
  let k := s.core core
  let s1 := due.foldl (fun s o =>
    match o.what with
    | .read row v =>
      let bad := s.eccAt (keyLink core o.slot.val (512 * row.val)) (keyLink core o.slot.val (512 * row.val) + 511)
      let val := if bad.isSome then BitVec.ofNat 4096 (Config.freeBits s.draws 2001) else rowVector k.links[o.slot] row.val
      let s1 := s.mapCtx o.ctx fun x =>
        { x with pend := x.pend ++
          [{ due := s.tempo + 2, issued := o.issued, slot := 6, what := .v [(.v v, val)] none }] }
      (match bad with
       | some b =>
         let f := s.eccFault b 0
         (s1.healed b).deferItem o.ctx
           { cause := f.cause, detail := f.detail, slot := 0, tag := 0xFF, pc := (s.ctx o.ctx).ctl.pc, addr := 0, ops := [],
             what := .none, chain := 0xFF, link := 0xFF, aux := f.aux, place := f.place }
       | none => s1)
    | _ => s) s
  s1.mapCore core fun c =>
    due.foldl (fun c o =>
      match o.what with
      | .read _ _ => c
      | .write row v => { c with links := c.links.set o.slot (c.links[o.slot].setRow row.val v) }
      | .zero => { c with links := c.links.set o.slot { c.links[o.slot] with tile := [] } })
      { c with lk := c.lk.filter fun o => !s.lkNow core o }

end Sys2Proof.Machine
end

