-- ==== Sys2Proof/Machine/Exchange.lean ====
section
/-! DEFINITION. The exchange engine: copies, conversions, shape records, code fills, expert routing and cancelling (13 R361 to
R375, 02 R69 to R75). -/

namespace Sys2Proof.Machine

/-! ## Sides of a command (R354, R357, R364) -/

/-- A side: its window, address and length of its bounding range. -/
structure Side where
  win : Window
  lo : Nat
  len : Nat
  deriving DecidableEq, Repr

/-- Lowest and highest offset of the index tuples: extents with strides (R362). -/
def boundOf (dims : List (Nat × Int)) : Int × Int :=
  dims.foldl (fun b d => (b.1 + min 0 ((d.1 - 1 : Int) * d.2), b.2 + max 0 ((d.1 - 1 : Int) * d.2))) (0, 0)

/-- The core that a side's window belongs to: the member named, or the issuer's. -/
def State.sideCore (s : State) (c : CtxId) (mem : Option Nat) : CoreId :=
  match mem with
  | some m => match s.member? c m with | some x => coreOf x | none => 0
  | none => coreOf c

/-- The ADDR details that a side meets (R358, R364). -/
def State.sideDetails (s : State) (c : CtxId) (mem : Option Nat) (base : Word) (lo hi : Int) : List Nat :=
  let memberBad := match mem with | some m => decide ((s.ctx c).spr.gsize.toNat ≤ m) | none => false
  (match windowOf base with
   | .error d => [d]
   | .ok (.scratch _) => if lo < 0 ∨ 0x3FFFFF < hi then [8] else []
   | .ok (.shared _) =>
     if lo < 0x4000000 ∨ 0xC000000 ≤ hi ∨ ((s.rowsOf c).2 : Int) ≤ (hi - 0x4000000) / 16384 then [4] else []
   | .ok .xlate =>
     (if lo < 2 ^ 32 ∨ 2 ^ 56 ≤ hi then [2] else []) ++ (if mem.isSome then [5] else []))
    ++ (if memberBad then [0x0A] else [])

/-- A side of `len` contiguous bytes for every index tuple, with its flaws. -/
def State.sideOf (s : State) (c : CtxId) (mem : Option Nat) (base : Word) (dims : List (Nat × Int)) (len : Nat) :
    Side × List (Nat × Word) :=
  let b := boundOf dims
  let lo : Int := base.toNat + b.1
  let hi : Int := base.toNat + b.2 + len - 1
  let w : Window :=
    match windowOf base, mem with
    | .ok .xlate, _ | .error _, _ => .virt (s.ctx c).spr.asid
    | .ok w, some m =>
      -- a member that the gang does not have is its own window: no translated range reaches a local address
      if (s.member? c m).isNone then .virt (BitVec.ofNat 14 m)
      else (match w with | .scratch _ => .scratch (s.sideCore c mem) | _ => .shared (s.sideCore c mem))
    | .ok (.scratch _), none => .scratch (coreOf c)
    | .ok (.shared _), none => .shared (coreOf c)
  ({ win := w, lo := lo.toNat, len := (hi - lo + 1).toNat }, (s.sideDetails c mem base lo hi).map fun d => (d, base))

/-- The flaw of the least detail (R358). -/
def leastFlaw : List (Nat × Word) → Option (Nat × Word)
  | [] => none
  | f :: rest =>
    match leastFlaw rest with
    | none => some f
    | some g => if f.1 ≤ g.1 then some f else some g

def Side.foot (x : Side) : Option Footprint := footOf x.win x.lo x.len

/-- The address flaws of a command of two sides, the overlap of R357 among them. -/
def sidesFlaws (a b : Side × List (Nat × Word)) (dst : Word) : List (Nat × Word) :=
  a.2 ++ b.2 ++ (if overlapOpt a.1.foot b.1.foot then [(9, dst)] else [])

/-- The address checks of a command of two sides, in the order of details of R358. -/
def sidesCheck (a b : Side × List (Nat × Word)) (dst : Word) : Option FaultInfo :=
  (leastFlaw (sidesFlaws a b dst)).map fun f => addrFault f.1 f.2

/-! ## Engine accesses (R222, R232, R359, R360) -/

/-- What stops a command that has started: a deferred condition, or lost traffic. -/
inductive EngStop
  | fault (f : FaultInfo)
  | lost
  /-- the ring carries nothing there now (R384, R399) -/
  | wait
  deriving DecidableEq, Repr

/-- The home point of an address of a window; a walk crosses the package ring where a table stands at another die (R10, R360). -/
def State.engTarget (s : State) (c : CtxId) (w : Window) (a : Nat) (need : Need) : Except EngStop Tgt :=
  match w with
  | .scratch k => .ok (localTgt (keyScratch k a))
  | .shared k => .ok (localTgt (s.sharedKey c k (a - 0x4000000)))
  | .virt asid =>
    if s.walkDead (coreOf c) (s.ctx c).part asid a then .error .lost
    else if s.walkBlocked (coreOf c) (s.ctx c).part asid a then .error .wait
    else
      match s.translate (coreOf c) (s.ctx c).part asid (BitVec.ofNat 64 a) need with
      | .error f => .error (.fault f)
      | .ok t => if t.host && !s.pkg.linkUp then .error .lost else .ok t
  | .chamber _ => .error .lost

/-- The ring carries traffic of context c to a target now: injection is not stopped, and no packet of its partition, and no partition
whose turn it is, comes first (R384, R391, R399). -/
def State.ringFree (s : State) (c : CtxId) (t : Tgt) : Bool :=
  let d := dieOf (coreOf c)
  dieOfTgt t == d || (!s.ringBlocked d (dieOfTgt t) && !s.pendingAt (s.ctx c).part d && s.inTurn (s.ctx c).part d)

/-- The home point of an engine access of n bytes, once the ring can carry it and the home point takes it (R242, R360, R391, R399,
R436). -/
def State.engReach (s : State) (c : CtxId) (w : Window) (a n : Nat) (need : Need) : Except EngStop Tgt :=
  match s.engTarget c w a need with
  | .error e => .error e
  | .ok t =>
    if s.routeDead (dieOf (coreOf c)) (dieOfTgt t) then .error .lost
    else if !s.ringFree c t || s.untestable t.key n || (need == .write && s.queueFull (s.ctx c).part t) then .error .wait
    else .ok t

/-- What an engine access leaves behind: the turn of its partition at its station, and at a translated target TLB, monitors and slice
cache (R217, R391, R493, R499). A copy counts once for each 256 bytes. -/
def State.engTouch (s : State) (c : CtxId) (a : Nat) (t : Tgt) (wr first : Bool) : State :=
  let x := s.ctx c
  let counts := first || a % 256 == 0
  let d := dieOf (coreOf c)
  let s0 := if counts && dieOfTgt t != d then s.served x.part d else s
  if !t.dev then s0
  else
    let s1 := (s0.fillTlb (coreOf c) x.part x.spr.asid (BitVec.ofNat 64 a)).cacheTouch x.part t wr
    if counts then s1.monitor x.part x.spr.asid (if wr then 1 else 0) t.pa else s1

/-- Read n bytes at an address of a window, block by block. -/
def State.engRead (c : CtxId) (w : Window) (need : Need) : Nat → State → Nat → Nat → Bool → State × Except EngStop (List Byte)
  | 0, s, _, _, _ => (s, .ok [])
  | fuel + 1, s, a, n, first =>
    if n = 0 then (s, .ok [])
    else
      let k := min n (64 - a % 64)
      match s.engReach c w a k need with
      | .error e => (s, .error e)
      | .ok t =>
       match s.eccAt t.key (t.key + k - 1) with
       | some b => (s.healed b, .error (.fault (s.eccFault b (BitVec.ofNat 64 a))))
       | none =>
        let v := s.readTgt t k
        let s1 := s.engTouch c a t false first
        match State.engRead c w need fuel s1 (a + k) (n - k) false with
        | (s2, .error e) => (s2, .error e)
        | (s2, .ok l) => (s2, .ok ((List.range k).map (fun i => BitVec.ofNat 8 (v / 2 ^ (8 * i))) ++ l))

/-- Write bytes at an address of a window, block by block; writes performed before a stop stay (R359). -/
def State.engWrite (c : CtxId) (w : Window) : Nat → State → Nat → List Byte → Bool → State × Option EngStop
  | 0, s, _, _, _ => (s, none)
  | fuel + 1, s, a, l, first =>
    if l.isEmpty then (s, none)
    else
      let k := min l.length (64 - a % 64)
      match s.engReach c w a k .write with
      | .error e => (s, some e)
      | .ok t =>
        let s1 := (s.writeTgt (s.ctx c).part c t k (numOf (l.take k)) none).engTouch c a t true first
        State.engWrite c w fuel s1 (a + k) (l.drop k) false

def State.readSide (s : State) (c : CtxId) (w : Window) (a n : Nat) (first : Bool := true) :
    State × Except EngStop (List Byte) :=
  State.engRead c w .read (n + 1) s a n first

def State.writeSide (s : State) (c : CtxId) (w : Window) (a : Nat) (l : List Byte) (first : Bool := true) :
    State × Option EngStop :=
  State.engWrite c w (l.length + 1) s a l first

/-- The tag of the block of an address. -/
def State.sideTag (s : State) (c : CtxId) (w : Window) (a : Nat) : BitVec 16 :=
  match s.engTarget c w a .read with
  | .ok t => s.tagOf t.key
  | .error _ => 0

/-- Write tags of blocks, one after another; those written before a stop stay (R232, R359). -/
def State.writeSideTags (c : CtxId) (w : Window) : List (Nat × BitVec 16) → State → State × Option EngStop
  | [], s => (s, none)
  | (a, v) :: rest, s =>
    match s.engReach c w a 64 .write with
    | .error e => (s, some e)
    | .ok t => State.writeSideTags c w rest (s.setTag t.key v)

/-! ## Copies (R361 to R364) -/

/-- A copy: windows, addresses, run length, dimensions outermost first with both strides, and what it does to block tags. -/
structure Plan where
  sw : Window
  dw : Window
  sa : Int
  da : Int
  run : Nat
  dims : List (Nat × Int × Int)
  carry : Bool
  put : Option (BitVec 8)
  deriving DecidableEq, Repr

/-- Offsets of the runs, in the order of R362. -/
def runsOf : List (Nat × Int × Int) → List (Int × Int)
  | [] => [(0, 0)]
  | (n, a, b) :: rest =>
    (List.range n).flatMap fun (i : Nat) => (runsOf rest).map fun o => (o.1 + (i : Int) * a, o.2 + (i : Int) * b)

/-- A part of a run that lies in one destination sector. -/
structure Piece where
  src : Nat
  dst : Nat
  len : Nat
  deriving DecidableEq, Repr

/-- The parts of a range that lie in one sector each: offset and length. -/
def sectorsOf (a len : Nat) : List (Nat × Nat) :=
  (List.range ((a % 32 + len + 31) / 32)).map fun j => (32 * j - a % 32, min len (32 * (j + 1) - a % 32) - (32 * j - a % 32))

/-- The sectors of the runs, in the order of R362. -/
def Plan.pieces (p : Plan) : List Piece :=
  (runsOf p.dims).flatMap fun o =>
    let sa := (p.sa + o.1).toNat
    let da := (p.da + o.2).toNat
    (sectorsOf da p.run).map fun x => { src := sa + x.1, dst := da + x.1, len := x.2 }

/-- Put what has a place into the groups of its sector. -/
def groupBy {α : Type} (place : α → Nat) (l : List α) : Assoc (List α) :=
  l.foldl (fun t x => insertAt t (place x / 32) (lookupD [] t (place x / 32) ++ [x])) []

/-- What a copy writes at once: of each destination sector all parts of runs, in the order of R362 (R232). -/
def Plan.groups (p : Plan) : List (List Piece) := (groupBy (·.dst) p.pieces).map (·.2)

/-- Source sectors of a part. -/
def Piece.sectors (x : Piece) : List Nat := (sectorsOf x.src x.len).map fun y => (x.src + y.1) / 32

/-- Read sectors of a source that have not been read, each whole and once (R232). -/
def State.readSectors (c : CtxId) (w : Window) : List Nat → Progress → State → State × Progress × Option EngStop
  | [], g, s => (s, g, none)
  | n :: rest, g, s =>
    if g.read.any fun r => r.1 == n then State.readSectors c w rest g s
    else
      let first := match g.read with | r :: _ => r.1 / 8 != n / 8 | [] => true
      match s.readSide c w (32 * n) 32 first with
      | (s1, .error e) => (s1, g, some e)
      | (s1, .ok l) => State.readSectors c w rest { g with read := (n, l) :: g.read } s1

/-- The bytes of a part, once its sectors are read. -/
def Progress.bytesAt (g : Progress) (x : Piece) : List Byte :=
  (List.range x.len).map fun i =>
    match g.read.find? fun r => r.1 == (x.src + i) / 32 with
    | some r => r.2.getD ((x.src + i) % 32) 0
    | none => 0

/-- Write parts of one sector one after another. -/
def State.writePieces (c : CtxId) (w : Window) : List (Nat × List Byte) → Bool → State → State × Option EngStop
  | [], _, s => (s, none)
  | (a, l) :: rest, first, s =>
    match s.writeSide c w a l first with
    | (s1, some e) => (s1, some e)
    | (s1, none) => State.writePieces c w rest false s1

/-- Move sectors one after another; a tag that travels is taken beside the first sector of its block, and written later (R232, R362,
R363). A sector that must wait is not begun. -/
def State.copyGroups (c : CtxId) (p : Plan) : List (List Piece) → Progress → State → State × Except EngStop Progress
  | [], g, s => (s, .ok g)
  | x :: rest, g, s =>
    match State.readSectors c p.sw (x.flatMap Piece.sectors) g s with
    | (s1, g1, some .wait) => (s1, .ok g1)
    | (s1, _, some e) => (s1, .error e)
    | (s1, g1, none) =>
      let first := match x with | y :: _ => g.wrote == 0 || y.dst % 256 < 32 | [] => true
      match State.writePieces c p.dw (x.map fun y => (y.dst, g1.bytesAt y)) first s1 with
      | (_, some .wait) => (s1, .ok g1)
      | (s2, some e) => (s2, .error e)
      | (s2, none) =>
        let tags := (x.filter fun y => p.carry && y.dst % 64 == 0).map fun y => (y.dst, s2.sideTag c p.sw y.src)
        State.copyGroups c p rest { g1 with wrote := g1.wrote + 1, tags := tags.reverse ++ g1.tags } s2

/-- Blocks that the runs of a PUT write wholly take its tag (R368). -/
def Plan.putTags (p : Plan) (f : BitVec 8) : List (Nat × BitVec 16) :=
  let runs := (runsOf p.dims).map fun o => (p.da + o.2).toNat
  let hit (a : Nat) : Bool := runs.any fun r => decide (r ≤ a) && decide (a < r + p.run)
  let blocks := (runs.map fun r => r / 64 * 64).eraseDups
  (blocks.filter fun b => (List.range 64).all fun i => hit (b + i)).map fun b => (b, BitVec.ofNat 16 (256 * f.toNat))

/-- The next writes of a command: all that are left, or as many as a limit lets begin (R374). -/
def firstOf {α : Type} (limit : Option Nat) (l : List α) : List α :=
  match limit with
  | some n => l.take n
  | none => l

/-- A copy goes on from where it stands. -/
def State.runPlan (s : State) (c : CtxId) (p : Plan) (g : Progress) (limit : Option Nat) : State × Except EngStop Progress :=
  State.copyGroups c p (firstOf limit (p.groups.drop g.wrote)) g s

/-- Dimension k of an XCP from its staging register, with strides in bytes (R361). -/
def xcpDim (w : Word) : Nat × Int × Int :=
  let n := w.toNat
  (fld n 48 16 + 1, signedOf 20 (fld n 24 20) * (2 ^ fld n 44 4 : Nat), signedOf 20 (fld n 0 20) * (2 ^ fld n 20 4 : Nat))

/-- The members that an XCP names (R361). -/
def xcpMember (w : Word) (lo : Nat) (on : Bool) : Option Nat := if on then some (fld w.toNat lo 12) else none

/-- The copy that staging values describe, for context c. -/
def State.xcpPlan (s : State) (c : CtxId) (sm dm : Bool) (ops : List Word) : Plan :=
  let r := ops.getD 2 0
  let dims := ((ops.drop 3).map xcpDim).reverse
  let run := fld r.toNat 0 32
  let sa := (ops.getD 0 0)
  let da := (ops.getD 1 0)
  let a := s.sideOf c (xcpMember r 52 sm) sa [] run
  let b := s.sideOf c (xcpMember r 40 dm) da [] run
  { sw := a.1.win, dw := b.1.win, sa := sa.toNat, da := da.toNat, run := run, dims := dims,
    carry := sa.toNat % 64 == 0 && da.toNat % 64 == 0 && run % 64 == 0
      && dims.all fun d => d.2.1 % 64 == 0 && d.2.2 % 64 == 0,
    put := none }

/-- The register that AT reads, after n parameters. -/
def State.atReg (s : State) (b : Fin 16) (at_ : Bool) (n : Nat) : Option Word := if at_ then some (s.xs b n) else none

/-- XCP (R361 to R364): with RUN = 0 its ranges are empty, and only its addresses and members are checked. -/
def execXcp (t : Fin 64) (b : Fin 16) (ndimM1 : Fin 8) (sm dm at_ : Bool) (s : State) : Host.Outcome State Fault Refusal :=
  .next (
    let c := s.iss.ctx
    let nd := ndimM1.val + 1
    let ops := (List.range (2 + nd)).map fun i => s.xs b i
    let r := ops.getD 2 0
    let run := fld r.toNat 0 32
    let dims := (ops.drop 3).map xcpDim
    let a := s.sideOf c (xcpMember r 52 sm) (ops.getD 0 0) (if run = 0 then [] else dims.map fun d => (d.1, d.2.1)) (max 1 run)
    let d := s.sideOf c (xcpMember r 40 dm) (ops.getD 1 0) (if run = 0 then [] else dims.map fun d => (d.1, d.2.2)) (max 1 run)
    let sides := a.2 ++ d.2
    s.xeIssue
      { tag := t, kind := .xcp ndimM1 sm dm, at_ := s.atReg b at_ (2 + nd),
        flaw := if run = 0 then (leastFlaw (sides.filter fun f => f.1 != 4 && f.1 != 8)).map fun f => addrFault f.1 f.2
          else sidesCheck a d (ops.getD 1 0),
        ops := ops, src := if run = 0 then none else a.1.foot, dst := if run = 0 then none else d.1.foot })

/-! ## XCNV (R365, R366) -/

/-- The configuration of an XCNV. -/
structure Cnv where
  ng : Nat
  rows : Nat
  ff : Nat
  two : Bool
  sym : Bool
  sgn : Bool
  p : Nat
  sstd : Nat
  dstd : Nat
  deriving DecidableEq, Repr

def cnvOf (ops : List Word) : Cnv :=
  let w := (ops.getD 2 0).toNat
  let d := (ops.getD 3 0).toNat
  { ng := fld w 48 16, rows := fld w 32 16, ff := fld w 8 3, two := fld w 6 1 == 1, sym := fld w 5 1 == 1,
    sgn := fld w 4 1 == 1, p := fld w 0 4 + 1, sstd := fld d 0 32, dstd := fld d 32 32 }

/-- Element size of a float format code, and the format (R365). -/
def ffBytes (ff : Nat) : Nat := if ff = 0 then 4 else if ff < 3 then 2 else if ff < 5 then 1 else 4

def Cnv.groupBytes (k : Cnv) (planes : Bool) : Nat := if planes then (if k.two then 128 else 64) else 64 * ffBytes k.ff

def Cnv.legal (k : Cnv) (fl : Bool) : Bool :=
  k.ng != 0 && k.rows != 0 && decide (k.ff < 5) && !(k.sym && !k.sgn) && (fl || k.two == decide (8 < k.p))

/-- XCNV at its slot. -/
def State.xcnvIssue (s : State) (t : Fin 64) (b : Fin 16) (fl at_ : Bool) : State :=
  let c := s.iss.ctx
  let ops := (List.range 4).map fun i => s.xs b i
  let k := cnvOf ops
  let sa := ops.getD 0 0
  let da := ops.getD 1 0
  let a := s.sideOf c none sa [(max k.rows 1, (k.sstd : Int))] (k.groupBytes fl * max k.ng 1)
  let d := s.sideOf c none da [(max k.rows 1, (k.dstd : Int))] (k.groupBytes (!fl) * max k.ng 1)
  s.xeIssue
    { tag := t, kind := .xcnv fl, at_ := s.atReg b at_ 4,
      flaw :=
        match sidesCheck a d da with
        | some f => some f
        | none =>
          if sa.toNat % 64 ≠ 0 ∨ k.sstd % 64 ≠ 0 then some (alignFault sa)
          else if da.toNat % 64 ≠ 0 ∨ k.dstd % 64 ≠ 0 then some (alignFault da)
          else if !k.legal fl then some { cause := 0x15, detail := 0x17 } else none,
      ops := ops, src := a.1.foot, dst := d.1.foot }

def execXcnvPl (t : Fin 64) (b : Fin 16) (at_ : Bool) (s : State) : Host.Outcome State Fault Refusal :=
  .next (s.xcnvIssue t b false at_)
def execXcnvFl (t : Fin 64) (b : Fin 16) (at_ : Bool) (s : State) : Host.Outcome State Fault Refusal :=
  .next (s.xcnvIssue t b true at_)

/-- The check of a float source block's tag: none, or the FMT detail: 0x11 for a kind other than packed scalar or a reserved code, 0x12
for another format (R109, R110, R366). -/
def floatTagFlaw (ff : Nat) (t : BitVec 16) : Option Nat :=
  if t = 0 then none
  else if tagKind t ≠ 2 ∨ 9 < tagPm1 t then some 0x11
  else if t.toNat / 256 ≠ 0x80 + ff then some 0x12
  else none

/-- Convert one group of floats to planes: state and what stopped it, or the flags and the tags of its destination. -/
def State.plGroup (s : State) (c : CtxId) (m : Cmd) (k : Cnv) (sw dw : Window) (sa da : Nat) :
    State × Except EngStop (Nat × List (Nat × BitVec 16)) :=
  let es := ffBytes k.ff
  let bad := (List.range es).findSome? fun i => floatTagFlaw k.ff (s.sideTag c sw (sa + 64 * i))
  match s.readSide c sw sa (64 * es) with
  | (s1, .error e) => (s1, .error e)
  | (s1, .ok l) =>
    match bad with
    | some d => (s1, .error (.fault { cause := 0x15, detail := d, faddr := BitVec.ofNat 64 sa }))
    | none =>
      let v := numOf l
      let xs := (List.range 64).map fun i => some ((closeFmt k.ff).decode (lane v (8 * es) i))
      let r := convertGroup k.p k.sgn k.sym m.rm m.sat xs
      let out := r.2.1.flatMap fun b => bytesOf b 64
      match s1.writeSide c dw da out with
      | (s2, some e) => (s2, .error e)
      | (s2, none) =>
        (s2, .ok (r.2.2, (List.range r.2.1.length).map fun h => (da + 64 * h, planeTag k.sgn (h == 1) (k.p - 1) r.1)))

/-- Convert one plane group to floats; `agreed` is the kind of the groups before it. -/
def State.flGroup (s : State) (c : CtxId) (m : Cmd) (k : Cnv) (sw dw : Window) (sa da : Nat) (agreed : Option GroupKind) :
    State × Except EngStop (Nat × GroupKind × List (Nat × BitVec 16)) :=
  let es := ffBytes k.ff
  let t0 := s.sideTag c sw sa
  match s.readSide c sw sa (k.groupBytes true) with
  | (s1, .error e) => (s1, .error e)
  | (s1, .ok l) =>
    match checkGroup k.two k.p agreed t0 (s.sideTag c sw (sa + 64)) with
    | .error (d, h) => (s1, .error (.fault { cause := 0x15, detail := d, faddr := BitVec.ofNat 64 (sa + 64 * h) }))
    | .ok kind =>
      let v := numOf l
      let g : Group := { scale := tagScale t0, sgn := tagSigned t0,
                         words := planeWords [v % 2 ^ 512, v / 2 ^ 512] k.p }
      let el (e : Nat) : Nat × Nat :=
        let q := groupCode g e
        (closeFmt k.ff).deliver m.rm m.sat (.fin (decide (q < 0)) q.natAbs g.weight)
      let out := (List.range 64).flatMap fun e => bytesOf (el e).1 es
      match s1.writeSide c dw da out with
      | (s2, some e) => (s2, .error e)
      | (s2, none) =>
        (s2, .ok (laneFlags (fun e => (el e).2) 6 0, kind,
          (List.range es).map fun h => (da + 64 * h, BitVec.ofNat 16 (256 * (0x80 + k.ff)))))

/-- The progress after one more group: its status gathers flags, its tags wait (R102, R232, R351). -/
def Progress.group (g : Progress) (flags : Nat) (agreed : Option GroupKind) (tags : List (Nat × BitVec 16)) : Progress :=
  { g with wrote := g.wrote + 1, status := g.status ||| statusFlags flags, agreed := agreed, tags := tags.reverse ++ g.tags }

/-- The groups of a conversion one after another. -/
def State.cnvGroups (c : CtxId) (m : Cmd) (k : Cnv) (fl : Bool) (sw dw : Window) (sa da : Nat) :
    List (Nat × Nat) → Progress → State → State × Except EngStop Progress
  | [], p, s => (s, .ok p)
  | (r, g) :: rest, p, s =>
    let a := sa + r * k.sstd + k.groupBytes fl * g
    let d := da + r * k.dstd + k.groupBytes (!fl) * g
    if fl then
      match s.flGroup c m k sw dw a d p.agreed with
      | (s1, .error .wait) => (s1, .ok p)
      | (s1, .error e) => (s1, .error e)
      | (s1, .ok (f, kind, tags)) => State.cnvGroups c m k fl sw dw sa da rest (p.group f (some kind) tags) s1
    else
      match s.plGroup c m k sw dw a d with
      | (s1, .error .wait) => (s1, .ok p)
      | (s1, .error e) => (s1, .error e)
      | (s1, .ok (f, tags)) => State.cnvGroups c m k fl sw dw sa da rest (p.group f none tags) s1

/-- An XCNV goes on from where it stands (R351, R366). -/
def State.runCnv (s : State) (c : CtxId) (m : Cmd) (fl : Bool) (limit : Option Nat) : State × Except EngStop Progress :=
  let k := cnvOf m.ops
  let sa := m.ops.getD 0 0
  let da := m.ops.getD 1 0
  let groups := (List.range k.rows).flatMap fun r => (List.range k.ng).map fun g => (r, g)
  State.cnvGroups c m k fl (s.sideOf c none sa [] 1).1.win (s.sideOf c none da [] 1).1.win sa.toNat da.toNat
    (firstOf limit (groups.drop m.prog.wrote)) m.prog s

/-! ## Shape records (R367 to R370) -/

def recByte (r : BitVec 512) (n len : Nat) : Nat := fld r.toNat (8 * n) (8 * len)

/-- The reserved fields of a record are 0 (R367). -/
def recordOk (r : BitVec 512) : Bool := decide (recByte r 8 1 < 8) && decide (recByte r 9 1 < 4) && recByte r 11 5 == 0

/-- Dimensions of a record: extent and stride of each, dimension 0 first. -/
def recordDims (r : BitVec 512) : List (Nat × Int) :=
  (List.range (recByte r 8 1 % 8 + 1)).map fun k =>
    (recByte r (16 + 2 * k) 2 + 1, signedOf 32 (recByte r (32 + 4 * k) 4))

def recordEsz (r : BitVec 512) : Nat := 2 ^ (recByte r 9 1 % 4)

/-- Dimensions with the dense side's strides, dimension 0 first (R368). -/
def denseDims (es : Nat) : List (Nat × Int) → List (Nat × Int × Int)
  | [] => []
  | (n, st) :: rest => (n, st, (es : Int)) :: denseDims (es * n) rest

/-- The two sides of an XCPR: record and dense. -/
def State.recordSides (s : State) (c : CtxId) (r : BitVec 512) (dense : Word) :
    (Side × List (Nat × Word)) × (Side × List (Nat × Word)) :=
  let es := recordEsz r
  let dims := recordDims r
  let total := dims.foldl (fun n d => n * d.1) es
  (s.sideOf c none (BitVec.ofNat 64 (recByte r 0 8)) dims es, s.sideOf c none dense [] total)

/-- Flaws of the record address (R358, R368). -/
def recordFlaws (a : Word) : List (Nat × Word) :=
  match windowOf a with
  | .error 1 => [(1, a)]
  | .ok .xlate => []
  | _ => [(5, a)]

/-- The record address names a record that can be looked up. -/
def recordNamed (a : Word) : Bool := (recordFlaws a).isEmpty && a.toNat % 64 == 0

/-- XCPR at its slot; its record was looked up when the bundle presented (R369). The address checks come first, then the alignment of the
record, then what its read met, then its own fields (R358). -/
def State.xcprIssue (s : State) (t : Fin 64) (b : Fin 16) (put at_ : Bool) : State :=
  let c := s.iss.ctx
  let ra := s.xs b 0
  let da := s.xs b 1
  let req (f : Option FaultInfo) (r : BitVec 512) (x y : Option Footprint) : XeReq :=
    { tag := t, kind := .xcpr put r, at_ := s.atReg b at_ 2, flaw := f, ops := [ra, da], src := x, dst := y }
  let dense : List (Nat × Word) := match windowOf da with | .error d => [(d, da)] | .ok _ => []
  let early (late : Option FaultInfo) : Option FaultInfo :=
    match leastFlaw (recordFlaws ra ++ dense) with
    | some f => some (addrFault f.1 f.2)
    | none => if ra.toNat % 64 ≠ 0 then some (alignFault ra) else late
  match recordNamed ra, s.ic.record with
  | true, .got r =>
    let sides := s.recordSides c r da
    let x := if put then sides.2 else sides.1
    let y := if put then sides.1 else sides.2
    let f :=
      match sidesCheck x y (if put then BitVec.ofNat 64 (recByte r 0 8) else da) with
      | some f => some f
      | none => if recordOk r then none else some { cause := 0x15, detail := 0x17, faddr := ra }
    s.xeIssue (req f r x.1.foot y.1.foot)
  | true, .failed cause detail => s.xeIssue (req (early (some { cause := cause, detail := detail, faddr := ra })) 0 none none)
  | _, _ => s.xeIssue (req (early none) 0 none none)

def execXcprGet (t : Fin 64) (b : Fin 16) (at_ : Bool) (s : State) : Host.Outcome State Fault Refusal :=
  .next (s.xcprIssue t b false at_)
def execXcprPut (t : Fin 64) (b : Fin 16) (at_ : Bool) (s : State) : Host.Outcome State Fault Refusal :=
  .next (s.xcprIssue t b true at_)

/-- The copy of an XCPR. -/
def State.xcprPlan (s : State) (c : CtxId) (put : Bool) (r : BitVec 512) (dense : Word) : Plan :=
  let es := recordEsz r
  let sides := s.recordSides c r dense
  let dims := (denseDims es (recordDims r)).reverse
  let base : Int := recByte r 0 8
  let f := recByte r 10 1
  { sw := if put then sides.2.1.win else sides.1.1.win, dw := if put then sides.1.1.win else sides.2.1.win,
    sa := if put then dense.toNat else base, da := if put then base else dense.toNat, run := es,
    dims := if put then dims.map (fun d => (d.1, d.2.2, d.2.1)) else dims, carry := false,
    put := if put && f != 0 then some (BitVec.ofNat 8 f) else none }

/-- The record cache after a use or a fill of an entry: 16 entries, most recent first (R369). -/
def cacheRecord (asid : BitVec 14) (a : Word) (r : BitVec 512) (l : List (BitVec 14 × Word × BitVec 512)) :
    List (BitVec 14 × Word × BitVec 512) :=
  ((asid, a, r) :: l.filter fun e => !(e.1 == asid && e.2.1 == a)).take 16

/-- The elastic read of a record takes its time (R369). -/
def State.awaitRecord (s : State) (c : CtxId) : State :=
  let k := (s.ctx c).part.val
  (s.mapCtx c fun x => { x with record := .reading (s.tempo + 1 + s.delay k) }).delayed k

/-- Look a record up when an XCPR presents: a hit is used, a miss starts an elastic read (R369). -/
def State.lookRecord (s : State) (c : CtxId) (a : Word) : State :=
  let asid := (s.ctx c).spr.asid
  match (s.core (coreOf c)).records.find? fun e => e.1 == asid && e.2.1 == a with
  | some e =>
    (s.mapCore (coreOf c) fun k => { k with records := cacheRecord asid a e.2.2 k.records }).mapCtx c fun x =>
      { x with record := .got e.2.2 }
  | none => s.awaitRecord c

/-- The elastic read of a record ends (R369). -/
def State.readRecord (s : State) (c : CtxId) (a : Word) : State :=
  let asid := (s.ctx c).spr.asid
  match s.engReach c (.virt asid) a.toNat 64 .read with
  | .error .wait => s.awaitRecord c
  | .error (.fault f) => s.mapCtx c fun x => { x with record := .failed f.cause f.detail }
  | .error .lost => (s.mapCtx c fun x => { x with record := .got (BitVec.ofNat 512 (Config.freeBits s.draws 1008)) }).drawn
  | .ok t =>
   match s.eccAt t.key (t.key + 63) with
   | some b => (s.healed b).mapCtx c fun x => { x with record := .failed 0x40 (eccDetail b) }
   | none =>
    let r : BitVec 512 := BitVec.ofNat 512 (s.readTgt t 64)
    ((s.engTouch c a.toNat t false true).mapCore (coreOf c) fun k =>
      { k with records := cacheRecord asid a r k.records }).mapCtx c fun x => { x with record := .got r }

/-- RFEN invalidates the entries of the context's ASID (R370). -/
def execRfen (s : State) : Host.Outcome State Fault Refusal :=
  .next (s.mapCore (coreOf s.iss.ctx) fun k =>
    { k with records := k.records.filter fun e => e.1 != s.ic.spr.asid })

/-! ## Code fills (02 R69 to R75, R371) -/

/-- One bit of CRC-32C in reflected form. -/
def crcBit (x : BitVec 32) : BitVec 32 := if x.getLsbD 0 then (x >>> 1) ^^^ 0x82F63B78 else x >>> 1

def crcByte (x : BitVec 32) (b : Byte) : BitVec 32 :=
  crcBit (crcBit (crcBit (crcBit (crcBit (crcBit (crcBit (crcBit (x ^^^ b.zeroExtend 32))))))))

/-- CRC-32C (R73). -/
def crc32c (l : List Byte) : BitVec 32 := ~~~(l.foldl crcByte (BitVec.allOnes 32))

/-- Statuses of a fill (R74, R360); `wait` is none: the ring does not carry the fill now. -/
inductive FillStatus | ok | crc | addr | full | lost | wait
  deriving DecidableEq, Repr

/-- The status as CODE has it (R351). -/
def FillStatus.xst : FillStatus → Option Nat
  | .ok => some 0 | .lost => some 0x20 | .crc => some 0x60 | .addr => some 0x80 | .full => some 0xA0 | .wait => none

/-- A fill in progress: bundles written so far, last first, and the working table (R71, R72); the entries that its update blocks have
written, and those that it has used before writing them (R90); and what it has read, last first, as address and length. -/
structure Fill where
  bundles : List Bundle
  count : Nat
  table : Assoc Template
  wrote : List Nat := []
  used : List Nat := []
  read : List (Nat × Nat) := []
  deriving Repr

/-- Replace the masked slots of a template's bundle by literals (R71): none when the body ends inside one. -/
def patchSlots (mask : Byte) : List (Fin 8) → Bundle → List Byte → Option (Bundle × List Byte)
  | [], b, l => some (b, l)
  | k :: rest, b, l =>
    if mask.getLsbD k.val then
      if l.length < 4 then none
      else
        let lit : Bundle := BitVec.ofNat 256 (numOf (l.take 4))
        let hole : Bundle := (BitVec.ofNat 256 (2 ^ 32 - 1)) <<< (32 * k.val)
        patchSlots mask rest ((b &&& ~~~hole) ||| (lit <<< (32 * k.val))) (l.drop 4)
    else patchSlots mask rest b l

/-- An unwritten template entry: a bundle of zeros and no patch. -/
def Template.empty : Template := { bundle := 0, mask := 0 }

/-- Expand tokens until the body ends: the bundles made, or the status that stopped it (R70, R71, R74). -/
def expandTokens : Nat → List Byte → Fill → Nat → Fill × Except FillStatus Nat
  | 0, _, f, made => (f, .ok made)
  | fuel + 1, l, f, made =>
    match l with
    | [] => (f, .ok made)
    | _ =>
      let tok := numOf (l.take 2)
      let rest := l.drop 2
      let put (f : Fill) (b : Bundle) (l : List Byte) : Fill × Except FillStatus Nat :=
        if 4096 ≤ f.count then (f, .error .full)
        else expandTokens fuel l { f with bundles := b :: f.bundles, count := f.count + 1 } (made + 1)
      if l.length < 2 then (f, .error .crc)
      else if tok = 0xFFFF then
        if rest.length < 32 then (f, .error .crc) else put f (BitVec.ofNat 256 (numOf (rest.take 32))) (rest.drop 32)
      else if tok < 512 then
        let t := lookupD Template.empty f.table tok
        let g := if f.wrote.contains tok then f else { f with used := tok :: f.used }
        match patchSlots t.mask (List.finRange 8) t.bundle rest with
        | none => (f, .error .crc)
        | some (b, l1) => put g b l1
      else (f, .error .crc)

/-- The records of an update block: n of them (R72). -/
def updateRecords : Nat → List Byte → Assoc Template → Option (Assoc Template × List Byte)
  | 0, l, t => some (t, l)
  | n + 1, l, t =>
    let idx := numOf (l.take 2)
    if l.length < 36 ∨ 512 ≤ idx ∨ numOf ((l.drop 3).take 1) ≠ 0 then none
    else
      let e : Template := { mask := BitVec.ofNat 8 (numOf ((l.drop 2).take 1)),
                            bundle := BitVec.ofNat 256 (numOf ((l.drop 4).take 32)) }
      updateRecords n (l.drop 36) (insertAt t idx e)

/-- The update block at the head of a body (R72): none, and so CRC, where it runs out of body or is malformed (DESIGN CHOICE, log entry
108). -/
def updateBlock (l : List Byte) (t : Assoc Template) : Option (Assoc Template × List Byte) :=
  let n := numOf (l.take 2)
  if l.length < 2 ∨ n = 0 ∨ 512 < n then none else updateRecords n (l.drop 2) t

/-- The entries that the n records of an update block write (R72). -/
def updateIndices (n : Nat) (l : List Byte) : List Nat := (List.range n).map fun i => numOf ((l.drop (36 * i)).take 2)

/-- One segment's body (R72, R74). -/
def expandBody (tupd : Bool) (l : List Byte) (f : Fill) : Fill × Except FillStatus Nat :=
  if tupd then
    match updateBlock l f.table with
    | none => (f, .error .crc)
    | some (t, l1) =>
      expandTokens (l1.length + 1) l1 { f with table := t, wrote := updateIndices (numOf (l.take 2)) (l.drop 2) ++ f.wrote } 0
  else expandTokens (l.length + 1) l f 0

/-- A reader of code: n bytes at an address; ADDR where a page is missing or may not be fetched, CRC where an uncorrectable error is met
(R371). -/
abbrev CodeReader := Nat → Nat → Except FillStatus (List Byte)

/-- Follow a chain of segments (R69, R74): the fill, ENTRY of the first segment, and the status; no status when the chain is
longer than the fuel, for such a fill does not end. -/
def fillSegments (read : CodeReader) : Nat → Nat → Bool → Nat → Fill → Fill × Nat × Option FillStatus
  | 0, _, _, entry, f => (f, entry, none)
  | fuel + 1, a, first, entry, f =>
    if a % 32 ≠ 0 then (f, entry, some .addr)
    else
      match read a 32 with
      | .error st => (f, entry, some st)
      | .ok h =>
        let f : Fill := { f with read := (a, 32) :: f.read }
        let n := numOf h
        let len := fld n 32 32
        let next := fld n 64 64
        let ent := fld n 128 16
        let flags := fld n 144 16
        let entry1 := if first then ent else entry
        if fld n 0 32 ≠ 0x5A475345 ∨ fld n 224 32 ≠ 0 ∨ 4 ≤ flags ∨ (first = false ∧ ent ≠ 0) then (f, entry1, some .crc)
        else
          match read (a + 32) len with
          | .error st => (f, entry1, some st)
          | .ok body =>
            let f : Fill := { f with read := (a + 32, len) :: f.read }
            if (crc32c body).toNat ≠ fld n 160 32 then (f, entry1, some .crc)
            else
              match expandBody (flags / 2 % 2 == 1) body f with
              | (f1, .error st) => (f1, entry1, some st)
              | (f1, .ok made) =>
                if made ≠ fld n 192 32 then (f1, entry1, some .crc)
                else if flags % 2 = 1 ∨ next = 0 then (f1, entry1, some (if entry1 < f1.count then .ok else .crc))
                else fillSegments read fuel next false entry1 f1

/-- Segments that a fill follows: more than any fill that ends has. A chain that passes 2^51 segments without a bundle comes back to one of
them with the table as it left it, and a fill of more than 4,096 bundles ends. -/
def fillFuel : Nat := 4098 * 2 ^ 52

/-- Code of a context's translated space (R371); traffic that is lost ends the fill LOST (R360). -/
def State.codeReader (s : State) (c : CtxId) : CodeReader := fun a n =>
  if 2 ^ 56 < a + n ∨ a < 2 ^ 32 then .error .addr
  else
    match (State.engRead c (.virt (s.ctx c).spr.asid) .code (n + 1) s a n true).2 with
    | .ok l => .ok l
    | .error (.fault f) => .error (if f.cause = 0x40 then .crc else .addr)
    | .error .lost => .error .lost
    | .error .wait => .error .wait

/-- Put bundles into the code of a core from an index on. -/
def putBundles (code : Assoc Bundle) : Nat → List Bundle → Assoc Bundle
  | _, [] => code
  | i, b :: rest => putBundles (insertAt code i b) (i + 1) rest

/-- The outcome of a fill in its chamber (R75, R140, R141). -/
def Core.fillDone (k : Core) (b : Bool) (seg : Word) (f : Fill) (entry : Nat) (st : FillStatus) : Core :=
  let base := 4096 * b.toNat
  { k.setChamber b
      { (k.chamber b) with
        valid := false, filled := f.count, entry := entry, ok := st == .ok,
        seg := if st = .ok then seg else (k.chamber b).seg } with
    code := putBundles (k.code.filter fun e => decide (e.1 < base) || decide (base + 4096 ≤ e.1)) base f.bundles.reverse
    working := if st = .ok then (b, f.table) :: k.working.filter (fun w => w.1 != b) else k.working.filter fun w => w.1 != b }

/-- XPF (R371): a primary context only. Its chamber is the one other than the active chamber of its bundle (log entry 102). -/
def execXpf (t : Fin 64) (b : Fin 16) (at_ : Bool) (s : State) : Host.Outcome State Fault Refusal :=
  .next (
    if s.ic.ctl.kind ≠ .primary then s.fault { cause := 0x04, detail := 0 }
    else
      s.xeIssue
        { tag := t, kind := .xpf, at_ := s.atReg b at_ 1, flaw := none, ops := [s.xs b 0], src := none,
          dst := footOf (.chamber (!s.ic.ctl.chamberB)) 0 (32 * 4096) })

/-- The chamber that an XPF fills. -/
def Cmd.chamber (m : Cmd) : Bool :=
  match m.dst with
  | some f => match f.win with | .chamber b => b | _ => false
  | none => false

/-- The start of a fill makes its chamber invalid (R75), drops the working table of its last fill, and takes the template table as it
stands then (R72). So does XCAN (R374). -/
def Core.fillStart (k : Core) (b : Bool) : Core :=
  { k.setChamber b { (k.chamber b) with valid := false, ok := false, table := k.templates } with working := k.working.filter fun w => w.1 != b }

/-- The reads of a fill leave behind what engine reads do (R217, R493, R498, R499). -/
def State.fetched (s : State) (c : CtxId) (f : Fill) : State :=
  f.read.reverse.foldl (fun s r => (State.engRead c (.virt (s.ctx c).spr.asid) .code (r.2 + 1) s r.1 r.2 true).1) s

/-- The end of an XPF: its status, none when it does not end. -/
def State.runXpf (s : State) (c : CtxId) (m : Cmd) : State × Option Nat :=
  let k := s.core (coreOf c)
  let r := fillSegments (s.codeReader c) fillFuel ((m.ops.getD 0 0).toNat) true 0
    { bundles := [], count := 0, table := (k.chamber m.chamber).table }
  match r.2.2 with
  | none | some .wait => (s, none)
  | some st => ((s.fetched c r.1).mapCore (coreOf c) fun k => k.fillDone m.chamber (m.ops.getD 0 0) r.1 r.2.1 st, st.xst)

/-! ## Expert routing (R372, R373) -/

/-- Parameters of an XRTE. -/
structure Route where
  ids : Word
  caps : Word
  out : Word
  cnt : Word
  drop : Word
  x : Nat
  t : Nat
  lstd : Nat
  tb : Nat
  deriving DecidableEq, Repr

def routeOf (ops : List Word) : Route :=
  let w := (ops.getD 5 0).toNat
  let v := (ops.getD 6 0).toNat
  { ids := ops.getD 0 0, caps := ops.getD 1 0, out := ops.getD 2 0, cnt := ops.getD 3 0, drop := ops.getD 4 0,
    x := fld w 32 16 + 1, t := fld w 0 32, lstd := fld v 32 32, tb := fld v 0 32 }

/-- Bounding range of several parts of one side, with its flaws; parts in several windows give ADDR, detail 0x02. -/
def State.partsSide (s : State) (c : CtxId) (parts : List (Word × Nat)) : Side × List (Nat × Word) :=
  let sides := parts.map fun p => s.sideOf c none p.1 [] p.2
  let used := parts.filter fun p => p.2 != 0
  let lo := used.foldl (fun m p => min m p.1.toNat) (2 ^ 64)
  let hi := used.foldl (fun m p => max m (p.1.toNat + p.2)) 0
  let w := match sides with | x :: _ => x.1.win | [] => .chamber false
  let split := sides.any fun x => x.1.win != w
  let first := match parts with | p :: _ => p.1 | [] => 0
  ({ win := w, lo := lo, len := hi - lo }, (sides.flatMap (·.2)) ++ (if split then [(2, first)] else []))

/-- XRTE at its slot. -/
def execXrte (t : Fin 64) (b : Fin 16) (at_ : Bool) (s : State) : Host.Outcome State Fault Refusal :=
  .next (
    let c := s.iss.ctx
    let ops := (List.range 7).map fun i => s.xs b i
    let r := routeOf ops
    let a := s.partsSide c [(r.ids, 2 * r.t), (r.caps, 4 * r.x)]
    let d := s.partsSide c [(r.out, r.x * r.lstd), (r.cnt, 4 * r.x + 4), (r.drop, 4 * r.t)]
    let odd := [(r.ids, 2), (r.caps, 4), (r.out, 4), (r.cnt, 4), (r.drop, 4)].find? fun p => p.1.toNat % p.2 != 0
    s.xeIssue
      { tag := t, kind := .xrte, at_ := s.atReg b at_ 7,
        flaw :=
          match sidesCheck a d r.out with
          | some f => some f
          | none =>
            match odd with
            | some p => some (alignFault p.1)
            | none =>
              if 4096 < r.x ∨ r.t = 0 ∨ 2 ^ 24 < r.t ∨ r.lstd % 4 ≠ 0 then some { cause := 0x15, detail := 0x17 } else none,
        ops := ops, src := a.1.foot, dst := d.1.foot })

/-- The lists of XRTE: writes as (address, value), counts by expert, and the number dropped; tokens from i on (R373). -/
def routeTokens (r : Route) (lim : Nat → Nat) (id : Nat → Nat) :
    Nat → Nat → Assoc Nat → Nat → List (Nat × Nat) × Assoc Nat × Nat
  | 0, _, n, nd => ([], n, nd)
  | left + 1, i, n, nd =>
    let e := id i
    let tok := (r.tb + i) % 2 ^ 32
    if e < r.x ∧ lookupD 0 n e < lim e then
      let rest := routeTokens r lim id left (i + 1) (insertAt n e (lookupD 0 n e + 1)) nd
      ((r.out.toNat + e * r.lstd + 4 * lookupD 0 n e, tok) :: rest.1, rest.2)
    else
      let rest := routeTokens r lim id left (i + 1) n (nd + 1)
      ((r.drop.toNat + 4 * nd, tok) :: rest.1, rest.2)

/-- Write 32-bit words, those of one sector at once (R232). -/
def State.writeWords (c : CtxId) (w : Window) : List (List (Nat × Nat)) → Progress → State → State × Except EngStop Progress
  | [], g, s => (s, .ok g)
  | x :: rest, g, s =>
    match State.writePieces c w (x.map fun y => (y.1, bytesOf y.2 4)) true s with
    | (_, some .wait) => (s, .ok g)
    | (s1, some e) => (s1, .error e)
    | (s1, none) => State.writeWords c w rest { g with wrote := g.wrote + 1 } s1

/-- The words that an XRTE is to write, by sector. -/
def Progress.wordGroups (g : Progress) : List (List (Nat × Nat)) := (groupBy (·.1) g.words).map (·.2)

/-- An XRTE reads every id and capacity before it writes: the words that it is to write, and its status (R351, R373). -/
def State.readRoute (s : State) (c : CtxId) (m : Cmd) : State × Except EngStop Progress :=
  let r := routeOf m.ops
  let sw := (s.sideOf c none r.ids [] 1).1.win
  match s.readSide c sw r.ids.toNat (2 * r.t) with
  | (s1, .error e) => (s1, .error e)
  | (s1, .ok ids) =>
    match s1.readSide c sw r.caps.toNat (4 * r.x) with
    | (s2, .error e) => (s2, .error e)
    | (s2, .ok caps) =>
      let vi := numOf ids
      let vc := numOf caps
      let out := routeTokens r (fun e => min (lane vc 32 e) (r.lstd / 4)) (lane vi 16) r.t 0 [] 0
      let counts := (List.range r.x).map fun e => (r.cnt.toNat + 4 * e, lookupD 0 out.2.1 e)
      (s2, .ok { m.prog with words := out.1 ++ counts ++ [(r.cnt.toNat + 4 * r.x, out.2.2)], status := if out.2.2 = 0 then 0 else 0xC0 })

/-- An XRTE goes on from where it stands. -/
def State.runRoute (s : State) (c : CtxId) (m : Cmd) (limit : Option Nat) : State × Except EngStop Progress :=
  let dw := (s.sideOf c none (routeOf m.ops).cnt [] 1).1.win
  match if m.prog.stage = 0 then s.readRoute c m else (s, .ok m.prog) with
  | (s1, .error e) => (s1, .error e)
  | (s1, .ok g) => State.writeWords c dw (firstOf limit (g.wordGroups.drop g.wrote)) g s1

/-- The condition stops a command: its writes stay, its tag stays in flight, and the context freezes (R359). -/
def State.stopCmd (s : State) (c : CtxId) (m : Cmd) (f : FaultInfo) : State :=
  (s.mapCmd c m.tag fun x => { x with stopped := true }).deferItem c
    { cause := f.cause, detail := f.detail, slot := 7, tag := m.tag.val, pc := m.pc, addr := f.faddr,
      ops := m.ops ++ m.atw.toList, what := .xe m.tag, chain := 0xFF, link := 0xFF, aux := f.aux, place := f.place }

/-- A fabric command (R393). -/
def CmdKind.isFabric : CmdKind → Bool
  | .xwr _ | .xrd _ | .xatm _ => true
  | _ => false

/-! ## XCAN (R374) -/

/-- XCAN acts on the command that holds the tag 2 tempo later. -/
def execXcan (t : Fin 64) (s : State) : Host.Outcome State Fault Refusal :=
  .next (s.land 2 (.xcan t))

end Sys2Proof.Machine
end

