-- ==== Sys2Proof/Machine/Fabric.lean ====
section
/-! DEFINITION. Fabric commands and the rings (14 R376 to R405): timed slots, elastic packets with their incarnations and sumps, and
dead segments. -/

namespace Sys2Proof.Machine

/-! ## Slots (R378, R379; log entry 121) -/

/-- Header bytes 0 to 27 and the CRC over them and the payload. -/
def slotHeader (kind part sinc dinc src gadr seq hadr : Nat) (payload : List Byte) (len : Nat) : List Byte :=
  let h := bytesOf (kind + 2 ^ 8 * part + 2 ^ 16 * sinc + 2 ^ 32 * dinc + 2 ^ 48 * src + 2 ^ 64 * gadr + 2 ^ 128 * seq + 2 ^ 144 * len
    + 2 ^ 160 * hadr) 28
  h ++ bytesOf (crc32c (h ++ payload)).toNat 4

/-- Global address of a core's scratchpad in a package: what an answer and a timed slot name (DESIGN CHOICE, log entry 121). -/
def coreGadr (pkg : BitVec 12) (c : CtxId) : Nat := pkg.toNat * 2 ^ 43 + keyScratch (coreOf c) 0

/-- SRC of a header: a package and a die of it. -/
def srcField (pkg : BitVec 12) (d : DieId) : Nat := 8 * pkg.toNat + d.val

/-- The header of a timed slot from context c. -/
def State.timedWire (s : State) (c : CtxId) (dst : Option CtxId) (bytes : List Byte) : List Byte :=
  let d := dst.getD c
  slotHeader 0x10 (s.ctx c).part.val (s.ctx c).incarn.toNat (s.ctx d).incarn.toNat (srcField s.pkg.id (dieOf (coreOf c)))
    (coreGadr s.pkg.id d) 0 0 bytes bytes.length

/-! ## XSND and XRCV (R386 to R388, R404) -/

/-- First entry and number of slots of a timed command. -/
def timedEntry (w : Word) : Nat := fld w.toNat 32 12
def timedCount (w : Word) : Nat := fld w.toNat 56 8 + 1

/-- The timetable of a context's gang. -/
def State.timesOf (s : State) (c : CtxId) : List TimeEntry :=
  match s.gangOf c with
  | some g => g.kernel.times
  | none => []

/-- The entries of a timed command serve it (R387). -/
def entriesOk (snd : Bool) (lidx : Nat) (es : List TimeEntry) (n : Nat) : Bool :=
  es.length == n &&
    match es with
    | [] => false
    | e :: rest =>
      (if snd then e.snd else e.rcv) == lidx
        && rest.all fun f => f.snd == e.snd && f.rcv == e.rcv && f.sub == e.sub && f.desc == e.desc

/-- A timed command at its slot (R387). -/
def State.timedIssue (s : State) (t : Fin 64) (b : Fin 16) (snd : Bool) : State :=
  let c := s.iss.ctx
  let adr := s.xs b 0
  let w := s.xs b 1
  let n := timedCount w
  let es := ((s.timesOf c).drop (timedEntry w)).take n
  let tt := fld w.toNat 0 32
  let foot := footOf (.scratch (coreOf c)) adr.toNat (256 * n)
  let meets (m : Cmd) : Bool := overlapOpt m.dst foot || overlapOpt m.also foot || (!snd && overlapOpt m.src foot)
  if s.timedPrimary c = false then s.fault { cause := 0x04, detail := 0 }
  else
    s.xeIssue
      { tag := t, kind := if snd then .xsnd else .xrcv, at_ := none, ops := [adr, w],
        src := if snd then foot else none, dst := if snd then none else foot,
        flaw :=
          if 0x3FFFFF < adr.toNat + 256 * n - 1 then some (addrFault 8 adr)
          else if adr.toNat % 32 ≠ 0 then some (alignFault adr)
          else if !entriesOk snd s.ic.spr.lidx.toNat es n then some { cause := 0x15, detail := 0x18 }
          else if tt < s.ttempo c + 2 then some { cause := 0x20, detail := 0x0A }
          else if es.head?.map (fun e => e.off + if snd then 0 else 64) ≠ some tt then some { cause := 0x20, detail := 0x0B }
          else if (s.cmdsOf c).any meets then some { cause := 0x14, detail := 9 } else none }

def execXsnd (t : Fin 64) (b : Fin 16) (s : State) : Host.Outcome State Fault Refusal := .next (s.timedIssue t b true)
def execXrcv (t : Fin 64) (b : Fin 16) (s : State) : Host.Outcome State Fault Refusal := .next (s.timedIssue t b false)

def CmdKind.isSnd : CmdKind → Bool | .xsnd => true | _ => false
def CmdKind.isRcv : CmdKind → Bool | .xrcv => true | _ => false

/-- The slots of a timed command that are not done. -/
def Cmd.slotsLeft (m : Cmd) : List Nat := (List.range (timedCount (m.ops.getD 1 0))).filter fun k => !m.slots.contains k

/-- The timetable entry that slot k of a timed command uses (R386). -/
def Cmd.entryOf (m : Cmd) (k : Nat) : Nat := timedEntry (m.ops.getD 1 0) + k

/-- The scratchpad address of slot k of a timed command (R386). -/
def Cmd.slotAddr (m : Cmd) (k : Nat) : Nat := (m.ops.getD 0 0).toNat + 256 * k

/-- Slot k is done. -/
def Cmd.slotDone (m : Cmd) (k : Nat) : Cmd := { m with slots := m.slots ++ [k] }

/-- Task tempo at which an entry leaves its sender's station. -/
def State.offOf (s : State) (c : CtxId) (e : Nat) : Nat := match (s.timesOf c)[e]? with | some x => x.off | none => 0

/-- The slot of an XSND that is to be read now, 2 tempo before it leaves (R388). -/
def State.sendSlot? (s : State) (c : CtxId) (m : Cmd) : Option Nat :=
  if m.kind.isSnd && !s.heldCtx c then m.slotsLeft.find? fun k => decide (s.offOf c (m.entryOf k) ≤ s.ttempo c + 2) else none

/-- The receiver of an entry. -/
def Gang.receiver (g : Gang) (e : Nat) : Option CtxId :=
  match g.kernel.times[e]? with
  | some x => g.members[x.rcv]?
  | none => none

/-- The sender of an entry. -/
def Gang.sender (g : Gang) (e : Nat) : Option CtxId :=
  match g.kernel.times[e]? with
  | some x => g.members[x.snd]?
  | none => none

/-- The die from which an entry sends. -/
def Gang.sendDie (g : Gang) (e : Nat) : DieId := match g.sender e with | some c => dieOf (coreOf c) | none => 0

/-- TIMED_SLOT_SEND: the slot of an XSND that is due is read, to be injected at its OFF (R388); a dead entry carries nothing (R400). -/
def execTimedSlotSend (c : CtxId) (t : Fin 64) (s : State) : Host.Outcome State Fault Refusal :=
  .next (
    match s.cmd? c t, s.gangOf c with
    | some m, some g =>
      match s.sendSlot? c m with
      | some k =>
        let e := m.entryOf k
        let bytes := readBytes s.mem (keyScratch (coreOf c) (m.slotAddr k)) 256
        let dead := match (s.timesOf c)[e]? with | some x => x.dead | none => true
        let s1 := s.mapCmd c t fun m => m.slotDone k
        if dead then s1
        else
          { s1 with timed := s1.timed ++
              [{ gang := g.id, entry := e, data := some bytes, waiting := false, wire := s.timedWire c (g.receiver e) bytes }] }
      | none => s
    | _, _ => s)

/-- A timed command is complete: an XSND once its last slot has left, an XRCV once its last has performed (R388). -/
def State.timedDone (s : State) (c : CtxId) (m : Cmd) : Bool :=
  m.slotsLeft.isEmpty && !s.heldCtx c
    && (if m.kind.isSnd then
          (List.range (timedCount (m.ops.getD 1 0))).all fun k => decide (s.offOf c (m.entryOf k) ≤ s.ttempo c)
        else m.kind.isRcv)

/-- A deferred condition of a timetable entry (R389, R390, R400). -/
def State.deferTiming (s : State) (c : CtxId) (detail e : Nat) : State :=
  s.deferItem c
    { cause := 0x20, detail := detail, slot := 7, tag := 0xFF, pc := (s.ctx c).ctl.pc, addr := 0, ops := [], what := .none,
      chain := 0xFF, link := 0xFF, aux := BitVec.ofNat 64 e }

/-- The XRCV of an entry was cancelled: its slot raises no TIMING (R404). -/
def State.muted (s : State) (g e : Nat) : Bool := s.timed.any fun y => y.gang == g && y.entry == e && y.data.isNone

/-- The receiver of an entry takes TIMING for it, unless it has given the slot up (R390, R400, R404). -/
def State.noteTiming (s : State) (g : Gang) (detail e : Nat) : State :=
  match g.receiver e with
  | some c => if s.muted g.id e then s else s.deferTiming c detail e
  | none => s

/-- A slot has left its sender's station: at its OFF (R385, R388). -/
def State.slotSent (s : State) (y : TimedSlot) : Bool :=
  y.data.isSome && !y.waiting &&
    match s.gang? y.gang with
    | some g => (match g.sender y.entry with | some c => decide (s.offOf c y.entry ≤ s.ttempo c) | none => false)
    | none => false

/-- The XRCV of a context that waits for an entry, and its slot. -/
def State.posted? (s : State) (c : CtxId) (e : Nat) : Option (Cmd × Nat) :=
  (s.cmdsOf c).findSome? fun m =>
    if m.kind.isRcv then (m.slotsLeft.find? fun k => m.entryOf k == e).map fun k => (m, k) else none

/-- Entry e of gang g has its delivery tempo: OFF + 64 in task tempo (R385). -/
def State.deliverDue (s : State) (g : Gang) (e : Nat) : Bool :=
  match g.receiver e, g.kernel.times[e]? with
  | some c, some x => !s.heldCtx c && decide (x.off + 64 ≤ s.ttempo c)
  | _, _ => false

/-- A timed slot whose CRC failed is dropped by the receiver's station and counted (R379): the XRCV takes it for an empty one. -/
def State.dropTimed (s : State) (x : Gang) (e : Nat) (c : CtxId) : State :=
  s.countSump (dieOf (coreOf c)) (x.sendDie e) .dead

/-- TIMED_SLOT_DELIVER: a timed slot is written at its delivery tempo, or found without an XRCV and discarded (R385, R388, R389).
A listed slot without data stands for one that a cancelled XRCV gave up (R404). Whether the CRC of the slot holds is the outside's. -/
def execTimedSlotDeliver (g : Nat) (slot : Nat × Bool) (s : State) : Host.Outcome State Fault Refusal :=
  let e := slot.1
  let crcOk := slot.2
  .next (
    match s.gang? g with
    | none => s
    | some x =>
      match x.receiver e with
      | none => s
      | some c =>
        if !s.deliverDue x e then s
        else
          let mine (y : TimedSlot) : Bool := y.gang == g && y.entry == e
          let here := s.timed.filter mine
          let came := here.findSome? fun y => y.data
          let data := if crcOk then came else none
          let muted := s.muted g e
          let s0 : State := { s with timed := s.timed.filter fun y => !mine y }
          let s1 := if came.isSome && !crcOk then s0.dropTimed x e c else s0
          match s1.posted? c e, data with
          | some (m, k), some bytes =>
            (s1.setMem (writeBytes s1.mem (keyScratch (coreOf c) (m.slotAddr k)) bytes)).mapCmd
              c m.tag fun m => { m.slotDone k with slotsData := true }
          | some (m, k), none => s1.mapCmd c m.tag fun m => m.slotDone k
          | none, some _ => if muted then s1 else s1.deferTiming c 0x0C e
          | none, none => s1)

/-- Slots of a sub-ring and direction that wait at a die (R390). -/
def State.holdCount (s : State) (d : DieId) (sub : Fin 4) (desc : Bool) : Nat :=
  (s.timed.filter fun y => y.waiting &&
    match s.gang? y.gang with
    | some g =>
      (match g.receiver y.entry, g.kernel.times[y.entry]? with
       | some c, some e => dieOf (coreOf c) == d && e.sub == sub && e.desc == desc
       | _, _ => false)
    | none => false).length

/-- The slots of a held gang reach their stations: each waits in the hold buffer of 64 slots of its sub-ring and direction, or is
discarded, counted and noted (R390). -/
def State.holdSlots (s : State) (g : Gang) : State :=
  s.timed.foldl (fun s y =>
    if y.gang ≠ g.id ∨ s.slotSent y = false then s
    else
      match g.receiver y.entry, g.kernel.times[y.entry]? with
      | some c, some e =>
        let d := dieOf (coreOf c)
        if s.holdCount d e.sub e.desc < 64 then
          { s with timed := s.timed.map fun z => if z = y then { z with waiting := true } else z }
        else
          ({ s with timed := s.timed.filter fun z => z != y }.countSump d (g.sendDie y.entry) .flush).noteTiming g 9 y.entry
      | _, _ => s) s

/-- HOLD_BUFFER_RELEASE: the hold buffers of a gang that runs again are released; each slot keeps its delivery tempo (R390). -/
def execHoldBufferRelease (g : Nat) (s : State) : Host.Outcome State Fault Refusal :=
  .next (
    match s.gang? g with
    | some x =>
      if x.held.isSome then s
      else { s with timed := s.timed.map fun y => if y.gang = g then { y with waiting := false } else y }
    | none => s)

/-! ## XWR, XRD and XATM (R393 to R395) -/

/-- The local address of a fabric command: in the issuer's core scratchpad (R394). -/
def ladrDetails (a : Word) (n : Nat) : List (Nat × Word) :=
  match windowOf a with
  | .error d => [(d, a)]
  | .ok (.scratch o) => if 0x400000 < o + n then [(8, a)] else []
  | .ok _ => [(5, a)]

/-- The local side of a fabric command. -/
def ladrSide (k : CoreId) (a : Word) (n : Nat) : Side × List (Nat × Word) :=
  ({ win := .scratch k, lo := a.toNat, len := n }, ladrDetails a n)

/-- XWR or XRD at its slot (R394). -/
def State.fabricIssue (s : State) (t : Fin 64) (b : Fin 16) (wr mem at_ : Bool) : State :=
  let c := s.iss.ctx
  let ops := (List.range 3).map fun i => s.xs b i
  let ta := ops.getD 0 0
  let la := ops.getD 1 0
  let w := (ops.getD 2 0).toNat
  let n := fld w 0 8 + 1
  let x := s.sideOf c (if mem then some (fld w 52 12) else none) ta [] n
  let y := ladrSide (coreOf c) la n
  s.xeIssue
    { tag := t, kind := if wr then .xwr mem else .xrd mem, at_ := s.atReg b at_ 3, ops := ops,
      src := if wr then y.1.foot else x.1.foot, dst := if wr then x.1.foot else y.1.foot,
      flaw :=
        match sidesCheck x y (if wr then ta else la) with
        | some f => some f
        | none => if 256 < ta.toNat % 256 + n then some (alignFault ta) else none }

def execXwr (t : Fin 64) (b : Fin 16) (mem at_ : Bool) (s : State) : Host.Outcome State Fault Refusal :=
  .next (s.fabricIssue t b true mem at_)
def execXrd (t : Fin 64) (b : Fin 16) (mem at_ : Bool) (s : State) : Host.Outcome State Fault Refusal :=
  .next (s.fabricIssue t b false mem at_)

/-- Operation and type of an XATM, none when the operation does not take the type (R394). -/
def atomOf (w : Nat) : Option (AOp × AType) :=
  match AOp.ofCode (fld w 8 3), AType.ofCode (fld w 6 2) with
  | some o, some t => if AOp.typeOk o t then some (o, t) else none
  | _, _ => none

/-- XATM (R394). -/
def execXatm (t : Fin 64) (b : Fin 16) (mem at_ : Bool) (s : State) : Host.Outcome State Fault Refusal :=
  .next (
    let c := s.iss.ctx
    let ops := (List.range 5).map fun i => s.xs b i
    let ta := ops.getD 0 0
    let la := ops.getD 3 0
    let w := (ops.getD 4 0).toNat
    let n := if fld w 6 2 = 1 then 8 else 4
    let x := s.sideOf c (if mem then some (fld w 52 12) else none) ta [] n
    let y := ladrSide (coreOf c) la 8
    s.xeIssue
      { tag := t, kind := .xatm mem, at_ := s.atReg b at_ 5, ops := ops, src := x.1.foot, dst := y.1.foot, also := x.1.foot,
        flaw :=
          match sidesCheck x y la with
          | some f => some f
          | none =>
            if ta.toNat % n ≠ 0 then some (alignFault ta)
            else if la.toNat % 8 ≠ 0 then some (alignFault la)
            else if (atomOf w).isNone then some { cause := 0x15, detail := 0x17 } else none })

/-! ## Packets (R379 to R381, R391, R392) -/

/-- A request of a fabric command to a target. -/
def State.request (s : State) (c : CtxId) (m : Cmd) (k : PacketKind) (t : Tgt) (dst : Option CtxId) (bytes : List Byte)
    (len : Nat) (atom : Option (AOp × AType × Word × Word)) : State :=
  s.sendPacket { s.newPacket c k t dst with bytes := bytes, len := len, atom := atom, cmd := m.id }

/-- KIND of a packet's header (R379); a refusal stands as the packet's own place. -/
def PacketKind.code : PacketKind → Byte
  | .write => 0x01 | .read => 0x02 | .readReply => 0x03 | .atomic => 0x04 | .atomicReply => 0x05 | .writeAck => 0x06
  | .drop _ => 0x08 | .hop _ _ => 0x09 | .other c => c

/-- KINDs that the header table does not reserve. -/
def kindKnown (c : Byte) : Bool := (decide (1 ≤ c.toNat) && decide (c.toNat ≤ 10)) || c == 0x10

/-- The target of a hop: the link storage of its link's host (R378). -/
def State.hopKey (s : State) (p : Packet) : Nat :=
  match p.kind with
  | .hop u l =>
    match (s.chain? u).bind fun ch => (ch.link? l.val).map fun k => keyLink (s.hostCore ch k) k.slot.val 0 with
    | some k => s.pkg.id.toNat * 2 ^ 43 + k
    | none => 0
  | _ => 0

/-- The payload that the CRC of a packet covers: of a request to read, zeros; of an atomic, its operation, type and operands (DESIGN
CHOICE, log entry 121). -/
def Packet.payload (p : Packet) : List Byte :=
  match p.kind, p.atom, p.aord with
  | .atomic, some (o, ty, x, ex), _ => bytesOf (o.code + 256 * ty.code) 2 ++ bytesOf x.toNat 8 ++ bytesOf ex.toNat 8
  | .atomic, _, some (fl, n, count, x) => bytesOf fl.toNat 2 ++ bytesOf n.toNat 4 ++ bytesOf count.toNat 4 ++ bytesOf x.toNat 8
  | .read, _, _ => List.replicate p.len 0
  | _, _, _ => p.bytes

/-- Package and die that a packet comes from: an answer comes from the home point of its request (R379, R397). -/
def State.originOf (s : State) (p : Packet) : BitVec 12 × DieId :=
  match p.back, p.tgt with
  | true, some t => (BitVec.ofNat 12 (fld (s.gadr t) 43 12), Fin.ofNat 8 (fld (s.gadr t) 40 3))
  | true, none => (s.pkg.id, p.srcDie)
  | false, _ => (p.srcPkg, dieOf (coreOf p.src))

/-- The global address that a packet names (R378). -/
def State.packetGadr (s : State) (p : Packet) : Nat :=
  if p.back then coreGadr p.srcPkg p.src else match p.tgt with | some t => s.gadr t | none => s.hopKey p

/-- The 32 header bytes of a packet of a KIND (R379). -/
def State.headerAs (s : State) (kind : Byte) (p : Packet) : List Byte :=
  let o := s.originOf p
  slotHeader kind.toNat p.part.val p.sinc.toNat p.dinc.toNat (srcField o.1 o.2) (s.packetGadr p) p.seq.toNat
    (if p.back then 0 else match p.tgt with | some t => t.hadr | none => 0) p.payload p.payload.length

def State.headerOf (s : State) (p : Packet) : List Byte := s.headerAs p.kind.code p

/-- Change a packet by its id. -/
def State.mapPacket (s : State) (n : Nat) (f : Packet → Packet) : State :=
  { s with packets := s.packets.map fun p => if p.id = n then f p else p }

def State.dropPacket (s : State) (n : Nat) : State := { s with packets := s.packets.filter fun p => p.id != n }

def State.packet? (s : State) (n : Nat) : Option Packet := s.packets.find? fun p => p.id == n

/-- An earlier packet of the same partition is pending at the same station (R391). -/
def State.behind (s : State) (p : Packet) : Bool :=
  (s.packets.takeWhile fun q => q.id != p.id).any fun q => q.part == p.part && q.srcDie == p.srcDie && q.at_ == .pending

/-- A packet to another package stands at the bridge station where it leaves: it goes out (R377). -/
def State.leavesPackage (s : State) (p : Packet) : Bool := p.back && p.srcPkg != s.pkg.id

/-- The first packet of another package that stands at the bridge station of this one goes to its home die over the package ring
(R377). -/
def State.enterRing (s : State) : State :=
  match s.pkg.rackIn with
  | [] => s
  | p :: rest =>
    let q := { p with id := s.fresh, at_ := .pending, srcDie := bridgeDie s.pkg.id.toNat }
    ({ s with packets := s.packets ++ [q], fresh := s.fresh + 1, pkg := { s.pkg with rackIn := rest } } : State).later 1
      (.packetInject q.id)

/-- A station puts a packet into a slot, with its header (R379, R391). -/
def State.inject (s : State) (p : Packet) : State :=
  let s1 := (s.mapPacket p.id fun q => { q with at_ := .slot, wire := s.headerOf p }).served p.part p.srcDie
  let s2 := if p.srcPkg != s.pkg.id then s1 else
    s1.setCmds p.src ((s1.cmdsOf p.src).map fun m => if m.id = p.cmd then { m with injected := true } else m)
  s2.later 1 (.packetReceive p.id true true)

/-- PACKET_INJECT: a station puts a pending packet into a slot of an unclaimed sub-ring, in the direction of the route table, the
partitions in turn and the packets of one in order of issue; not while that direction drains (R384, R391, R399). Packet 0 is the next
that the rack ring has brought (R377). -/
def execPacketInject (n : Nat) (s : State) : Host.Outcome State Fault Refusal :=
  .next (
    if n = 0 then s.enterRing
    else
    match s.packet? n with
    | none => s
    | some p =>
      if p.at_ != .pending then s
      else if s.behind p || s.ringBlocked p.srcDie p.dstDie || !s.inTurn p.part p.srcDie then s.later 1 (.packetInject n)
      else s.inject p)

/-- Requests, which a station may refuse and which drop notices answer. -/
def PacketKind.isRequest : PacketKind → Bool
  | .write | .read | .atomic => true
  | _ => false

/-- Incarnation of the endpoint that serves a request (R380). -/
def State.serving (s : State) (p : Packet) : Option (BitVec 16) :=
  match p.dstCtx, p.dstAsid with
  | some d, _ => some (s.ctx d).incarn
  | none, some a => some (s.asidIncarn p.part a)
  | none, none => none

/-- The source of a packet's request is still the one that its table holds; the endpoints of another package are that package's. -/
def State.current (s : State) (p : Packet) (inc : BitVec 16) : Bool := p.srcPkg != s.pkg.id || (s.ctx p.src).incarn == inc

/-- A packet meets incarnations other than those it names (R381): an answer has the endpoints of its request the other way round. -/
def State.stale (s : State) (p : Packet) : Bool :=
  let served := if p.back then p.sinc else p.dinc
  !s.current p (if p.back then p.dinc else p.sinc) || match s.serving p with | some n => n != served | none => false

/-- The die at which an answer leaves the ring: its source, or the bridge station of another package (R377). -/
def State.returnDie (s : State) (p : Packet) : DieId := if p.srcPkg = s.pkg.id then p.srcDie else bridgeDie p.srcPkg.toNat

/-- An answer to a request travels back to its source, with the request's number (R379). -/
def State.answer (s : State) (p : Packet) (k : PacketKind) (bytes : List Byte) : State :=
  let id := s.fresh
  let q : Packet :=
    { p with id := id, kind := k, srcDie := p.dstDie, dstDie := s.returnDie p, back := true,
             sinc := (s.serving p).getD p.dinc, dinc := p.sinc, bytes := bytes, len := bytes.length, at_ := .pending, wire := [] }
  { s with packets := s.packets ++ [q], fresh := s.fresh + 1 }.later 1 (.packetInject id)

/-- An answer has reached its source: the access or the command ends (R193, R195, R395, R396). -/
def State.arrived (s : State) (p : Packet) : State :=
  match p.acc with
  | some n =>
    let s1 := s.dropPacket p.id
    match (s.ctx p.src).elas.find? fun e => e.id == n, p.kind with
    | none, _ => s1
    | some _, .drop _ => s1.endElastic p.src n none true
    | some e, _ => s1.endElastic p.src n ((e.op.elasticResult (numOf p.bytes)).map (·.2)) false
  | none =>
    let s1 := s.mapPacket p.id fun p => { p with at_ := .arrived }
    match (s1.cmdsOf p.src).find? fun m => m.id == p.cmd with
    | some m => s1.later 0 (.engineCommandEnd p.src m.tag false)
    | none => s1.dropPacket p.id

/-- A target n bytes further on. -/
def Tgt.plus (t : Tgt) (n : Nat) : Tgt := { t with key := t.key + n, pa := t.pa + n }

/-- Write bytes at a target, block by block. -/
def State.writeTgtBytes (p : PartId) (c : CtxId) (a : Option AccessKind) : Nat → State → Tgt → List Byte → State
  | 0, s, _, _ => s
  | fuel + 1, s, t, l =>
    if l.isEmpty then s
    else
      let k := min l.length (64 - t.key % 64)
      State.writeTgtBytes p c a fuel (s.writeTgt p c t k (numOf (l.take k)) a) (t.plus k) (l.drop k)

/-- Read n bytes at a target, block by block. -/
def State.readTgtBytes (s : State) : Nat → Tgt → Nat → List Byte
  | 0, _, _ => []
  | fuel + 1, t, n =>
    if n = 0 then []
    else
      let k := min n (64 - t.key % 64)
      bytesOf (s.readTgt t k) k ++ s.readTgtBytes fuel (t.plus k) (n - k)

/-- ASID and source package by which the monitors key a packet's access (R499). -/
def State.monKey (s : State) (p : Packet) : BitVec 14 × BitVec 12 :=
  if p.srcPkg = s.pkg.id then (p.dstAsid.getD (s.ctx p.src).spr.asid, 0) else (0x3FFF, p.srcPkg)

/-- What a request is at its home point, as a FENCE counts it: commands are never counted (R234). -/
def Packet.counts (p : Packet) : Option AccessKind :=
  if p.acc.isSome then some { rd := p.kind == .atomic, wr := true } else none

/-- A request performs at its home point: what it leaves, and its answer (R204, R222, R395). -/
def State.performed (s : State) (p : Packet) (t : Tgt) : State × PacketKind × List Byte :=
  let k := s.monKey p
  match p.kind, p.atom with
  | .write, _ => ((State.writeTgtBytes p.part p.src p.counts (p.bytes.length + 1) s t p.bytes).touchDev p.part k.1 1 k.2 t, .writeAck, [])
  | .read, _ => (s.touchDev p.part k.1 0 k.2 t, .readReply, s.readTgtBytes (p.len + 1) t p.len)
  | .atomic, some (o, ty, x, ex) =>
    let old := s.readTgt t ty.bytes
    let v := atomApply o ty old x.toNat ex.toNat
    ((s.writeTgt p.part p.src t ty.bytes v p.counts).touchDev p.part k.1 2 k.2 t, .atomicReply, bytesOf (atomResult ty old).toNat 8)
  | _, _ => (s, .drop false, [])

/-- A request performs and is answered. -/
def State.performPacket (s : State) (p : Packet) (t : Tgt) : State :=
  let r := s.performed p t
  r.1.answer p r.2.1 r.2.2

/-- A hop reaches its link: a format other than its sender's is a link fault, a link that cannot take it drops it (R327, R334). -/
def State.hopArrive (s : State) (p : Packet) (u l : Nat) : State :=
  let want := match s.chain? u with
    | some ch => (ch.link? (l - 1)).map (·.hop)
    | none => none
  if want.isSome ∧ want ≠ some p.hopFmt then s.faultLink u l 4
  else
    match s.acceptHop u l p.hopFmt p.hopVals with
    | some s1 => s1
    | none =>
      let built := match s.chain? u with
        | some ch => ch.freed.isNone && (ch.link? l).isSome
        | none => false
      if built then s else s.countSump p.dstDie p.srcDie .stale

/-- The sump register that counts a packet (R397). -/
def State.sumpOf (s : State) (p : Packet) : Fin 16 := s.sumpIndex (s.originOf p).1 (s.originOf p).2

/-- The packet is lost with its access or command, on a dead segment or for its CRC: an answer stands for the loss (R379, R401). -/
def State.losePacket (s : State) (p : Packet) : State :=
  if p.srcPkg = s.pkg.id then (s.mapPacket p.id fun q => { q with kind := .drop true }).arrived { p with kind := .drop true }
  else s.dropPacket p.id

/-- A hop was lost on a dead segment (R401): the chain's owner is told the chain, the link that sent it, and how many hops were lost
(R412); the segment has been tested (R436). -/
def State.deferHop (s : State) (u l lost test : Nat) : State :=
  match s.chain? u with
  | some ch => s.deferChain ch 0x41 1 l (BitVec.ofNat 64 lost) 4 test none
  | none => s

/-- A station refuses a request for want of room: it goes round once more, and is then turned into a refusal, KIND 0x07, which its slot
carries back (R379, R392, R396). -/
def State.refusePacket (s : State) (p : Packet) : State :=
  let s0 := s.setCmds p.src ((s.cmdsOf p.src).map fun m => if m.id = p.cmd ∧ p.srcPkg = s.pkg.id then { m with refused := true } else m)
  if p.at_ == .slot then (s0.mapPacket p.id fun q => { q with at_ := .refusedOnce }).later 1 (.packetReceive p.id true true)
  else
    let due := s.tempo + 65 + s.delay p.part.val
    let back := { p with back := true, srcDie := p.dstDie, dstDie := p.srcDie, kind := .other 7, bytes := [], sinc := p.dinc, dinc := p.sinc }
    { (s0.mapPacket p.id (fun q => { q with at_ := .retry due, wire := s.headerAs 7 back })).delayed p.part.val with
      agenda := agendaPut s.agenda due (.requestRetry p.id) }

/-- Bytes that a request reads or writes at its target. -/
def Packet.size (p : Packet) : Nat :=
  match p.kind, p.atom with
  | .write, _ => p.bytes.length
  | _, some (_, ty, _, _) => ty.bytes
  | _, none => p.len

/-- The address that a condition of a request names: that of its access, or the target of its command (R197, R359). -/
def State.packetVa (s : State) (p : Packet) : Word :=
  match p.acc with
  | some n => match (s.ctx p.src).elas.find? fun e => e.id == n with | some e => e.va | none => 0
  | none => match (s.cmdsOf p.src).find? fun m => m.id == p.cmd with | some m => m.ops.getD 0 0 | none => 0

/-- The target of a request under the key that holds now: one of another package is under PRKEY.ID of the partition that it names
(R494). -/
def State.packetTgt (s : State) (p : Packet) (t : Tgt) : Tgt :=
  s.freshKey (if p.srcPkg = s.pkg.id then t else { t with kid := (s.part p.part).prkey.toNat, knum := 0 })

/-- What the home point says to a request (R392). A write of a fabric command meets no uncorrectable error, for R359 names source reads
alone. -/
def State.requestSays (s : State) (p : Packet) (t : Tgt) : HomeSays :=
  match s.homeSays p.part t p.size (p.kind != .read) (s.packetVa p) with
  | .stop f => if f.cause == 0x40 && p.kind == .write && p.acc.isNone then .go else .stop f
  | r => r

/-- A condition stops the access or the command that made a request (R197, R359); one of another package gets a drop notice (DESIGN
CHOICE, log entry 122). -/
def State.stopPacket (s : State) (p : Packet) (f : FaultInfo) : State :=
  let s1 := s.dropPacket p.id
  if p.srcPkg != s.pkg.id then s1.answer p (.drop false) []
  else
    match p.acc with
    | some n => match (s.ctx p.src).elas.find? fun e => e.id == n with | some e => s1.stopElastic p.src e f | none => s1
    | none =>
      match (s.cmdsOf p.src).find? fun m => m.id == p.cmd with
      | some m => (match f.place with | some b => s1.healed b | none => s1).stopCmd p.src m f
      | none => s1

/-- A request to host memory whose link is down: whether a write or an atomic has performed is open (R195, R523; log entry 47). -/
def State.loseRequest (s : State) (p : Packet) (t : Tgt) : State :=
  let s1 := if p.kind != .read && Config.freeBits s.draws 1011 % 2 == 1 then (s.performed p t).1 else s
  (s1.drawn.dropPacket p.id).answer p (.drop false) []

/-- A request performs at its home point: an ordered atomic in its bank's buffer (R204, R208, R222, R395). -/
def State.serveRequest (s : State) (p : Packet) (t : Tgt) : State :=
  match p.aord, p.acc with
  | some (fl, n, count, x), some id =>
    match s.aordBank p.part (p.dstAsid.getD 0) p.src id fl n count x t with
    | .room | .wait => s.refusePacket p
    | .flaw s1 => s1.stopPacket p (addrFault 7 (s.packetVa p))
    | .done s1 => s1.dropPacket p.id
  | _, _ => (s.dropPacket p.id).performPacket p t

/-- A request to the window of another member, which has ended (R360). -/
def State.memberGone (s : State) (p : Packet) : Bool :=
  match p.dstCtx with
  | some d => p.srcPkg == s.pkg.id && d != p.src && ((s.ctx d).run == .free || (s.ctx d).gang != (s.ctx p.src).gang)
  | none => false

/-- A request that its station looks at (R204, R222, R360, R392, R395, R436). -/
def State.takeRequest (s : State) (p : Packet) (t : Tgt) : State :=
  let t := s.packetTgt p t
  if s.memberGone p then (s.dropPacket p.id).answer p (.drop false) []
  else match s.requestSays p t with
  | .go => s.serveRequest p t
  | .wait => s.refusePacket p
  | .lost => s.loseRequest p t
  | .stop f => s.stopPacket p f

/-- The link that a hop is sent to is under test: the hop waits (R436). -/
def State.hopTested (s : State) (u l : Nat) : Bool :=
  match s.chain? u with
  | some ch => (match ch.link? l with | some k => s.slotTested (s.hostCore ch k) k.slot | none => false)
  | none => false

/-- PACKET_RECEIVE: the station checks CRC, KIND and incarnations, refuses a request for want of room, or takes the packet (R379, R381,
R392). `crcOk` and `room` are the outside's. Nothing passes a retired segment (R399). -/
def execPacketReceive (n : Nat) (crcOk room : Bool) (s : State) : Host.Outcome State Fault Refusal :=
  .next (
    match s.packet? n with
    | none => s
    | some p =>
      let sump (f : SumpField) : State := s.countAt p.dstDie (s.sumpOf p) f
      if !(p.at_ == .slot || p.at_ == .refusedOnce) then s
      else if s.routeDead p.srcDie p.dstDie then
        match p.kind with
        | .hop u l => ((sump .dead).dropPacket n).deferHop u (l.val - 1) 1 3
        | _ => (sump .dead).losePacket p
      else if !crcOk || !kindKnown p.kind.code then
        match p.kind with
        | .hop u l => ((sump .dead).dropPacket n).faultLinkBy u l.val 4 true
        | _ => (sump .dead).losePacket p
      else if s.leavesPackage p then
        let s1 := s.dropPacket n
        { s1 with pkg := { s1.pkg with rackOut := s1.pkg.rackOut ++ [p] } }
      else if s.stale p then
        let s1 := (sump .stale).dropPacket n
        if p.kind.isRequest && s.current p p.sinc then s1.answer p (.drop false) [] else s1
      else if p.kind.isRequest && !room then s.refusePacket p
      else
        match p.kind with
        | .hop u l => if s.hopTested u l.val then s.later 1 (.packetReceive n true true) else (s.dropPacket n).hopArrive p u l.val
        | .write | .read | .atomic =>
          match p.tgt with
          | some t => s.takeRequest p t
          | none => s.dropPacket n
        | .other _ => s.dropPacket n
        | _ => s.arrived p)

/-- REQUEST_RETRY: the source sends a refused request again, 64 tempo after the refusal (R392). -/
def execRequestRetry (n : Nat) (s : State) : Host.Outcome State Fault Refusal :=
  .next (
    match s.packet? n with
    | some p =>
      match p.at_ with
      | .retry due => if due ≤ s.tempo then (s.mapPacket n fun p => { p with at_ := .pending }).later 0 (.packetInject n) else s
      | _ => s
    | none => s)

/-! ## Dead segments (R399 to R401) -/

/-- A timetable entry's way crosses a segment. -/
def Gang.entryCrosses (g : Gang) (e : TimeEntry) (d : DieId) (desc : Bool) : Bool :=
  match g.members[e.snd]?, g.members[e.rcv]? with
  | some a, some b => e.desc == desc && crosses (dieOf (coreOf a)) (dieOf (coreOf b)) d desc
  | _, _ => false

/-- A gang that has a timetable on the ring (R399). -/
def Gang.onRing (g : Gang) : Bool := g.kernel.tlen.isSome && !g.kernel.subs.isEmpty

/-- A packet in a slot was on the dead segment: open unless its way cannot cross it (log entry 3). -/
def State.onDead (s : State) (p : Packet) (d : DieId) (desc : Bool) : Bool :=
  (p.at_ == .slot || p.at_ == .refusedOnce) && s.routeOver p.srcDie p.dstDie d desc
    && Config.freeBits s.draws (5000 + p.id) % 2 == 1

/-- Note a slot lost on a dead segment for the report of its drain, with the hop that it carried (R399, R401). -/
def State.noteLost (s : State) (d : DieId) (desc : Bool) (src : Fin 16) (hop : Option (Nat × Nat)) : State :=
  { s with pkg := { s.pkg with drains := s.pkg.drains.map fun x =>
      if x.die = d ∧ x.desc = desc then
        { x with lost := insertAt x.lost src.val (lookupD 0 x.lost src.val + 1), hops := x.hops ++ hop.toList }
      else x } }

/-- A packet lost on the dead segment: a command ends LOST with DEAD; a hop waits for the end of the drain (R401). -/
def State.loseDead (s : State) (p : Packet) (d : DieId) (desc : Bool) : State :=
  let n := s.sumpOf p
  let s1 := s.countAt (nextDie d desc) n .dead
  match p.kind with
  | .hop u l => (s1.dropPacket p.id).noteLost d desc n (some (u, l.val - 1))
  | _ => (s1.losePacket p).noteLost d desc n none

/-- The die to which an address of a context's translated space sends its traffic. -/
def State.dieOfVa (s : State) (c : CtxId) (asid : BitVec 14) (va : Nat) (need : Need) : Option DieId :=
  match s.translate (coreOf c) (s.ctx c).part asid (BitVec.ofNat 64 va) need with
  | .ok t => some (dieOfTgt t)
  | .error _ => none

/-- The die to which a footprint sends a command's traffic. -/
def State.dieOfFoot (s : State) (c : CtxId) (f : Option Footprint) (need : Need) : Option DieId :=
  match f with
  | none => none
  | some x =>
    match x.win with
    | .scratch k | .shared k => some (dieOf k)
    | .virt a => s.dieOfVa c a x.lo need
    | .chamber _ => none

/-- Dies that the traffic of an engine command goes to: those of its sides, and of a fill's segments. -/
def State.diesOf (s : State) (c : CtxId) (m : Cmd) : List DieId :=
  (s.dieOfFoot c m.src .read).toList ++ (s.dieOfFoot c m.dst .write).toList
    ++ (if m.kind = .xpf then (s.dieOfVa c (s.ctx c).spr.asid (m.ops.getD 0 0).toNat .code).toList else [])

/-- Engine commands under way, with the dies that their traffic goes to. -/
def State.cmdsOut (s : State) : List (CtxId × Fin 64 × List DieId) :=
  s.cmds.flatMap fun k =>
    let c : CtxId := Fin.ofNat 512 k.1
    (k.2.filter fun m => m.started && !m.stopped && m.kind.engine && !m.kind.isFabric).map fun m => (c, m.tag, s.diesOf c m)

/-- Engine commands under way whose traffic crosses a segment (R360). -/
def State.cmdsOver (s : State) (d : DieId) (desc : Bool) : List (CtxId × Fin 64) :=
  (s.cmdsOut.filter fun m => m.2.2.any fun x => s.routeOver (dieOf (coreOf m.1)) x d desc).map fun m => (m.1, m.2.1)

/-- A command that crosses the segment had a slot on it: open (log entry 3). -/
def State.wasOn (s : State) (n : Nat) : Bool := Config.freeBits s.draws (7000 + n) % 2 == 1

/-- Engine commands lose their traffic on the dead segment: they end LOST (R360, R399). -/
def State.loseElastic (s : State) (d : DieId) (desc : Bool) : State :=
  let ms := (s.cmdsOver d desc).filter fun m => s.wasOn (2 ^ 64 + 64 * m.1.val + m.2.val)
  ms.foldl (fun s m =>
    let n : Fin 16 := Fin.ofNat 16 (dieOf (coreOf m.1)).val
    ((s.countAt (nextDie d desc) n .dead).noteLost d desc n none).after 0 (.engineCommandEnd m.1 m.2 true)) s

/-- A timed slot lost on the dead segment (R400). -/
def State.loseTimed (s : State) (y : TimedSlot) (d : DieId) (desc : Bool) : State :=
  match s.gang? y.gang with
  | some g =>
    let src := g.sendDie y.entry
    (({ s with timed := s.timed.filter fun z => z != y }.countSump (nextDie d desc) src .dead).noteLost d desc
      (Fin.ofNat 16 src.val) none).noteTiming g 0x0D y.entry
  | none => s

/-- SEGMENT_DEAD: injection on its direction stops, gangs with a timetable are held, and what was on the segment is lost and counted
(R399). -/
def execSegmentDead (d : DieId) (desc : Bool) (s : State) : Host.Outcome State Fault Refusal :=
  .next (
    if s.pkg.dead.any fun x => x.1 == d && x.2.1 == desc then s
    else
      let s1 : State := { s with
        pkg := { s.pkg with dead := s.pkg.dead ++ [(d, desc, true)]
                            drains := s.pkg.drains ++ [{ die := d, desc := desc, lost := [], hops := [] }] }
        gangs := s.gangs.map fun g =>
          if g.2.onRing then (g.1, { g.2 with drainHold := true, held := some (g.2.held.getD s.tempo) }) else g }
      let s2 := (s.packets.filter fun p => s.onDead p d desc).foldl (fun s p => s.loseDead p d desc) s1
      let onSegment (y : TimedSlot) : Bool := s.slotSent y
        && Config.freeBits s.draws (6000 + y.entry) % 2 == 1 &&
        match s.gang? y.gang with
        | some g => (match g.kernel.times[y.entry]? with | some e => g.entryCrosses e d desc | none => false)
        | none => false
      (((s.timed.filter onSegment).foldl (fun s y => s.loseTimed y d desc) s2).loseElastic d desc).later 1
        (.segmentDrainEnd d desc (freeResult (Config.freeBits s.draws 1009))))

/-- Two entries of one sub-ring and direction keep R383. -/
def entriesAgree (a b : TimeEntry) : Bool :=
  a.sub != b.sub || a.desc != b.desc ||
    (if a.snd = b.snd then a.off != b.off else decide (64 ≤ a.off - b.off) || decide (64 ≤ b.off - a.off))

/-- Move the entries that cross the dead segment to the other direction, in image order; those that then break R383, or cross a
dead segment again, are dead (R400). -/
def moveEntries (hit : TimeEntry → Bool) (bad : TimeEntry → Bool) (stay : List TimeEntry) :
    List TimeEntry → List TimeEntry → List TimeEntry
  | _, [] => []
  | moved, e :: rest =>
    if e.dead || !hit e then e :: moveEntries hit bad stay moved rest
    else
      let f := { e with desc := !e.desc }
      if !bad f && (stay ++ moved).all (entriesAgree f) then f :: moveEntries hit bad stay (moved ++ [f]) rest
      else { e with dead := true } :: moveEntries hit bad stay moved rest

/-- The recompute of a gang's timetable after a segment was retired (R400). -/
def Gang.recompute (g : Gang) (dead : List (DieId × Bool × Bool)) (d : DieId) (desc : Bool) : Gang :=
  let hit (e : TimeEntry) : Bool := g.entryCrosses e d desc
  let bad (e : TimeEntry) : Bool := dead.any fun x => g.entryCrosses e x.1 x.2.1
  let stay := g.kernel.times.filter fun e => !e.dead && !hit e
  { g with kernel := { g.kernel with times := moveEntries hit bad stay [] g.kernel.times } }

/-- Note the entries of a gang that the recompute made dead to their receivers; what an XSND has read for one and not injected stays
(R388, R400). -/
def State.noteDead (s : State) (old new : Gang) : State :=
  (new.kernel.times.zipIdx).foldl (fun s e =>
    match old.kernel.times[e.2]? with
    | some o =>
      if e.1.dead && !o.dead then
        let s1 := s.noteTiming new 0x0D e.2
        { s1 with timed := s1.timed.filter fun y =>
            !(y.gang == new.id && y.entry == e.2 && y.data.isSome && !y.waiting && !s.slotSent y) }
      else s
    | none => s) s

/-- What the host and the owners of chains are told when a drain ends (R401). -/
def State.reportDrain (s : State) (d : DieId) (desc : Bool) (test : Nat) : State :=
  match s.pkg.drains.find? fun x => x.die == d && x.desc == desc with
  | none => s
  | some x =>
    let s1 : State := { s with pkg := { s.pkg with
      drains := s.pkg.drains.filter fun y => !(y.die == d && y.desc == desc)
      deadReports := s.pkg.deadReports ++ [x.lost] } }
    x.hops.foldl (fun s h => s.deferHop h.1 h.2 ((x.hops.filter fun g => g.1 == h.1).length) test) s1

/-- A dead segment is retired: routes and timetables are recomputed, and the retire list takes it (R399, R400, R437). -/
def State.retireSegment (s : State) (d : DieId) (desc : Bool) : State :=
  let s1 := s.reroute d desc
  (s1.gangs.foldl (fun s g =>
    let n := g.2.recompute s1.pkg.dead d desc
    (s.setGang g.1 n).noteDead g.2 n) s1).retireUnit (4096 + 2 * d.val + desc.toNat)

/-- SEGMENT_DRAIN_END: the segment, tested, returns to service or is retired with routes and timetables recomputed; injection resumes
and the held gangs may run (R399, R400, R401, R437). A segment has no spare. -/
def execSegmentDrainEnd (d : DieId) (desc : Bool) (r : TRes) (s : State) : Host.Outcome State Fault Refusal :=
  .next (
    if !(s.pkg.dead.any fun x => x.1 == d && x.2.1 == desc && x.2.2) then s
    else
      let others := s.pkg.dead.filter fun x => !(x.1 == d && x.2.1 == desc)
      let out := r != .pass
      let dead := if out then others ++ [(d, desc, false)] else others
      let s0 : State := { s with pkg := { s.pkg with dead := dead } }
      let s1 := (s0.countTest d (if out then .retired else .pass)).reportDrain d desc (if out then 3 else 1)
      let s2 := if out then s1.retireSegment d desc else s1
      let s3 : State := if s2.draining then s2 else
        { s2 with gangs := s2.gangs.map fun g => (g.1, { g.2 with drainHold := false }) }
      s3.raise 3)

/-! ## Cancelling (R374, R404) -/

/-- Act on the command that holds a tag as XCAN does. -/
def State.cancelCmd (s : State) (c : CtxId) (t : Fin 64) : State :=
  match s.cmd? c t with
  | none => s
  | some m =>
    let own := s.packets.find? fun p => p.src == c && p.srcPkg == s.pkg.id && p.cmd == m.id
    match m.kind with
    | .chc _ | .chs _ => s
    | .xsnd => s.finishCmd c t 0x40
    | .xrcv =>
      let w := m.ops.getD 1 0
      let g := (s.ctx c).gang.getD 0
      let marks := m.slotsLeft.map fun k =>
        ({ gang := g, entry := timedEntry w + k, data := none, waiting := false } : TimedSlot)
      { s with timed := s.timed ++ marks }.finishCmd c t 0x40
    | .xwr _ | .xrd _ | .xatm _ =>
      if m.injected then s
      else
        match own with
        | some p => (s.dropPacket p.id).finishCmd c t 0x40
        | none => s.finishCmd c t 0x40
    | k =>
      let s1 := if k = .xpf then s.mapCore (coreOf c) fun x => x.fillStart m.chamber else s
      if m.started && !m.stopped then s1.mapCmd c t fun m => { m with cancelAt := some s.tempo }
      else s1.finishCmd c t 0x40

end Sys2Proof.Machine
end

