-- ==== Sys2Proof/Machine/Engine.lean ====
section
/-! DEFINITION. The exchange engine's start and end of commands (13 R349, R353 to R360, 14 R388, R395, R396). -/

namespace Sys2Proof.Machine

/-! ## Starting (R348, R353, R355) -/

/-- A store of its own core scratchpad that the context issued before a tempo has not performed: a hold may have delayed it (R230,
R305). -/
def State.storesBefore (s : State) (c : CtxId) (t : Nat) : Bool :=
  (s.ctx c).acc.any fun a => a.banks == 0 && a.op.kind.wr && decide (a.issued < t)

/-- A command may start: its edges have cleared, its AT is reached, and it committed 2 tempo before: it reads no earlier, and after the
stores issued before it (R230, R353, R355). -/
def State.mayStart (s : State) (c : CtxId) (m : Cmd) : Bool :=
  let kind := match m.kind with
    | .xsnd | .xrcv | .chc _ => false
    | .chs u => s.chsReady u
    | _ => true
  kind && !m.started && !m.stopped && m.edges.isEmpty && decide (m.notBefore ≤ s.ttempo c) && decide (m.issued + 2 ≤ s.tempo)
    && !(decide (0 < m.notBefore) && s.heldCtx c) && !s.storesBefore c m.issued

/-- The first ready command of a context, in commit order (R353). -/
def State.ready? (s : State) (c : CtxId) : Option Cmd := (s.cmdsOf c).find? fun m => s.mayStart c m

/-- The next start on a core: of its two contexts alternately (R353). -/
def State.engineNext? (s : State) (k : CoreId) : Option (CtxId × Cmd) :=
  let a := primaryOf k
  let b := secondaryOf k
  let first := if (s.core k).engineSec then a else b
  let second := if (s.core k).engineSec then b else a
  match s.ready? first with
  | some m => some (first, m)
  | none => (s.ready? second).map fun m => (second, m)

/-- The member of its gang that a footprint's core hosts, when it is another than the issuer (R360). -/
def State.footMember (s : State) (c : CtxId) (f : Option Footprint) : Option CtxId :=
  match f with
  | none => none
  | some x =>
    let core := match x.win with | .scratch k | .shared k => some k | _ => none
    match core, s.gangOf c with
    | some k, some g => if k = coreOf c then none else g.members.find? fun d => coreOf d == k
    | _, _ => none

/-- A command names a window of a member that has ended (R360). -/
def State.memberEnded (s : State) (c : CtxId) (m : Cmd) : Bool :=
  let gone (f : Option Footprint) : Bool :=
    match s.footMember c f with
    | some d => (s.ctx d).run == .free || (s.ctx d).gang != (s.ctx c).gang
    | none => false
  gone m.src || gone m.dst || gone m.also

/-- Incarnation of the endpoint that serves a side of a command (R380). -/
def State.endpointOf (s : State) (c : CtxId) (f : Footprint) : BitVec 16 :=
  match f.win with
  | .virt a => s.asidIncarn (s.ctx c).part a
  | _ => (s.ctx ((s.footMember c (some f)).getD c)).incarn

/-- The incarnations that the traffic of a command names: of its context, and of the endpoints of its sides (R380, R381). -/
def State.endpoints (s : State) (c : CtxId) (m : Cmd) : List (BitVec 16) :=
  (s.ctx c).incarn :: (m.src.toList ++ m.dst.toList ++ m.also.toList).map (s.endpointOf c)

/-- The target of a fabric command, and what it asks there. -/
def Cmd.target (m : Cmd) : Option Footprint × Need :=
  match m.kind with
  | .xwr _ => (m.dst, .write)
  | .xrd _ => (m.src, .read)
  | _ => (m.also, .atomic)

/-- A walk for an address of a footprint is lost on a retired segment (R360). -/
def State.footDead (s : State) (c : CtxId) (f : Footprint) : Bool :=
  match f.win with
  | .virt a => s.walkDead (coreOf c) (s.ctx c).part a f.lo
  | _ => false

/-- The start of an XWR, XRD or XATM: its request is made (R395). What the ring or a test keeps back is tried again (R391, R436). -/
def State.fabricStart (s : State) (c : CtxId) (m : Cmd) : State :=
  match m.target.1 with
  | none => s
  | some f =>
    if s.memberEnded c m then s.finishCmd c m.tag 0x20
    else
      match s.engTarget c f.win f.lo m.target.2 with
      | .error (.fault e) => s.stopCmd c m e
      | .error .lost => s.finishCmd c m.tag (0x20 + 8 * (s.footDead c f).toNat)
      | .error .wait => s.later 1 (.engineCommandEnd c m.tag false)
      | .ok t =>
        let s1 := match f.win with
          | .virt a => if t.dev then s.fillTlb (coreOf c) (s.ctx c).part a (BitVec.ofNat 64 f.lo) else s
          | _ => s
        let dst := match f.win with
          | .scratch _ | .shared _ => some ((s.footMember c (some f)).getD c)
          | _ => none
        let op (n : Nat) : Word := m.ops.getD n 0
        match m.kind with
        | .xwr _ =>
          let n := fld (op 2).toNat 0 8 + 1
          match s1.readSide c (.scratch (coreOf c)) (op 1).toNat n with
          | (s2, .ok l) => s2.request c m .write t dst l n none
          | (s2, .error (.fault e)) => s2.stopCmd c m e
          | (_, .error _) => s.later 1 (.engineCommandEnd c m.tag false)
        | .xrd _ => s1.request c m .read t dst [] (fld (op 2).toNat 0 8 + 1) none
        | _ =>
          match atomOf (op 4).toNat with
          | some (o, ty) =>
            if t.host && !hostAtomic o ty then s1.stopCmd c m (addrFault 5 (op 0))
            else s1.request c m .atomic t dst [] ty.bytes (some (o, ty, op 1, op 2))
          | none => s1

/-- ENGINE_COMMAND_START: the engine takes a command (R353); a fill makes its chamber invalid (R75). -/
def execEngineCommandStart (c : CtxId) (t : Fin 64) (s : State) : Host.Outcome State Fault Refusal :=
  .next (
    match s.cmd? c t with
    | none => s
    | some m =>
      if !s.mayStart c m then s
      else
        let s1 := s.mapCmd c t fun x => { x with started := true, incs := s.endpoints c m }
        let s2 := if m.kind.engine then s1.mapCore (coreOf c) fun k => { k with engineSec := isSec c } else s1
        match m.kind with
        | .xwr _ | .xrd _ | .xatm _ => s2.fabricStart c m
        | .xpf => (s2.mapCore (coreOf c) fun k => k.fillStart m.chamber).later 1 (.engineCommandEnd c t false)
        | _ => s2.later 1 (.engineCommandEnd c t false))

/-! ## Ending (R349, R351, R360, R374, R396) -/

/-- A started command goes on from where it stands; `limit` bounds the writes that begin now. -/
def State.runCmd (s : State) (c : CtxId) (m : Cmd) (limit : Option Nat) : State × Except EngStop Progress :=
  match m.kind with
  | .xcp _ sm dm => s.runPlan c (s.xcpPlan c sm dm m.ops) m.prog limit
  | .xcpr put r => s.runPlan c (s.xcprPlan c put r (m.ops.getD 1 0)) m.prog limit
  | .xcnv fl => s.runCnv c m fl limit
  | .xrte => s.runRoute c m limit
  | _ => (s, .ok m.prog)

/-- How many sectors, groups or words a command writes in all. -/
def State.cmdSize (s : State) (c : CtxId) (m : Cmd) (g : Progress) : Nat :=
  match m.kind with
  | .xcp _ sm dm => (s.xcpPlan c sm dm m.ops).groups.length
  | .xcpr put r => (s.xcprPlan c put r (m.ops.getD 1 0)).groups.length
  | .xcnv _ => (cnvOf m.ops).rows * (cnvOf m.ops).ng
  | _ => g.wordGroups.length

/-- The block tags of a command are written apart from its data, after it (R232, R363, R366, R368). -/
def State.cmdTags (s : State) (c : CtxId) (m : Cmd) : State × Option EngStop :=
  let putAll (w : Window) : State × Option EngStop := State.writeSideTags c w m.prog.tags.reverse s
  match m.kind with
  | .xcp _ sm dm => putAll (s.xcpPlan c sm dm m.ops).dw
  | .xcpr put r =>
    let p := s.xcprPlan c put r (m.ops.getD 1 0)
    match p.put with
    | some f => State.writeSideTags c p.dw (p.putTags f) s
    | none => putAll p.dw
  | .xcnv _ => putAll (s.sideOf c none (m.ops.getD 1 0) [] 1).1.win
  | _ => (s, none)

/-- All that a command writes has been written: it ends with a status at a later tempo (R349). -/
def State.lastStep (s : State) (c : CtxId) (m : Cmd) (status : Nat) : State :=
  (s.mapCmd c m.tag fun x => { x with prog := { m.prog with stage := 3, status := status } }).later 1 (.engineCommandEnd c m.tag false)

/-- Traffic of a command is lost on a retired segment: it is counted where it was bound for (R360, R397). -/
def State.countLost (s : State) (c : CtxId) (m : Cmd) : State :=
  let d0 := dieOf (coreOf c)
  match (s.diesOf c m).find? fun d => s.routeDead d0 d with
  | some d => s.countSump d d0 .dead
  | none => s

/-- A started command meets incarnations other than those it names: its traffic is dropped and counted as stale (R360, R381). -/
def State.cmdStale (s : State) (c : CtxId) (m : Cmd) : Bool := m.incs != s.endpoints c m

def State.countStale (s : State) (c : CtxId) (m : Cmd) : State :=
  let d0 := dieOf (coreOf c)
  s.countSump ((s.diesOf c m).headD d0) d0 .stale

/-- The tags of a command are written, once its data is. -/
def State.tagStep (s : State) (c : CtxId) (m : Cmd) : State :=
  match s.cmdTags c m with
  | (_, some .wait) => s.later 1 (.engineCommandEnd c m.tag false)
  | (s1, some (.fault f)) => s1.stopCmd c m f
  | (s1, some .lost) => (s1.countLost c m).finishCmd c m.tag 0x20
  | (s1, none) => s1.lastStep c m m.prog.status

/-- One step of a started command of the engine: first it writes part of its data, how much is open (log entry 3), then the rest, then
block tags, and then it ends (R232, R349, R359, R360). In the step of a command that is cancelled or lost, what has begun completes
(R374). -/
def State.engineStep (s : State) (c : CtxId) (m : Cmd) (lost : Bool) : State :=
  let n := Config.freeBits s.draws 1002
  if m.prog.stage = 3 then s.finishCmd c m.tag (if m.cancelAt.isSome then 0x40 else m.prog.status)
  else if m.cancelAt.isSome then ((s.runCmd c m (some n)).1.drawn).lastStep c m 0x40
  else if s.memberEnded c m then s.finishCmd c m.tag 0x20
  else if s.cmdStale c m then (s.countStale c m).finishCmd c m.tag 0x20
  else if lost then ((s.runCmd c m (some n)).1.drawn).lastStep c m 0x20
  else if m.prog.stage = 2 then s.tagStep c m
  else
    match s.runCmd c m (if m.prog.stage = 0 then some n else none) with
    | (s1, .error .wait) => s1.later 1 (.engineCommandEnd c m.tag false)
    | (s1, .error (.fault f)) => s1.stopCmd c m f
    | (s1, .error .lost) => (s1.countLost c m).finishCmd c m.tag 0x20
    | (s1, .ok g) =>
      (s1.drawn.mapCmd c m.tag fun x => { x with prog := { g with stage := if s.cmdSize c m g ≤ g.wrote then 2 else 1 } }).later 1
        (.engineCommandEnd c m.tag false)

/-- A fill goes on: it ends with a status, or has not ended (R371); cancelled or lost, it ends at once (R360, R374). -/
def State.fillStep (s : State) (c : CtxId) (m : Cmd) (lost : Bool) : State :=
  if m.cancelAt.isSome then s.finishCmd c m.tag 0x40
  else if s.cmdStale c m then (s.countStale c m).finishCmd c m.tag 0x20
  else if lost then s.finishCmd c m.tag 0x20
  else
    match s.runXpf c m with
    | (s1, some x) => (if x = 0x20 then s1.countLost c m else s1).finishCmd c m.tag x
    | (s1, none) => s1.later 1 (.engineCommandEnd c m.tag false)

/-- What a fabric command does with an answer that has arrived: it writes the data that the answer brings, and ends at a later tempo (R349,
R395, R396). -/
def State.fabricEnd (s : State) (c : CtxId) (m : Cmd) (p : Packet) : State :=
  let rfsd := 16 * m.refused.toNat
  let store (a : Word) : State :=
    let key := keyScratch (coreOf c) a.toNat
    if s.untestable key p.bytes.length then s.later 1 (.engineCommandEnd c m.tag false)
    else ((s.setMem (writeBytes s.mem key p.bytes)).mapPacket p.id fun q => { q with kind := .writeAck }).later 1
      (.engineCommandEnd c m.tag false)
  match p.kind with
  | .readReply => store (m.ops.getD 1 0)
  | .atomicReply => store (m.ops.getD 3 0)
  | .writeAck => (s.dropPacket p.id).finishCmd c m.tag rfsd
  | .drop dead => (s.dropPacket p.id).finishCmd c m.tag (0x20 + rfsd + 8 * dead.toNat)
  | _ => s.dropPacket p.id

/-- A fabric command goes on: with its answer, or with a request that could not be made before. -/
def State.fabricStep (s : State) (c : CtxId) (m : Cmd) : State :=
  match s.packets.find? fun p => p.src == c && p.srcPkg == s.pkg.id && p.cmd == m.id with
  | some p => if p.at_ == .arrived then s.fabricEnd c m p else s
  | none => if m.started && !m.stopped then s.fabricStart c m else s

/-- A CHS writes its record, and ends at a later tempo (R337, R349). -/
def State.chsStep (s : State) (c : CtxId) (m : Cmd) (u : Nat) : State :=
  if m.prog.stage = 3 then s.finishCmd c m.tag 0
  else if s.chsReady u && !s.untestable (keyScratch (coreOf c) (m.ops.getD 0 0).toNat) 1 then (s.chsWrite c m u).lastStep c m 0
  else s.later 1 (.engineCommandEnd c m.tag false)

/-- A command goes on, or ends and sets its tag (R349, R360). -/
def State.engineEnd (s : State) (c : CtxId) (t : Fin 64) (lost : Bool) : State :=
  match s.cmd? c t with
  | none => s
  | some m =>
    if s.timedDone c m then
      s.finishCmd c t (if m.kind.isRcv && !m.slotsData then 0x60 else 0)
    else if m.kind.isFabric then s.fabricStep c m
    else if !m.started || m.stopped then s
    else
      match m.kind with
      | .chs u => s.chsStep c m u
      | .chc _ | .xsnd | .xrcv => s
      | .xpf => s.fillStep c m lost
      | _ => s.engineStep c m lost

/-- ENGINE_COMMAND_END: `lost` says that the command's traffic was lost on the ring (R349, R360). -/
def execEngineCommandEnd (c : CtxId) (t : Fin 64) (lost : Bool) (s : State) : Host.Outcome State Fault Refusal :=
  .next (s.engineEnd c t lost)

/-- The commands of a context end as XCAN ends them (R374, R404, R432, R483). -/
def State.endCmds (s : State) (c : CtxId) : State :=
  (s.cmdsOf c).foldl (fun s m => (s.cancelCmd c m.tag).engineEnd c m.tag false) s

end Sys2Proof.Machine
end

