-- ==== Sys2Proof/Machine/Gangs.lean ====
section
/-! DEFINITION. Ends: of members, gangs, regions and roots, and of seconds (16 R442 to R447, R452, 15 R424, 12 R321). Shared by the
ends of tasks, kills, resigns and resets. -/

namespace Sys2Proof.Machine

/-! ## The director's accesses to translated memory (R442, R443) -/

/-- The core whose walker serves the director in a partition. -/
def State.dirCore (s : State) (p : PartId) : CoreId := ((s.part p).cores.head?).getD 0

/-- Read n bytes through an ASID, or none where a page is missing or forbids it. The director reaches each stack at its home die, and its
accesses meet no test and no error (DESIGN CHOICE, log entry 123). -/
def State.dirRead (s : State) (p : PartId) (asid : BitVec 14) : Nat → Nat → Nat → Option (List Byte)
  | 0, _, _ => some []
  | fuel + 1, va, n =>
    if n = 0 then some []
    else
      let k := min n (64 - va % 64)
      match s.translate (s.dirCore p) p asid (BitVec.ofNat 64 va) .read with
      | .error _ => none
      | .ok t =>
        match s.dirRead p asid fuel (va + k) (n - k) with
        | none => none
        | some l => some (bytesOf (s.readTgt t k) k ++ l)

/-- The number that n bytes hold at an address of an ASID. -/
def State.dirNum (s : State) (p : PartId) (asid : BitVec 14) (va n : Nat) : Option Nat :=
  (s.dirRead p asid (n + 1) va n).map numOf

/-- Count what the director has read or written, once for every 256 bytes, as a copy is counted (R499; log entry 123). -/
def State.dirTouch (s : State) (p : PartId) (asid : BitVec 14) (need : Need) (va n : Nat) : State :=
  (List.range ((va % 256 + n + 255) / 256)).foldl (fun s j =>
    match s.translate (s.dirCore p) p asid (BitVec.ofNat 64 (max va (256 * (va / 256 + j)))) need with
    | .ok t => s.touchDev p asid (needKind need) 0 t
    | .error _ => s) s

/-- Count a list of reads of the director. -/
def State.dirSaw (s : State) (p : PartId) (asid : BitVec 14) (l : List (Nat × Nat)) : State :=
  l.foldl (fun s r => s.dirTouch p asid .read r.1 r.2) s

/-- Put bytes through an ASID; nothing where they do not translate. -/
def State.dirPut (p : PartId) (asid : BitVec 14) : Nat → State → Nat → List Byte → Option State
  | 0, s, _, _ => some s
  | fuel + 1, s, va, l =>
    if l.isEmpty then some s
    else
      let k := min l.length (64 - va % 64)
      match s.translate (s.dirCore p) p asid (BitVec.ofNat 64 va) .write with
      | .error _ => none
      | .ok t =>
        State.dirPut p asid fuel (s.writeTgt p (primaryOf (s.dirCore p)) t k (numOf (l.take k)) none) (va + k) (l.drop k)

/-- A write of the director through an ASID. -/
def State.dirWrite (s : State) (p : PartId) (asid : BitVec 14) (va : Nat) (l : List Byte) : Option State :=
  (State.dirPut p asid (l.length + 1) s va l).map fun s => s.dirTouch p asid .write va l.length

/-- The tempo at which what a partition's write queues have taken since an earlier state has drained (R235). -/
def State.drainedSince (s0 s : State) (p : PartId) : Nat :=
  ((s.part p).wq.reverse.take ((s.part p).wqCount - (s0.part p).wqCount)).foldl (fun m w => max m w.drain) s.tempo

/-! ## Status of regions (R443, R445) -/

def RegState.code : RegState → Nat
  | .idle => 0 | .queued => 1 | .waiting => 2 | .running => 3 | .switched => 4 | .adjourned => 5 | .done => 6
  | .killed => 7 | .failed => 8 | .resigned => 9 | .held => 10

/-- States that are ended. -/
def RegState.ended : RegState → Bool
  | .done | .killed | .failed | .resigned => true
  | _ => false

/-- The fields of an RCB that the director writes: STATUS, PROG, START and END. -/
def Region.fields (r : Region) : List Byte :=
  let status := r.state.code + 2 ^ 8 * r.cause + 2 ^ 16 * r.detail + 2 ^ 32 * r.kill.toNat
  let prog := r.tasksAll % 2 ^ 32 + 2 ^ 32 * r.tasksEnded
  let fin := r.endT.getD 0
  let start := r.startT.getD fin
  bytesOf (status + 2 ^ 64 * prog + 2 ^ 128 * (start % 2 ^ 64) + 2 ^ 192 * (fin % 2 ^ 64)) 32

/-- Write the director's fields of a region to its RCB; a failure that cannot be written goes to the error log (R446). -/
def State.writeRegion (s : State) (id : Nat) : State :=
  match s.region? id with
  | none => s
  | some r =>
    if r.mute then s
    else
      match s.dirWrite r.part r.asid (r.rcb.toNat + 192) r.fields with
      | some s1 => s1
      | none => if r.state = .failed then s.logError r.part (2 ^ 16 + r.detail) else s

/-- Give a region a state, in the RCB too. -/
def State.setRegState (s : State) (id : Nat) (st : RegState) : State :=
  (s.mapRegion id fun r => { r with state := st }).writeRegion id

/-- Regions of a tree. -/
def State.treeOf (s : State) (root : Nat) : List Region := (s.regions.filter fun r => r.2.root == root).map (·.2)

/-- Tiles not run, summed over the tree: those whose task never started (R442; log entry 91). -/
def State.incomplete (s : State) (root : Nat) : Nat :=
  (s.treeOf root).foldl (fun n r => if r.leaf then n + (r.tasksAll - r.tasksBegun) else n) 0

/-- The first task of every live member of a gang starts. -/
def State.beginTasks (s : State) (g : Gang) : State :=
  let n := (g.members.filter fun c => (s.ctx c).gang == some g.id).length
  s.mapRegion g.region fun r => { r with tasksBegun := r.tasksBegun + n }

/-- The completion record of a root (R442). -/
def State.completion (s : State) (r : Region) (rec_ : Record) : List Byte :=
  let serv := (s.queue r.queue).serv
  bytesOf (r.state.code + 2 ^ 8 * (if r.state = .failed ∨ r.state = .killed then r.cause else 0)
    + 2 ^ 16 * (if r.state = .failed ∨ r.state = .killed then r.detail else 0) + 2 ^ 32 * rec_.seq.toNat
    + 2 ^ 64 * (if serv then r.gen.toNat else 0) + 2 ^ 96 * (if r.state = .killed then r.kill.toNat else 0)
    + 2 ^ 128 * (s.incomplete r.root % 2 ^ 32) + 2 ^ 192 * (s.wall % 2 ^ 64)) 32 ++ rec_.user

/-- The root region of an accepted record ends: its completion record is written, and MSI-X follows its drain (R442). -/
def State.rootEnd (s : State) (id : Nat) : State :=
  match s.region? id, s.roots.find? fun r => r.region == id with
  | some r, some root =>
    let s1 :=
      if r.mute then s
      else
        match s.dirWrite r.part r.asid root.record.cadr.toNat (s.completion r root.record) with
        | some s1 => s1
        | none => s.logError r.part (2 ^ 32 + root.record.seq.toNat)
    let s2 : State := { s1 with regions := s1.regions.filter fun x => x.2.root != id }
    if root.record.irq && !r.mute then
      ({ s2 with roots := s2.roots.map fun (x : Root) =>
          if x.region = id then { x with written := true, drained := State.drainedSince s s1 r.part } else x } : State).later 1
        (.completionMsix id)
    else { s2 with roots := s2.roots.filter fun x => x.region != id }
  | _, _ => s

/-- The first child that ended other than DONE (R445). -/
def firstBad : List Region → Option Region
  | [] => none
  | r :: rest => if r.state = .done then firstBad rest else some r

/-! ## Predecessors (R447) -/

/-- The term of one predecessor, once it is known: its start and offset, or its end. -/
def State.predTerm (s : State) (p : Nat × BitVec 32) : Option Nat :=
  match s.region? p.1 with
  | none => none
  | some r =>
    if p.2 = BitVec.allOnes 32 then r.endT
    else (match r.startT with | some t => some t | none => r.endT).map fun t => t + p.2.toNat

/-- The largest of the terms, none while one is not known. -/
def dueOf : List (Option Nat) → Nat → Option Nat
  | [], m => some m
  | none :: _, _ => none
  | some t :: rest, m => dueOf rest (max t m)

/-- Find the due tempo of a region whose parent started at `start`; at that tempo its start is tried. -/
def State.noteDue (s : State) (start : Nat) (r : Region) : State :=
  if r.due.isSome || r.state.ended then s
  else
    match dueOf (r.preds.map s.predTerm) start with
    | none => s
    | some t => (s.mapRegion r.id fun x => { x with due := some t }).after (t - s.tempo) (.gangStart r.id)

/-- Find the due tempos of the children of a group that has started (R447). -/
def State.noteChildren (s : State) (group : Nat) : State :=
  match s.region? group with
  | some g =>
    if g.state = .running then
      (g.children.filterMap fun k => s.region? k).foldl (fun s r => s.noteDue (g.due.getD s.tempo) r) s
    else s
  | none => s

/-- START of a region is known at this tempo: it is that of the group whose first child it is, and the terms of both may now be
known (R443, R447). -/
def State.noteStart (s : State) (r : Region) : State :=
  match r.parent with
  | none => s
  | some q =>
    match s.region? q with
    | none => s
    | some p =>
      let s1 := if p.children.head? = some r.id ∧ p.startT = none then
          (s.mapRegion q fun x => { x with startT := some s.tempo }).writeRegion q
        else s
      let s2 := s1.noteChildren q
      match p.parent with
      | some q => s2.noteChildren q
      | none => s2

/-- The turn of a leaf that held cores ends (R455). -/
def State.endTurn (s : State) (r : Region) : State :=
  s.mapPart r.part fun p => { p with turns := insertAt p.turns r.eff.prio [r.queue.val, r.order, r.id] }

/-- A region ends, and with it the groups that it completes (R445, R446). -/
def State.closeRegion : Nat → State → Nat → RegState → Nat → Nat → BitVec 32 → State
  | 0, s, _, _, _, _, _ => s
  | fuel + 1, s, id, st, cause, detail, kill =>
    match s.region? id with
    | none => s
    | some r =>
      if r.state.ended then s
      else
        let s1 := (s.setRegion id
          { r with state := st, cause := cause, detail := detail, kill := kill, endT := some s.tempo, gang := none,
                   saved := none }).writeRegion id
        let s2 := if r.gang.isSome then s1.endTurn r else s1
        let s3 := if r.startT.isNone then s2.noteStart r else s2
        match r.parent with
        | none => s3.rootEnd id
        | some p =>
          match s3.region? p with
          | none => s3
          | some g =>
            let kids := g.children.filterMap fun k => s3.region? k
            if kids.all fun k => k.state.ended then
              match firstBad kids with
              | none => State.closeRegion fuel s3 p .done 0 0 0
              | some b => State.closeRegion fuel s3 p b.state b.cause b.detail b.kill
            else s3.noteChildren p

/-- A region ends. -/
def State.endRegion (s : State) (id : Nat) (st : RegState) (cause detail : Nat) (kill : BitVec 32) : State :=
  State.closeRegion (s.regions.length + 1) s id st cause detail kill

/-! ## Contexts, members and gangs (R149, R321, R452) -/

/-- Committed stores and atomics of a context that have not performed: they perform though the context has ended, and their results
are discarded (R185, R187, R432; log entry 34). -/
def Ctx.stores (x : Ctx) : List Access :=
  (x.acc.filter fun a => a.op.kind.wr).map fun a => { a with discard := true }

/-- A context becomes free; its registers, its incarnation, the partition that it last ran, and its committed stores, stay (R503, R530,
R541). -/
def Ctx.vacated (x : Ctx) : Ctx :=
  { Ctx.reset with incarn := x.incarn, part := x.part, acc := x.stores, regs := x.regs, spr := x.spr }

/-- The array of a core without the commands of a context that has ended: it is free once what is left has finished (R432, R483). -/
def Core.dropArray (k : Core) (c : CtxId) : Core :=
  let rest := k.array.filter fun a => a.ctx != c
  { k with array := rest, arrayFree := (rest.filter fun a => !a.stopped).foldl (fun m a => max m (a.plan + a.passes)) 0 }

/-- A context becomes free, and its core has last run its ASID (R491). -/
def State.vacate (s : State) (c : CtxId) : State :=
  let x := s.ctx c
  let s1 := (s.lapse c).setCtx c x.vacated
  let s2 := (s1.setCmds c []).mapPart x.part fun p => { p with fq := p.fq.filter fun d => d != c }
  s2.mapCore (coreOf c) fun k =>
    { k.dropArray c with
      lastAsid := some (x.part, x.spr.asid)
      lk := k.lk.filter fun o => o.ctx != c || (match o.what with | .read _ _ => false | _ => true) }

/-- Spend the capability of a frozen thread: every copy becomes invalid; what became of it stays for FSTAT (R425, R434). -/
def State.spend (s : State) (t : CtxId) (outcome : Nat) : State :=
  match (s.ctx t).frz with
  | none => s
  | some f =>
    (s.mapCtx t fun x => { x with frz := some { f with cap := none } }).mapPart (s.ctx t).part fun p =>
      { p with spent := insertAt p.spent f.serial.toNat outcome }

/-- A frozen thread is passed to the host, which receives the record's frame address by interrupt (R424, R433, R518). -/
def State.passHost (s : State) (t : CtxId) (passw : Option Word) : State :=
  let s1 := s.mapCtx t fun x => { x with frz := x.frz.map fun f => { f with host := true, cap := none } }
  let s2 := match passw with
    | some w => s1.setMem (writeN s1.mem (s1.frameKey t + 104) 8 w.toNat)
    | none => s1
  ({ s2 with pkg := { s2.pkg with passed := s2.pkg.passed ++ [s2.framePA t] } } : State).raise 2

/-- The frozen context that a capability names, while it is valid (R425). -/
def State.capTarget (s : State) (k : Option Cap) : Option CtxId :=
  match k with
  | none => none
  | some cap =>
    match (s.ctx cap.target).frz with
    | some f => if f.serial = cap.serial ∧ f.cap = some cap.check ∧ (s.ctx cap.target).part = cap.part then some cap.target else none
    | none => none

/-- Seconds that work for a gang. -/
def State.secondsOf (s : State) (g : Nat) : List CtxId :=
  (s.ctxs.filter fun k => k.2.ctl.kind == .second && k.2.gang == some g && k.2.run != .free).map fun k => Fin.ofNat 512 k.1

/-- A gang whose members have all ended is gone once no second works for it any more. -/
def State.reapGang (s : State) (g : Nat) : State :=
  match s.gang? g with
  | some x => if x.alive = 0 && (s.secondsOf g).isEmpty then { s with gangs := removeAt s.gangs g } else s
  | none => s

/-- The frozen threads that a second holds. -/
def State.heldBy (s : State) (c : CtxId) : List CtxId := ((s.ctx c).caps.toList.filterMap fun k => s.capTarget k).eraseDups

/-- The context of a second becomes free. -/
def State.freeSecond (s : State) (c : CtxId) : State :=
  match (s.ctx c).gang with
  | some g => (s.vacate c).reapGang g
  | none => s.vacate c

/-- A second ends: threads that it still holds are passed to the host as FPASS with TARGET 1 would pass them, and its context
becomes free (R152, R424). -/
def State.endSecond (s : State) (c : CtxId) : State :=
  ((s.heldBy c).foldl (fun s t => (s.spend t 3).passHost t none) s).freeSecond c

/-- A resign ends a second: its capabilities are spent, and nothing is passed to the host (R483). -/
def State.dropSecond (s : State) (c : CtxId) : State := ((s.heldBy c).foldl (fun s t => s.spend t 2) s).freeSecond c

/-- What the part does when a gang has left its contexts: chains aborted, claims released, timed slots gone (R321, R384). -/
def State.clearGang (s : State) (g : Nat) : State :=
  let s1 := (s.chains.filter fun k => k.2.gang == g).foldl (fun s k => s.freeChain k.1 0x80) s
  { s1 with
    pkg := { s1.pkg with claims := s1.pkg.claims.filter fun x => x.1 != g }
    timed := s1.timed.filter fun y => y.gang != g }

/-- The gangs in scope of a post decide again (R481). -/
def State.redecide (s : State) (p : PartId) : State :=
  if (s.part p).post.isSome then s.later 0 (.evictionRedecide p) else s

/-- The last member has ended: the gang and its leaf region end (R452). -/
def State.endGang (s : State) (g : Nat) : State :=
  match s.gang? g with
  | none => s
  | some x =>
    let s1 := s.clearGang g
    let s2 := match s1.region? x.region with
      | none => s1
      | some r =>
        match x.kill with
        | some w => s1.endRegion x.region .killed r.cause r.detail w
        | none => s1.endRegion x.region .done 0 0 0
    (s2.redecide x.part).reapGang g

/-- Members of a gang that have not ended. -/
def State.liveMembers (s : State) (g : Gang) : List CtxId :=
  g.members.filter fun c => (s.ctx c).gang == some g.id && (s.ctx c).ctl.kind != .second && (s.ctx c).run != .free

/-- An adjourn's stop is complete: every member that has not ended is parked, and of a fixed-length gang no timed slot or timed
command is open; the area is then written (R467, R469). -/
def State.stopCheck (s : State) (g : Nat) : State :=
  match s.gang? g with
  | none => s
  | some x =>
    let ms := s.liveMembers x
    let open_ := x.kernel.tlen.isSome &&
      (s.timed.any (fun y => y.gang == g && y.data.isSome)
        || ms.any fun c => (s.cmdsOf c).any fun m => m.kind.isSnd || m.kind.isRcv)
    if x.adjourn && !x.writing && !ms.isEmpty && (ms.all fun c => (s.ctx c).run == .parked) && !open_ then
      (s.mapGang g fun x => { x with writing := true }).later 1 (.adjournComplete g)
    else s

/-- A member ends: expected counts fall, and with the last the gang ends (R146, R452). -/
def State.endMember (s : State) (c : CtxId) : State :=
  match (s.ctx c).gang with
  | none => s
  | some g =>
    let s1 := (s.vacate c).mapGang g fun x => { x.lowerBarriers s.tempo with alive := x.alive - 1 }
    match s1.gang? g with
    | some x => if x.alive = 0 then s1.endGang g else s1.stopCheck g
    | none => s1

/-! ## Kills (R432) -/

/-- An elastic access of a context that ends performs, unless a condition has stopped it or stops it now; nobody takes its result. One that
does not perform at once goes on as a packet (R10, R197, R432; log entry 34). -/
def State.finishAccess (s : State) (c : CtxId) (e : Elastic) : State :=
  let x := s.ctx c
  if e.stopped || e.banked || e.sent || (e.walks && s.walkDead (coreOf c) x.part x.spr.asid e.va.toNat) then s
  else
    match s.elasticHome c e with
    | .error _ => s
    | .ok t =>
      let go (s1 : State) : State := s1.sendPacket (e.packet (s1.newPacket c .read t none))
      if dieOfTgt t ≠ dieOf (coreOf c) then go s
      else
        match s.homeSays x.part t e.bytes (e.op.need != .read) e.va, e.op with
        | .wait, _ => go s
        | .go, .aord _ fl n count v =>
          match s.aordBank x.part x.spr.asid c e.id fl n count v t with
          | .done s1 => s1
          | .room | .wait => go s
          | .flaw s1 => s1
        | .go, _ => s.performElastic c e t
        | .lost, _ => s.loseAccess c e t
        | .stop _, _ => s

/-- The elastic memory accesses of a killed context complete with their results discarded; held contributions stay in their streams
(R432). -/
def State.finishElastic (s : State) (c : CtxId) : State :=
  ((s.ctx c).elas.foldl (fun s e => s.finishAccess c e) s).mapCtx c fun x => { x with elas := [], done := [], defer := [] }

/-- The elastic accesses of a context are abandoned: held contributions leave their streams (R483). -/
def State.dropElastic (s : State) (c : CtxId) : State :=
  let s1 := s.mapCtx c fun x => { x with elas := [], done := [], defer := [] }
  { s1 with dies := s1.dies.map fun d =>
      (d.1, { d.2 with streams := d.2.streams.map fun y => { y with held := y.held.filter fun h => h.2.2.1 != c } }) }

/-- A frozen context is killed with a kill word. -/
def State.killThread (s : State) (t : CtxId) (w : BitVec 32) : State :=
  let x := s.ctx t
  let s1 := (s.endCmds t).finishElastic t
  if x.ctl.kind = .second then s1.endSecond t
  else
    match x.gang with
    | none => s1.vacate t
    | some g =>
      let cause := match x.frz with | some f => (f.cause, f.detail) | none => (0, 0)
      let s2 := s1.mapGang g fun y => { y with kill := some w }
      let s3 := match s2.gang? g with
        | some y => s2.mapRegion y.region fun r => { r with cause := cause.1, detail := cause.2, kill := w }
        | none => s2
      match s3.gang? g with
      | some y =>
        if y.kernel.tlen.isSome || y.waitStart then
          (s3.liveMembers y).foldl (fun s c => ((s.endCmds c).finishElastic c).endMember c) s3
        else s3.endMember t
      | none => s3

end Sys2Proof.Machine
end

