-- ==== Sys2Proof/Machine/Seconds.lean ====
section
/-! DEFINITION. Faults and seconds (15 R406 to R435): the record, placing a second, capabilities and the handler forms, resuming,
the gang hold, and deferred conditions. The freeze itself is in Ops.lean. -/

namespace Sys2Proof.Machine

/-! ## The fault record (R412 to R414) -/

/-- Write one little-endian field. -/
def putField (key : Nat) (m : Memory) (f : Nat × Nat × Nat) : Memory := writeN m (key + f.1) f.2.1 f.2.2

/-- The pending writes of NFMT as the record shows them: value and bundles left of the newest of each (R412 PNFMT; log entry 17). -/
def Ctx.pnfmt (x : Ctx) : Nat :=
  let last (toM : Bool) : Nat × Nat :=
    match x.spr.nfmtPend.reverse.find? fun w => w.toM == toM with
    | some w => (w.value.toNat, w.left.val)
    | none => (0, 0)
  let v := last false
  let m := last true
  v.1 + 2 ^ 6 * v.2 + 2 ^ 8 * (m.1 % 8) + 2 ^ 11 * m.2

/-- The fields of the record header: offset, bytes and value (R412). -/
def Ctx.recordFields (x : Ctx) (f : Frozen) (ndef : Nat) : List (Nat × Nat × Nat) :=
  [(0, 1, f.cause),
   (1, 1, f.slot.val + 8 * f.deferred.toNat + 16 * f.ovf.toNat + 32 * f.heldGang.toNat + 64 * f.drn.toNat),
   (2, 2, f.detail), (4, 1, ndef), (5, 1, f.test), (6, 1, f.unit), (8, 8, f.serial.toNat), (16, 8, x.ctl.csw.toNat),
   (24, 2, x.ctl.pc.toNat), (26, 1, x.ctl.chamberB.toNat + 2 * (decide (8192 ≤ x.ctl.pc.toNat)).toNat),
   (27, 1, f.chain), (28, 1, f.link), (32, 8, f.faddr.toNat), (40, 8, f.at_), (48, 8, f.ftt),
   (56, 4, x.spr.tile[0].toNat), (60, 4, x.spr.tile[1].toNat), (64, 4, x.spr.tile[2].toNat), (68, 4, x.spr.tile[3].toNat),
   (72, 8, x.spr.taskn.toNat), (80, 2, x.spr.lidx.toNat), (82, 2, x.spr.gsize.toNat), (84, 2, x.spr.asid.toNat),
   (86, 1, x.part.val), (88, 8, f.aux.toNat), (96, 2, x.pnfmt), (104, 8, 0)]

/-- The bytes of a deferred entry (R413). -/
def DefItem.bytes (d : DefItem) : List Byte :=
  bytesOf (d.cause + 2 ^ 8 * d.slot.val + 2 ^ 16 * d.detail + 2 ^ 32 * d.tag + 2 ^ 64 * d.pc.toNat
    + 2 ^ 128 * d.addr.toNat) 24 ++ bytesOf ((d.ops.take 13).foldr (fun w v => w.toNat + 2 ^ 64 * v) 0) 104

/-- An item ends with LOST: a memory access or command completes so, a product enters nothing (R197, R309, R359). -/
def State.cancelItem (s : State) (c : CtxId) (d : DefItem) : State :=
  match d.what with
  | .mem id => s.endElastic c id none true
  | .mx id => s.mapCore (coreOf c) fun k => { k with array := k.array.filter fun a => a.id != id }
  | .xe t => s.finishCmd c t 0x20
  | .none => s

/-- Write the record, the deferred list and the bytes that are 0; items beyond the 24th end LOST (R413). -/
def State.writeRecord (s : State) (c : CtxId) : State :=
  let x := s.ctx c
  match x.frz with
  | none => s
  | some f0 =>
    let key := s.frameKey c
    let beyond := f0.items.drop 24
    let f : Frozen := { f0 with items := f0.items.take 24, ovf := !beyond.isEmpty, written := true }
    let m0 := zeroBytes (zeroBytes (zeroBytes s.mem key 128) (key + 192) 64) (key + 256) 3840
    let m1 := (x.recordFields f f.items.length).foldl (putField key) m0
    let m2 := (f.items.zipIdx).foldl (fun m d => writeBytes m (key + 256 + 128 * d.2) d.1.bytes) m1
    beyond.foldl (fun s d => s.cancelItem c d) ((s.setMem m2).mapCtx c fun x => { x with frz := some f })

/-! ## Placing a second (R419 to R424, R491) -/

/-- A core's own state is zeroed for another ASID (R491). -/
def State.zeroCore (s : State) (k : CoreId) : State :=
  let s1 := s.setMem (zeroBytes s.mem (keyScratch k 0) 0x400000)
  let s2 : State := { s1 with
    tags := s1.tags.filter fun t => decide (t.1 < keyScratch k 0) || decide (keyScratch k 0x400000 ≤ t.1) }
  s2.mapCore k fun c =>
    { c with code := [], chA := .reset, chB := .reset, resCount := 0, resImage := none, templates := [], working := [],
             links := c.links.map fun l => { l with tile := [] },
             latch := { valid := false, k := 0, pa := 0, a2 := false, blocks := [] } }

/-- Make a core ready for a context of an ASID: zeroed when the last that resided there was another, and none does (R491). -/
def State.readyCore (s : State) (k : CoreId) (p : PartId) (asid : BitVec 14) : State :=
  let idle := (s.ctx (primaryOf k)).run == .free && (s.ctx (secondaryOf k)).run == .free
  let other := match (s.core k).lastAsid with
    | some l => l != (p, asid)
    | none => false
  if idle && other then s.zeroCore k else s

/-- Expand a fill read through an ASID, from a table (R69 to R75). -/
def State.dirFill (s : State) (p : PartId) (asid : BitVec 14) (a : Nat) (table : Assoc Template) :
    Fill × Nat × Option FillStatus :=
  fillSegments (fun va n => match s.dirRead p asid (n + 1) va n with | some l => .ok l | none => .error .addr) fillFuel a true 0
    { bundles := [], count := 0, table := table }

/-- The resident image that an effective RIMG names in an ASID: none for 0 (log entry 105). -/
def imageOf (p : PartId) (asid : BitVec 14) (image : Word) : Option (PartId × BitVec 14 × Word) :=
  if image = 0 then none else some (p, asid, image)

/-- Write the resident image into a core's resident area, unless it holds it (R18): that of its partition, ASID and address, whatever memory
has come to hold there since (DESIGN CHOICE, log entry 105). An image whose fill does not end OK or is longer
than the area is refused before anything of its domain is placed (R88, R446; `State.leafImage`). -/
def State.loadImage (s : State) (k : CoreId) (p : PartId) (asid : BitVec 14) (image : Word) : State :=
  if (s.core k).resImage = imageOf p asid image then s
  else
    let f : Fill := if image = 0 then { bundles := [], count := 0, table := [] } else (s.dirFill p asid image.toNat []).1
    let bundles := f.bundles.reverse.take 128
    (s.dirSaw p asid f.read.reverse).mapCore k fun c =>
      { c with
        code := putBundles (c.code.filter fun e => decide (e.1 < 8192)) 8192 bundles
        resCount := bundles.length
        resImage := imageOf p asid image }

/-- The bench of a partition: secondary contexts of its highest cores (R454). -/
def State.bench (s : State) (p : PartId) : List CtxId :=
  let cores := ((s.part p).cores.filter fun k => !(s.core k).retired).reverse
  (cores.take (s.part p).pbench).map secondaryOf

/-- What names a fault domain within its partition: the ASID and address of the region that owns its fields (R423, R444). -/
def Domain.name (d : Domain) : BitVec 14 × Word := (d.asid, d.owner)

/-- Seconds of a fault domain that run: a frozen one does not (R419). -/
def State.domainSeconds (s : State) (p : PartId) (dom : BitVec 14 × Word) : Nat :=
  (s.ctxs.filter fun k => k.2.ctl.kind == .second && k.2.run != .free && k.2.run != .frozen && k.2.part == p &&
    match k.2.gang with
    | some g => (match s.gang? g with | some x => x.dom.name == dom | none => false)
    | none => false).length

/-- A fault domain of a partition is halted (R423). -/
def State.domainHalted (s : State) (c : CtxId) : Bool :=
  match s.gangOf c with
  | some g => (s.part (s.ctx c).part).halted.contains g.dom.name
  | none => false

/-- ASIDs of a function in its partition's table. -/
def Part.asidsOf (x : Part) (f : Nat) : List (BitVec 14) := (x.asids.filter fun e => e.func == f).map (·.asid)

/-- Contexts that last ran one of some ASIDs in a partition. -/
def State.lastRan (s : State) (p : PartId) (asids : List (BitVec 14)) : List CtxId :=
  (s.ctxs.filter fun k => k.2.part == p && (s.part p).hasCore (coreOf (Fin.ofNat 512 k.1)) && asids.contains k.2.spr.asid).map
    fun k => Fin.ofNat 512 k.1

/-- Nothing is placed on a core in the scope of a scrub until its receipt is written (R503), nor on one that a gang in scope of a post has
left, until that post's receipt is (R484; log entry 75). -/
def State.coreBarred (s : State) (p : PartId) (k : CoreId) : Bool :=
  let x := s.part p
  let here (cs : List CtxId) : Bool := cs.contains (primaryOf k) || cs.contains (secondaryOf k)
  x.scrub.any (fun y =>
      let f := fld y.req.toNat 16 16
      f == 0xFFFF || here (s.lastRan p (x.asidsOf f)))
    || match x.post with
       | some y => !x.ftstat.getLsbD 0 && here (y.ctxs.filter fun c => (s.ctx c).run == .free)
       | none => false

/-- A bench context may take the second of thread t (R18, R419, R491). -/
def State.benchFits (s : State) (t d : CtxId) (image : Word) : Bool :=
  let k := coreOf d
  let prim := s.ctx (primaryOf k)
  (s.ctx d).run == .free && !s.coreBarred (s.ctx t).part k && ((s.core k).resImage == imageOf (s.ctx t).part (s.ctx t).spr.asid image || prim.run == .free)
    && (prim.run == .free || prim.run == .frozen || prim.spr.asid == (s.ctx t).spr.asid)

/-- The first free context that R419 allows for the second of thread t. -/
def State.secondPlace (s : State) (t : CtxId) : Option CtxId :=
  match s.gangOf t with
  | none => none
  | some g =>
    let own := secondaryOf (coreOf t)
    if g.dom.bench ≤ s.domainSeconds (s.ctx t).part g.dom.name then none
    else if (s.ctx t).ctl.kind = .primary ∧ (s.ctx own).run = .free ∧ s.coreBarred (s.ctx t).part (coreOf t) = false then some own
    else (s.bench (s.ctx t).part).find? fun d => s.benchFits t d g.dom.rimg

/-- The capability of a second for a frozen thread. -/
def State.capFor (s : State) (t : CtxId) (check : Nat) : Option Cap :=
  (s.ctx t).frz.map fun f => { part := (s.ctx t).part, target := t, serial := f.serial, check := check }

/-- A gang's region is named by the post of its partition (R478). -/
def State.gangPosted (s : State) (g : Gang) : Bool :=
  match (s.part g.part).post, s.region? g.region with
  | some x, some r => x.queues.isEmpty || x.queues.contains r.queue.val
  | _, _ => false

/-- A second of a gang in scope of a post adds its context to the units that the post's vacancy scrubs (R484). -/
def State.notePosted (s : State) (g : Gang) (d : CtxId) : State :=
  if s.gangPosted g then
    s.mapPart g.part fun p => { p with post := p.post.map fun x => { x with ctxs := if x.ctxs.contains d then x.ctxs else x.ctxs ++ [d] } }
  else s

/-- Place the second of thread t in context d (R420, R422). Its task tempo counts from the tempo after this one, at which its first bundle
presents (DESIGN CHOICE, log entry 124). -/
def State.placeSecond (s : State) (t d : CtxId) : State :=
  let x := s.ctx t
  match x.frz, s.gangOf t with
  | some f, some g =>
    let check := s.fresh
    let s1 := (s.mapCtx t fun y => { y with frz := some { f with cap := some check, sup := false } }).bump
    let nested := x.ctl.kind == .second
    let h1 := if nested then
        (match x.forCtx with
         | some u =>
           (match (s1.ctx u).frz with
            | some v => if x.forSerial = some v.serial then v.cap.bind fun k => s1.capFor u k else none
            | none => none)
         | none => none)
      else none
    let entry := if nested || f.sup then g.dom.sent else g.dom.hent
    let s2 := ((s1.notePosted g d).readyCore (coreOf d) x.part x.spr.asid).loadImage (coreOf d) x.part x.spr.asid g.dom.rimg
    let y : Ctx :=
      { Ctx.reset with
        run := .run, part := x.part, gang := x.gang, forCtx := some t, forSerial := some f.serial, present := s.tempo + 1, mark := s.tempo,
        incarn := (s.ctx d).incarn
        acc := (s.ctx d).acc
        caps := ((Vector.replicate 4 none).set 0 (s1.capFor t check)).set 1 h1
        ctl := { Ctl.reset with pc := entry.truncate 14, kind := .second, level := if nested then 2 else 1 }
        spr := { Sprs.reset with
          lidx := x.spr.lidx, gsize := x.spr.gsize, tile := x.spr.tile, taskn := x.spr.taskn, asid := x.spr.asid,
          gen := x.spr.gen, start := s.tempo + 1 } }
    (s2.setCtx d y).mapPart x.part fun p => { p with fq := p.fq.filter fun u => u != t }
  | _, _ => s

/-- Every context of a halted domain stops, its fixed-length gangs held as at a freeze, and the host is told (R423). -/
def State.haltDomain (s : State) (t : CtxId) : State :=
  match s.gangOf t with
  | none => s.raise 1
  | some g =>
    let p := (s.ctx t).part
    let s1 := s.mapPart p fun x => { x with halted := if x.halted.contains g.dom.name then x.halted else x.halted ++ [g.dom.name] }
    let s2 : State := { s1 with gangs := s1.gangs.map fun y =>
      if y.2.part == p && y.2.dom.name == g.dom.name && y.2.kernel.tlen.isSome then
        (y.1, { y.2 with held := some (y.2.held.getD (s.tempo + 1)) })
      else y }
    s2.raise 1

/-- Put a frozen thread into the fault queue, in ascending serial order; a full queue halts its domain (R421). -/
def State.queueFault (s : State) (t : CtxId) : State :=
  let p := (s.ctx t).part
  let serial (c : CtxId) : Nat := match (s.ctx c).frz with | some f => f.serial.toNat | none => 0
  let q := (s.part p).fq
  if q.contains t then s
  else if 64 ≤ q.length then s.haltDomain t
  else s.mapPart p fun x =>
    { x with fq := (q.filter fun c => decide (serial c ≤ serial t)) ++ [t] ++ q.filter fun c => decide (serial t < serial c) }

/-- A frozen context waits for a second: its record is written, and nobody holds it. -/
def Ctx.awaits (x : Ctx) : Bool :=
  match x.frz with
  | some f => x.run == .frozen && f.written && f.cap.isNone && !f.host && f.resume.isNone
  | none => false

/-- The committed operations of a frozen context have drained, as far as the record waits for them (R407). -/
def State.drained (s : State) (c : CtxId) : Bool :=
  let x := s.ctx c
  let fixed := (s.fixedOf c).isSome
  let tagged (l : Landing) : Bool := match l.what with | .tag .. => true | _ => false
  x.pend.all tagged && (fixed || x.acc.all fun a => a.tag.isSome)
    && !((s.core (coreOf c)).array.any fun a => a.ctx == c && !a.stopped)
    && !((s.core (coreOf c)).lk.any fun o => o.ctx == c)

/-- SECOND_SPAWN: the record is written once the drain and the self-test are over, and a second is placed, or the fault queues, or
the domain halts (R406 steps 5 to 7, R414, R419 to R423). A second-level second that re-entered the queue after DREL is served like
any other entry (R421, R516; log entry 99). -/
def execSecondSpawn (c : CtxId) (s : State) : Host.Outcome State Fault Refusal :=
  .next (
    match (s.ctx c).frz with
    | none => s
    | some f =>
      let s1 := if !f.written && s.drained c && !f.testing then s.writeRecord c else s
      if !f.written && (!s.drained c || f.testing) then s.later 1 (.secondSpawn c)
      else if !(s1.ctx c).awaits || s1.domainHalted c then s1
      else if (s1.ctx c).ctl.kind = .second ∧ (s1.ctx c).ctl.level = 2 ∧ !f.written then s1.haltDomain c
      else
        match s1.secondPlace c with
        | some d => s1.placeSecond c d
        | none => s1.queueFault c)

/-- The oldest entry of a partition's fault queue that can be placed (R421). -/
def State.queuedPlace? (s : State) (p : PartId) : Option CtxId :=
  (s.part p).fq.find? fun t => (s.ctx t).awaits && !s.domainHalted t && (s.secondPlace t).isSome

/-! ## Reading and writing frozen state (R428 to R430) -/

/-- FRD of a frozen context. -/
def State.frdRead (s : State) (t : CtxId) (sel : FSel) : Word :=
  let x := s.ctx t
  let key := s.frameKey t
  match sel with
  | .s code => x.regs.getS (SReg.ofCode code.val)
  | .v code w => ((x.regs.getV 8 ((VReg.ofCode code.val).getD .zero)) >>> (64 * w.val)).truncate 64
  | .p i w => ((x.regs.getP i) >>> (64 * w.val)).truncate 64
  | .g i => x.regs.g[i]
  | .spr r => s.sprRead t r
  | .snap sl o w =>
    if 8 * w.val < snapBytes (s.snapDir t sl.val o.val) then
      BitVec.ofNat 64 (s.snapValue t sl.val o.val / 2 ^ (64 * w.val))
    else 0
  | .recd w => BitVec.ofNat 64 (readN s.mem (key + 8 * w.val) 8)
  | .defr e w => BitVec.ofNat 64 (readN s.mem (key + 256 + 128 * e.val + 8 * w.val) 8)
  | .rstk i => x.ctl.rstk[i]
  | .depth => BitVec.ofNat 64 x.ctl.depth.val
  | .loop n w =>
    let l := x.ctl.loops[n]
    match w.val with
    | 0 => (match l.st with | .idle => 0 | .armed => 1 | .active => 2)
    | 1 => l.count
    | 2 => l.iter
    | 3 => l.first
    | 4 => l.last
    | _ => l.depth

/-- FWR may write this with this value (R430). -/
def State.fwrOk (s : State) (t : CtxId) (sel : FSel) (v : Word) : Bool :=
  match sel with
  | .s _ | .v _ _ | .g _ | .rstk _ | .loop _ _ => true
  | .p i _ => i != 0
  | .spr r =>
    match r with
    | .csw | .tags | .xst _ | .nfmtV | .nfmtM | .amax | .fps | .lix _ | .lct _ | .lsd _ => true
    | _ => false
  | .snap sl o w => decide (8 * w.val < snapBytes (s.snapDir t sl.val o.val))
  | .recd _ => false
  | .defr e w =>
    w == 0 && (match (s.ctx t).frz with | some f => decide (e.val < f.items.length) | none => false)
      && decide (fld v.toNat 40 8 < 2)
  | .depth => decide (v.toNat ≤ 8)

/-- Replace the 64-bit word n of a register. -/
def setWord {w : Nat} (x : BitVec w) (n : Nat) (v : Word) : BitVec w :=
  let hole : BitVec w := (BitVec.ofNat w (2 ^ 64 - 1)) <<< (64 * n)
  (x &&& ~~~hole) ||| ((BitVec.ofNat w v.toNat) <<< (64 * n))

/-- Write a scalar code, last-result entries too. -/
def Regs.putS (r : Regs) (d : SReg) (v : Word) : Regs :=
  match d with
  | .last p old => { r with lastS := r.lastS.set (sLastIndex p old) v }
  | _ => r.setS d v

def Regs.putV (r : Regs) (d : VReg) (v : VWord) : Regs :=
  match d with
  | .last p old => { r with lastV := r.lastV.set (vLastIndex p old) v }
  | _ => r.setV d v

/-- Write a word of a loop level; a level made active becomes the innermost, one made otherwise leaves the nest (log entry 18). -/
def Ctl.putLoop (k : Ctl) (n : Fin 6) (w : Nat) (v : Word) : Ctl :=
  match w with
  | 0 =>
    let st : LoopState := if v.toNat % 4 = 1 then .armed else if v.toNat % 4 = 2 then .active else .idle
    let nest := if st = .active then (if k.nest.contains n then k.nest else n :: k.nest) else k.nest.filter fun m => m != n
    { k with nest := nest }.mapLoop n fun l => { l with st := st }
  | 1 => k.mapLoop n fun l => { l with count := v }
  | 2 => k.mapLoop n fun l => { l with iter := v }
  | 3 => k.mapLoop n fun l => { l with first := v }
  | 4 => k.mapLoop n fun l => { l with last := v }
  | _ => k.mapLoop n fun l => { l with depth := v }

/-- The fields of CSW that FWR writes (R430). -/
def Ctl.putCsw (k : Ctl) (v : Word) : Ctl :=
  let n := v.toNat
  { k with
    sres := Fin.ofNat 8 n, srv := v.getLsbD 3, schk := v.getLsbD 4, dly := v.getLsbD 23, pbv := v.getLsbD 24,
    pbd := v.getLsbD 25, pbt := BitVec.ofNat 14 (fld n 26 14) }

/-- FWR of a special register (R430). -/
def Ctx.putSpr (x : Ctx) (r : Spr) (v : Word) : Ctx :=
  match r with
  | .csw => { x with ctl := x.ctl.putCsw v }
  | .tags => { x with spr := { x.spr with tags := v } }
  | .xst t => { x with spr := { x.spr with xst := x.spr.xst.set t (v.truncate 8) } }
  | .nfmtV => { x with spr := { x.spr with nfmtV := v.truncate 6, nfmtPend := x.spr.nfmtPend.filter fun w => w.toM } }
  | .nfmtM => { x with spr := { x.spr with nfmtM := v.truncate 3, nfmtPend := x.spr.nfmtPend.filter fun w => !w.toM } }
  | .amax => { x with spr := { x.spr with amax := v.truncate 32 } }
  | .fps => { x with spr := { x.spr with fps := v.truncate 7 } }
  | .lix n => { x with ctl := { x.ctl with lix := x.ctl.lix.set n v } }
  | .lct n => { x with ctl := { x.ctl with lct := x.ctl.lct.set n v } }
  | .lsd n => { x with ctl := { x.ctl with lsd := x.ctl.lsd.set n v } }
  | _ => x

/-- An FWR lands in the frozen state (R430). -/
def State.fwrLand (s : State) (t : CtxId) (sel : FSel) (v : Word) : State :=
  let key := s.frameKey t
  match sel with
  | .s code => s.mapCtx t fun x => { x with regs := x.regs.putS (SReg.ofCode code.val) v }
  | .v code w => s.mapCtx t fun x =>
    let d := (VReg.ofCode code.val).getD .zero
    { x with regs := x.regs.putV d (setWord (x.regs.getV 8 d) w.val v) }
  | .p i w => s.mapCtx t fun x => { x with regs := x.regs.setP i (setWord x.regs.p[i] w.val v) }
  | .g i => s.mapCtx t fun x => { x with regs := { x.regs with g := x.regs.g.set i (stgMask i v) } }
  | .spr r => s.mapCtx t fun x => x.putSpr r v
  | .snap sl o w =>
    s.setMem (writeN s.mem (key + s.snapOffset t (8 * sl.val + o.val) + 8 * w.val) 8 v.toNat)
  | .recd _ => s
  | .defr e _ => s.setMem (writeByte s.mem (key + 256 + 128 * e.val + 5) (BitVec.ofNat 8 (fld v.toNat 40 8)))
  | .rstk i => s.mapCtx t fun x => { x with ctl := { x.ctl with rstk := x.ctl.rstk.set i v } }
  | .depth => s.mapCtx t fun x => { x with ctl := { x.ctl with depth := Fin.ofNat 9 v.toNat } }
  | .loop n w => s.mapCtx t fun x => { x with ctl := x.ctl.putLoop n w.val v }

/-! ## The handler forms (R425 to R435) -/

def privFault (d : Nat) : FaultInfo := { cause := 0x03, detail := d }

/-- A handler form at its slot: a second only, SCORE, then the frozen context of a valid capability (R52, R426). -/
def State.handler (s : State) (i : Instr) (lat : Nat) (h : Fin 4) (k : State → CtxId → State) :
    Host.Outcome State Fault Refusal :=
  .next (
    if s.ic.ctl.kind ≠ .second then s.fault (privFault 1)
    else s.scored i lat fun s =>
      match s.capTarget s.ic.caps[h] with
      | none => s.fault (privFault 2)
      | some t => k s t)

def execFrd (d : SReg) (h : Fin 4) (sel : FSel) (s : State) : Host.Outcome State Fault Refusal :=
  s.handler (.frd d h sel) 2 h fun s t => s.land 2 (.s d s.sProd (s.frdRead t sel))

def execFwr (s1 : SReg) (h : Fin 4) (sel : FSel) (s : State) : Host.Outcome State Fault Refusal :=
  s.handler (.fwr s1 h sel) 2 h fun s t =>
    let v := s.rdS 0 s1
    if s.fwrOk t sel v then s.land 2 (.fwr t sel v) else s.fault (privFault 3)

/-- FRES: a thread of a cluster retired without a spare raises PRIV (R426, R431). -/
def execFres (h : Fin 4) (s : State) : Host.Outcome State Fault Refusal :=
  s.handler (.fres h) 2 h fun s t =>
    if (s.core (coreOf t)).retired then s.fault (privFault 4) else s.land 2 (.fres t none)

def execFresPc (s1 : SReg) (h : Fin 4) (s : State) : Host.Outcome State Fault Refusal :=
  s.handler (.fresPc s1 h) 2 h fun s t =>
    if (s.core (coreOf t)).retired then s.fault (privFault 4) else s.land 2 (.fres t (some (s.rdS 0 s1)))

def execFkill (s1 : SReg) (h : Fin 4) (s : State) : Host.Outcome State Fault Refusal :=
  s.handler (.fkill s1 h) 2 h fun s t => s.land 2 (.fkill t (s.rdS 0 s1))

def execFpassSup (s1 : SReg) (h : Fin 4) (s : State) : Host.Outcome State Fault Refusal :=
  s.handler (.fpassSup s1 h) 2 h fun s t =>
    if s.ic.ctl.level = 2 then s.fault (privFault 5) else s.land 2 (.fpass t false (s.rdS 0 s1))

def execFpassHost (s1 : SReg) (h : Fin 4) (s : State) : Host.Outcome State Fault Refusal :=
  s.handler (.fpassHost s1 h) 2 h fun s t => s.land 2 (.fpass t true (s.rdS 0 s1))

/-- The word of FSTAT for a capability (R434). -/
def State.fstatWord (s : State) (c : CtxId) (k : Cap) : Word :=
  let p := (s.ctx c).part
  let free := ((s.bench p).filter fun d => (s.ctx d).run == .free).length
  let valid := (s.capTarget (some k)).isSome
  let x := s.ctx k.target
  let mine := match x.frz with | some f => f.serial == k.serial | none => false
  let ndef := match x.frz with
    | some f => if mine then
        ((List.range f.items.length).filter fun e => readByte s.mem (s.frameKey k.target + 256 + 128 * e + 5) == 0).length
      else 0
    | none => 0
  let late := match x.frz with | some f => mine && !f.late.isEmpty | none => false
  let held := match s.gangOf k.target with | some g => g.held.isSome | none => false
  let st := if valid then 0 else lookupD 2 (s.part p).spent k.serial.toNat
  BitVec.ofNat 64 (st + 2 ^ 8 * valid.toNat + 2 ^ 9 * held.toNat + 2 ^ 10 * late.toNat + 2 ^ 16 * ndef
    + 2 ^ 24 * (s.part p).fq.length + 2 ^ 32 * free)

/-- FSTAT faults on an empty register only (R434). -/
def execFstat (d : SReg) (h : Fin 4) (s : State) : Host.Outcome State Fault Refusal :=
  .next (
    if s.ic.ctl.kind ≠ .second then s.fault (privFault 1)
    else s.scored (.fstat d h) 2 fun s =>
      match s.ic.caps[h] with
      | none => s.fault (privFault 2)
      | some k => s.land 2 (.s d s.sProd (s.fstatWord s.iss.ctx k)))

/-- HMOV at its slot: an empty source raises PRIV in copy and move (R435). -/
def State.hmovIssue (s : State) (i : Instr) (hd hs : Fin 4) (move clear : Bool) : Host.Outcome State Fault Refusal :=
  .next (
    if s.ic.ctl.kind ≠ .second then s.fault (privFault 1)
    else s.scored i 1 fun s =>
      if !clear && s.ic.caps[hs].isNone then s.fault (privFault 2) else s.land 1 (.hmov hd hs move clear))

def execHmov (hd hs : Fin 4) (s : State) : Host.Outcome State Fault Refusal := s.hmovIssue (.hmov hd hs) hd hs false false
def execHmovMove (hd hs : Fin 4) (s : State) : Host.Outcome State Fault Refusal :=
  s.hmovIssue (.hmovMove hd hs) hd hs true false
def execHmovClear (hd : Fin 4) (s : State) : Host.Outcome State Fault Refusal := s.hmovIssue (.hmovClear hd) hd 0 false true

/-! ## Effects of the handler forms (R428, R431 to R433, R435) -/

/-- The thread is to go on: at its alignment, or with its gang (R431); it waits in no queue any more. -/
def State.resumeThread (s : State) (t : CtxId) (pc : Option Word) : State :=
  ((s.spend t 1).mapPart (s.ctx t).part fun p => { p with fq := p.fq.filter fun c => c != t }).mapCtx t fun x =>
    { x with frz := x.frz.map fun f =>
        { f with host := false, resume := some (s.tempo, match pc with | some a => .atPc a | none => .atSres) } }

/-- A capability of the thread is in force. -/
def State.heldThread (s : State) (t : CtxId) : Bool :=
  match (s.ctx t).frz with
  | some f => f.cap.isSome
  | none => false

/-- A handler form of second c takes effect. -/
def State.handlerLand (s : State) (c : CtxId) (w : LandWhat) : State :=
  match w with
  | .fwr t sel v => s.fwrLand t sel v
  | .fres t pc => if s.heldThread t then s.resumeThread t pc else s
  | .fkill t v => if s.heldThread t then (s.spend t 2).killThread t (v.truncate 32) else s
  | .fpass t host v =>
    if !s.heldThread t then s
    else if host then ((s.spend t 3).passHost t (some v)).endSecond c
    else
      let s1 := (s.spend t 3).mapCtx t fun x => { x with frz := x.frz.map fun f => { f with sup := true } }
      ((s1.setMem (writeN s1.mem (s1.frameKey t + 104) 8 v.toNat)).endSecond c).later 0 (.secondSpawn t)
  | .hmov hd hs move clear =>
    s.mapCtx c fun x =>
      let v := if clear then none else x.caps[hs]
      let caps := x.caps.set hd v
      { x with caps := if move then caps.set hs none else caps }
  | .xcan t => s.cancelCmd c t
  | _ => s

/-- The results of a context wait for the end of its gang's hold: those of a frozen member do not (R305, R407). -/
def State.paused (s : State) (c : CtxId) : Bool := s.heldCtx c && (s.ctx c).run != .frozen

/-- RESULT_LANDING of context c: what is due lands (R42, R49, R102, R165), after the link storage of its core (R314); handler forms
and XCAN take effect in issue order (R374, R428). -/
def execResultLanding (c : CtxId) (s : State) : Host.Outcome State Fault Refusal :=
  .next (
    let due := (s.ctx c).pend.filter (Landing.dueAt s.tempo (s.paused c))
    due.foldl (fun s l => s.handlerLand c l.what)
      ((s.linkStorage (coreOf c)).mapCtx c fun x => landAll s.tempo (s.paused c) x))

/-! ## Deferred conditions (R197, R409) -/

/-- A condition that waits for the end of a gang hold (R390, R400). -/
def DefItem.afterHold (d : DefItem) : Bool := d.cause == 0x20 && (d.detail == 9 || d.detail == 0x0D)

/-- A deferred condition freezes the context now: it drains, holds a bundle, is held, or is about to present (R197, R409). -/
def State.deferDue (s : State) (c : CtxId) : Bool :=
  let x := s.ctx c
  let ready := x.defer.any fun d => !(d.afterHold && s.heldCtx c)
  ready && (match x.run with
    | .drain => true
    | .run => x.hold.isSome || s.heldCtx c || decide (x.present ≤ s.tempo)
    | _ => false)

/-- DEFERRED_CONDITION: the context freezes before its next bundle (R409). The first condition found names the record, which lists every
one that stops an access or a command; a further one that lists nothing and is told by no record waits (R197, R336, R410). Where nothing
is listed R409 gives no SLOT: it is open (log entries 3 and 100). -/
def execDeferredCondition (c : CtxId) (s : State) : Host.Outcome State Fault Refusal :=
  .next (
    if !s.deferDue c then s
    else
      let x := s.ctx c
      match x.defer.find? fun d => !(d.afterHold && s.heldCtx c) with
      | none => s
      | some d =>
        let f : FaultInfo :=
          { cause := d.cause, detail := d.detail, faddr := d.addr, chain := d.chain, link := d.link, aux := d.aux, unit := d.unit,
            test := d.test, place := d.place }
        let s1 := s.setMem (zeroBytes s.mem (s.frameKey c + 128) 64)
        let freeze (s1 : State) (slot : Fin 8) : State :=
          s1.freezeCtx c f slot 0 ((x.defer.erase d).filter DefItem.waits) true (x.run == .drain) s.tempo
        match x.defer.find? DefItem.listed with
        | some e => freeze s1 e.slot
        | none => freeze s1.drawn (Fin.ofNat 8 (Config.freeBits s.draws 1012)))

/-! ## Resuming (R191, R294, R407, R416, R431) -/

/-- Reissue a deferred item (R197, R309, R359). -/
def State.reissueItem (s : State) (c : CtxId) (d : DefItem) : State :=
  match d.what with
  | .mem id =>
    let s1 := s.mapCtx c fun x => { x with elas := x.elas.map fun e => if e.id = id then { e with stopped := false } else e }
    match (s1.ctx c).elas.find? fun e => e.id == id with
    | some e =>
      match e.op with
      | .aord .. => s1.later 1 (.orderedAtomicArrival c id)
      | _ => s1.later 1 (.elasticAccessComplete c id false)
    | none => s1
  | .mx id =>
    s.mapCore (coreOf c) fun k =>
      match k.array.find? fun a => a.id == id with
      | none => k
      | some a =>
        let plan := max (s.tempo + 2) k.arrayFree
        { k with
          array := (k.array.filter fun b => b.id != id) ++
            [{ a with stopped := false, started := false, captured := false, issued := s.tempo, plan := plan }]
          arrayFree := plan + a.passes }
  | .xe t => s.mapCmd c t fun m => { m with stopped := false, started := false, injected := false, prog := .start, issued := s.tempo - 2 }
  | .none => s

/-- The deferred items of a resumed context: reissued, or ended LOST where the second cancelled them (R431 step 1). -/
def State.redoItems (s : State) (c : CtxId) (f : Frozen) : State :=
  let key := s.frameKey c
  (f.items.zipIdx).foldl (fun s d =>
    if readByte s.mem (key + 256 + 128 * d.2 + 5) = 0 then s.reissueItem c d.1 else s.cancelItem c d.1) s

/-- Every MMA that another context of a primary's core has issued has landed: one that a condition stopped has not (R294, R309). -/
def State.arrayClear (s : State) (c : CtxId) : Bool :=
  isSec c || !((s.core (coreOf c)).array.any fun a => a.ctx != c && !a.mlat)

/-- A frozen context has been told to go on and may: an elastic or secondary one at a multiple of 32 tempo since f, a member of a
fixed-length gang once its gang is not held (R431). -/
def State.resumeDue (s : State) (c : CtxId) : Bool :=
  let x := s.ctx c
  match x.frz with
  | none => false
  | some f =>
    match f.resume with
    | none => false
    | some (t, _) =>
      decide (t < s.tempo) && s.arrayClear c && !s.domainHalted c
        && (if (s.fixedOf c).isSome then !s.heldCtx c else (s.tempo - f.at_) % 32 == 0)

/-- An index of a bundle as FRES mode 01 names it: beyond every region when it does not fit. -/
def pcOf (a : Word) : BitVec 14 := if a.toNat < 2 ^ 14 then a.truncate 14 else 0x3FFF

/-- CONTEXT_RESUME: items are reissued, kept landings wait for the next issue, and the context goes on; a bundle that is given up leaves
the slots it had reserved (R322, R407, R431). -/
def execContextResume (c : CtxId) (s : State) : Host.Outcome State Fault Refusal :=
  .next (
    if !s.resumeDue c then s
    else
      let x := s.ctx c
      match x.frz with
      | none => s
      | some f =>
        let mode := match f.resume with | some (_, m) => m | none => .atSres
        let s0 := match mode with | .atSres => s | .atPc _ => s.lapse c
        let s1 := s0.redoItems c f
        let kept := f.kept.map fun l => (l.due - f.at_, l)
        let s2 := s1.mapCtx c fun y =>
          let z : Ctx := { y with frz := none, relast := y.relast ++ kept, defer := y.defer ++ f.late, present := s.tempo }
          match mode with
          | .atSres => { z with run := if f.drn then .drain else .run, hold := z.hold.map fun h => { h with met := true } }
          | .atPc a =>
            { z with
              run := .run, hold := none, counted := false, record := .none
              ctl := { z.ctl with pc := pcOf a, srv := false, sres := 0, pbv := false, pbd := false, pbt := 0, dly := false,
                                  past := false, first := false } }
        match x.gang with
        | some g =>
          (match s.gang? g with
           | some y =>
             if y.waitStart && x.ctl.kind != .second then
               (s.liveMembers y).foldl (fun s d => if d = c then s else s.mapCtx d fun z =>
                 { z with present := s.tempo, spr := { z.spr with start := s.tempo } })
                 (((s2.beginTasks y).mapGang g fun y => { y with waitStart := false }).mapCtx c fun z =>
                   { z with spr := { z.spr with start := s.tempo } })
             else s2
           | none => s2)
        | none => s2)

/-- The hold of a gang ends: every frozen member has been told to go on, the ring has drained, the array is clear of others, and
the tempo held are a multiple of 32 (R191, R294, R399, R416). -/
def State.holdEndDue (s : State) (g : Gang) : Bool :=
  match g.held with
  | none => false
  | some h =>
    let ms := s.liveMembers g
    !g.drainHold && decide (h < s.tempo) && (s.tempo - h) % 32 == 0
      && !((s.part g.part).halted.contains g.dom.name)
      && ms.all fun c =>
        s.arrayClear c && !s.coreTested (coreOf c) && s.testedBanks c == 0 && (s.ctx c).defer.all (fun d => d.afterHold) &&
          match (s.ctx c).frz with
          | none => true
          | some f => (match f.resume with | some (t, _) => decide (t < s.tempo) | none => false)

/-- Move the work of a member on by the tempo held, but what ends by a tag (R305, R407, R416); `h` is the first tempo of the hold. -/
def shiftMember (x : Ctx) (h d : Nat) : Ctx :=
  let acc := x.acc.map fun a => if a.tag.isSome then a else { a with due := a.due + d }
  let y : Ctx := { x with acc := acc, spr := { x.spr with start := x.spr.start + d } }
  if x.run = .frozen then y
  else
    { y with
      pend := x.pend.map (Landing.shift d)
      present := if h ≤ x.present then x.present + d else x.present
      mark := x.mark + d
      hold := x.hold.map fun k => { k with met := true } }

/-- The array of a core whose member was held: what its running contexts have there moves on (R305). -/
def shiftArray (k : Core) (frozen : CtxId → Bool) (c : CtxId) (h d : Nat) : Core :=
  if frozen c then k
  else
    { k with
      array := k.array.map fun a => if a.ctx = c then { a with plan := a.plan + d } else a
      arrayFree := if h ≤ k.arrayFree then k.arrayFree + d else k.arrayFree }

/-- GANG_HOLD_END: the gang runs again, with everything of it moved on by the tempo held (R191, R305, R407, R416). -/
def execGangHoldEnd (g : Nat) (s : State) : Host.Outcome State Fault Refusal :=
  .next (
    match s.gang? g with
    | none => s
    | some x =>
      match x.held with
      | none => s
      | some h =>
        if !s.holdEndDue x then s
        else
          let d := s.tempo - h
          let frozen (c : CtxId) : Bool := (s.ctx c).run == .frozen
          let s1 := (s.liveMembers x).foldl (fun s c =>
            (s.mapCtx c fun y => shiftMember y h d).mapCore (coreOf c) fun k => shiftArray k frozen c h d) s
          s1.mapGang g fun y => { y with held := none })

/-! ## Barriers and task length (R144, R145, R151) -/

/-- A member waits on barrier b: its held bundle is a BAR or BARW of it whose phase has changed. -/
def State.waitsOn (s : State) (c : CtxId) (b : Fin 16) : Bool :=
  let x := s.ctx c
  let word := match (s.core (coreOf c)).bundleAt x.ctl.pc.toNat with | some w => slotWord w 0 | none => 0
  x.hold.isSome && x.run == .run &&
    match decodeSlot 0 word with
    | .ok (some (.bar n _)) | .ok (some (.barw n _)) => n == b
    | _ => false

/-- BARRIER_RELEASE: 32 tempo after a barrier completes the members that wait on it may issue (R144, R145). -/
def execBarrierRelease (g : Nat) (b : Fin 16) (s : State) : Host.Outcome State Fault Refusal :=
  .next (
    match s.gang? g with
    | none => s
    | some x =>
      let k := x.barriers[b]
      if s.tempo < k.done + 32 then s
      else
        (s.liveMembers x).foldl (fun s c =>
          if s.waitsOn c b && (s.ctx c).arrivals[b].phase != k.phase then
            s.mapCtx c fun y => { y with hold := y.hold.map fun q => { q with met := q.met || q.rest } }
          else s) s)

/-- A fixed-length task has reached its length without a TEND, or with its drain unfinished (R151). -/
def State.expired (s : State) (c : CtxId) : Bool :=
  match s.fixedOf c with
  | none => false
  | some l =>
    let x := s.ctx c
    !s.heldCtx c && !s.domainHalted c &&
      ((x.run == .run && decide (l ≤ s.ttempo c))
        || (x.run == .drain && s.ttempo c == l && !s.quiet c))

/-- TASK_LENGTH_EXPIRY: TIMING at slot 0 of the bundle it would issue next, or of the TEND bundle (R151). -/
def execTaskLengthExpiry (c : CtxId) (s : State) : Host.Outcome State Fault Refusal :=
  .next (
    if !s.expired c then s
    else
      let x := s.ctx c
      let drn := x.run == .drain
      let words := ((s.core (coreOf c)).bundleAt x.ctl.pc.toNat).getD 0
      let s1 : State := { s with iss :=
        { ctx := c, slot := 0, pc := x.ctl.pc, words := words, rm := .rne, sat := .dflt, reentry := x.ctl.srv, stop := false,
          next := none, before := none, nfmtOld := x.spr.nfmtPend.length } }
      let s2 := s1.faultPresenting { cause := 0x20, detail := if drn then 2 else 1 }
      if drn then s2.mapCtx c fun y => { y with frz := y.frz.map fun f => { f with drn := true } } else s2)

end Sys2Proof.Machine
end

