-- ==== Sys2Proof/Machine/Images.lean ====
section
/-! DEFINITION. Kernel images and what the loader refuses of them (02 R47, R53, 03 R88 to R92, 05 R131, R153, R154, 07 R190,
14 R382, R383, 16 R446, 17 R462, R463). -/

namespace Sys2Proof

/-- An instruction repeats a destination of an earlier slot (R48, R163). -/
def Instr.repeats (i : Instr) (taken : List Dst) : Bool := i.dsts.any fun d => d.exclusive && taken.contains d

/-- A branch of the ctl slot. -/
def Instr.isBranch : Instr → Bool
  | .br .. | .brp .. | .jmp .. | .call .. | .ret .. | .swap .. => true
  | _ => false

/-- The ctl instructions that a delay bundle must not hold (R131). -/
def Instr.noDelay : Instr → Bool
  | .br .. | .brp .. | .jmp .. | .call .. | .ret .. | .swap .. | .loop .. | .lbrk .. | .tend .. | .safe .. => true
  | _ => false

end Sys2Proof

namespace Sys2Proof.Machine

/-- What a kernel image holds beside what its gang keeps. -/
structure Image where
  kernel : Kernel
  gang : Nat
  /-- addresses of the start fill and of the resident fills -/
  start : Word
  resident : List Word
  /-- initial template table (R89) -/
  table : Assoc Template
  /-- data sections: scratchpad address and bytes -/
  sections : List (Nat × List Byte)
  /-- what the director has read of it: addresses and bytes, in order (R499) -/
  reads : List (Nat × Nat)

/-- Refuse with a detail of R446 unless a condition holds. -/
def refuseUnless (d : Nat) (b : Bool) : Except Nat Unit := if b then .ok () else .error d

/-- What was read, or detail 0x07 (R446). -/
def readable {α : Type} : Option α → Except Nat α
  | some x => .ok x
  | none => .error 7

/-- Cut a list into n numbers of k bytes. -/
def chunks (k : Nat) : Nat → List Byte → List Nat
  | 0, _ => []
  | n + 1, l => numOf (l.take k) :: chunks k n (l.drop k)

/-- Where a section of an image stands that an offset and count pair names, in elements of k bytes. -/
def pairSpan (v pair k : Nat) : Nat × Nat := (v + pair % 2 ^ 32, k * (pair / 2 ^ 32))

/-- A section of an image that an offset and count pair names, in elements of k bytes; one that holds anything is aligned to 64 bytes
(R92; log entry 110). -/
def State.imgTable (s : State) (p : PartId) (asid : BitVec 14) (v pair k : Nat) : Except Nat (List Nat) := do
  let n := pair / 2 ^ 32
  refuseUnless 4 (n == 0 || pair % 64 == 0)
  let l ← readable (s.dirRead p asid (k * n + 1) (v + pair % 2 ^ 32) (k * n))
  return chunks k n l

/-! ## The header (R92, R190) -/

/-- The order field: dimension numbers, outermost first (R92). -/
def nestOrder (w : Nat) : List Nat := (List.range 4).map fun k => fld w (2 + 2 * k) 2

/-- The extents of an image header. -/
def headerExt (h : Nat) : List Nat := (List.range 4).map fun k => fld h (128 + 32 * k) 32

/-- The header of an image keeps R92 and R190. -/
def headerOk (h : Nat) : Bool :=
  let nest := fld h 80 16
  let d := fld nest 0 2 + 1
  let ord := nestOrder nest
  let ext := headerExt h
  fld h 0 32 == 0x5A47494B && fld h 32 16 == 1 && decide (fld h 48 16 < 16)
    && decide (1 ≤ fld h 64 16) && decide (fld h 64 16 ≤ 256) && fld nest 10 6 == 0
    && (ord.take d).all (fun x => decide (x < d)) && (ord.take d).eraseDups.length == d
    && ord.drop d == (List.range 4).drop d
    && ext.all (fun n => decide (1 ≤ n)) && (ext.drop d).all (fun n => n == 1)
    && (fld h 48 1 == 1) == decide (0 < fld h 96 32) && fld h 96 32 % 32 == 0 && fld h 608 416 == 0

/-- Tasks of a nest. -/
def nestSize (ext : List Nat) : Nat := ext.foldl (· * ·) 1

/-! ## Timetables (R382, R383) -/

/-- One timetable entry (R382). -/
def timeEntry (sub : Fin 4) (w : Nat) : TimeEntry :=
  { sub := sub, desc := fld w 48 1 == 1, rcv := fld w 40 8, snd := fld w 32 8, off := fld w 0 32, dead := false }

/-- n timetables in image order, each with its sub-ring; together they have at most `room` entries. -/
def State.readTimes (s : State) (p : PartId) (asid : BitVec 14) : Nat → Nat → Nat → Except Nat (List (Fin 4 × List TimeEntry))
  | 0, _, _ => .ok []
  | n + 1, room, a => do
    let h ← readable (s.dirNum p asid a 16)
    let sub := fld h 0 8
    let k := fld h 32 32
    refuseUnless 4 (decide (sub < 4) && h == sub + 2 ^ 32 * k && decide (k ≤ room))
    let l ← readable (s.dirRead p asid (8 * k + 1) (a + 16) (8 * k))
    let es := chunks 8 k l
    refuseUnless 4 (es.all fun w => fld w 49 15 == 0)
    let rest ← s.readTimes p asid n (room - k) (a + 16 + 8 * k)
    return (Fin.ofNat 4 sub, es.map (timeEntry (Fin.ofNat 4 sub))) :: rest

/-- The rules of R383 for the timetables of an image of g members. -/
def timesOk (g : Nat) (tlen : Option Nat) (tables : List (Fin 4 × List TimeEntry)) : Bool :=
  match tlen with
  | none => tables.isEmpty
  | some len =>
    let l := tables.flatMap (·.2)
    decide ((tables.map (·.1)).Nodup)
      && (l.all fun e => e.off % 2 == 0 && decide (e.off + 64 < len) && decide (e.snd < g) && decide (e.rcv < g) && e.snd != e.rcv)
      && (l.zipIdx.all fun x => (l.drop (x.2 + 1)).all (entriesAgree x.1))

/-! ## Safe points (R91, R462, R463) -/

/-- A sealed-move item that the loader takes: an assigned KIND, fields in range, reserved bits 0 (R463). -/
def itemOk (w : Nat) : Bool :=
  let x := fld w 8 8
  match fld w 0 8 with
  | 1 => decide (x ≤ 61) && decide (w < 2 ^ 16)
  | 2 => decide (x ≤ 45) && decide (w < 2 ^ 16)
  | 3 => decide (1 ≤ x) && decide (x ≤ 7) && decide (w < 2 ^ 16)
  | 4 => decide (x ≤ 23) && decide (w < 2 ^ 16)
  | 5 =>
    let i := fld w 16 6
    decide (w < 2 ^ 22) && (((x == 0x1A || x == 0x1B) && i == 0) || ((x == 0x21 || x == 0x22) && decide (i ≤ 5)))
  | 6 => decide (x ≤ 63) && decide (w < 2 ^ 16)
  | 7 => decide (x ≤ 7) && decide (w < 2 ^ 16)
  | 8 =>
    let a := fld w 8 24
    let n := fld w 32 32
    a % 64 == 0 && n % 64 == 0 && decide (64 ≤ n) && decide (a + n ≤ 0x400000)
  | _ => false

/-- Two items name some of the same state (R463): the same item, or ranges of the scratchpad that overlap. -/
def itemsClash (a b : Nat) : Bool :=
  if fld a 0 8 = 8 ∧ fld b 0 8 = 8 then
    decide (fld a 8 24 < fld b 8 24 + fld b 32 32) && decide (fld b 8 24 < fld a 8 24 + fld a 32 32)
  else a == b

/-- The items of one safe point keep R463. -/
def itemsOk : List Nat → Bool
  | [] => true
  | a :: rest => itemOk a && !(rest.any (itemsClash a)) && itemsOk rest

/-- Bytes of an item in a member block (R463, R466). -/
def itemLen (w : Nat) : Nat :=
  let k := fld w 0 8
  if k = 2 then 512 else if k = 3 then 128 else if k = 7 then 0 else if k = 8 then fld w 32 32 + 2 * (fld w 32 32 / 64) else 8

/-- SIZE of a safe point with its items, each rounded up to 64 bytes (R466). -/
def safeSize (items : List Nat) : Nat := 4096 + (items.map fun w => (itemLen w + 63) / 64 * 64).foldl (· + ·) 0

/-- Where the items of a safe-point table entry stand. -/
def itemSpan (v e : Nat) : Nat × Nat := (v + fld e 64 32, 8 * fld e 32 16)

/-- A safe-point table entry with its items (R462, R463, R466). -/
def State.readSafe (s : State) (p : PartId) (asid : BitVec 14) (v e : Nat) : Except Nat SafePoint := do
  let n := fld e 32 16
  refuseUnless 4 (decide (n ≤ 512) && fld e 48 16 == 0 && fld e 64 32 % 8 == 0)
  let l ← readable (s.dirRead p asid (8 * n + 1) (v + fld e 64 32) (8 * n))
  let items := chunks 8 n l
  refuseUnless 4 (itemsOk items && fld e 96 32 == safeSize items)
  return { id := BitVec.ofNat 16 (fld e 0 16), pc := fld e 16 16, size := fld e 96 32, items := items.map (BitVec.ofNat 64) }

/-- Ids rise (R462). -/
def idsRise : List SafePoint → Bool
  | a :: b :: rest => decide (a.id.toNat < b.id.toNat) && idsRise (b :: rest)
  | _ => true

/-! ## Fills (R47, R53, R88, R90, R91, R131, R153) -/

/-- The slots of a bundle, decoded. -/
def slotsOf (b : Bundle) : List (Fin 8 × Except Nat (Option Instr)) :=
  (List.finRange 8).map fun k => (k, decodeSlot k (slotWord b k))

/-- The instructions of decoded slots, those that are malformed left out. -/
def instrsOf (l : List (Fin 8 × Except Nat (Option Instr))) : List (Fin 8 × Instr) :=
  l.filterMap fun d => match d.2 with | .ok (some i) => some (d.1, i) | _ => none

/-- Distinct main-file registers that instructions read: scalar and vector (R46). -/
def portsRead (l : List Instr) : Nat × Nat :=
  let srcs := l.flatMap Instr.srcs
  let ss := srcs.filterMap fun r => match r with | .s (.s i) => some i | _ => none
  let vs := srcs.filterMap fun r => match r with | .v (.v i) => some i | _ => none
  (ss.eraseDups.length, vs.eraseDups.length)

/-- The port limits of R46 are kept. -/
def portsOk (l : List Instr) : Bool := decide ((portsRead l).1 ≤ 6) && decide ((portsRead l).2 ≤ 4)

/-- No instruction repeats a destination of an earlier one. -/
def dstsOk (taken : List Dst) : List Instr → Bool
  | [] => true
  | i :: rest => !i.repeats taken && dstsOk (i.dsts ++ taken) rest

/-- The instruction of the ctl slot of a bundle. -/
def ctlOf (b : Bundle) : Option Instr :=
  match decodeSlot 0 (slotWord b 0) with
  | .ok (some i) => some i
  | _ => none

/-- The ctl instruction of a bundle has a property. -/
def ctlHas (f : Instr → Bool) (b : Bundle) : Bool := (ctlOf b).any f

/-- Slots 1 to 7 of a bundle hold nothing (R153). -/
def ctlAlone (b : Bundle) : Bool := (List.finRange 8).all fun k => k == 0 || major (slotWord b k).toNat == 0

/-- The id of a bundle's SAFE. -/
def safeId? (b : Bundle) : Option (BitVec 16) :=
  match ctlOf b with
  | some (.safe id _) => some id
  | _ => none

/-- The loader takes a bundle: it raises no ILLEGAL by its encoding (R47, R53), and its SAFE stands alone (R153). -/
def bundleOk (b : Bundle) : Bool :=
  let l := slotsOf b
  let is := (instrsOf l).map (·.2)
  l.all (fun d => match d.2 with | .ok _ => true | .error _ => false)
    && portsOk is && dstsOk [] is && ((safeId? b).isNone || ctlAlone b)

/-- No bundle after a branch bundle holds what a delay bundle must not (R131). -/
def delaysOk : List Bundle → Bool
  | a :: b :: rest => !(ctlHas Instr.isBranch a && ctlHas Instr.noDelay b) && delaysOk (b :: rest)
  | _ => true

/-- A fill of an image, expanded by R90. -/
structure ImageFill where
  /-- chamber code: 0 chamber A, 1 chamber B, 2 resident area (R92) -/
  code : Nat
  addr : Nat
  fill : Fill
  entry : Nat

/-- The bundles of a fill, in order. -/
def ImageFill.bundles (f : ImageFill) : List Bundle := f.fill.bundles.reverse

/-- Expand a fill of the fill table (R88, R90, R92): a fill of chamber A or B from the initial table, a resident fill from an empty one. -/
def State.readFill (s : State) (p : PartId) (asid : BitVec 14) (v : Nat) (table : Assoc Template) (e : Nat) : Except Nat ImageFill := do
  let code := fld e 64 32
  refuseUnless 4 (decide (code < 3))
  let a := v + fld e 0 64
  let r := s.dirFill p asid a (if code = 2 then [] else table)
  refuseUnless 7 (r.2.2 != some .addr)
  let f : ImageFill := { code := code, addr := a, fill := r.1, entry := r.2.1 }
  refuseUnless 4 (r.2.2 == some .ok && r.1.count == fld e 96 32 && (code != 2 || decide (r.1.count ≤ 128)))
  refuseUnless 4 (f.bundles.all bundleOk && delaysOk f.bundles)
  return f

/-- No fill of chamber A or B uses an entry, before its own update blocks write it, that another fill writes (R90). -/
def usableOk (fills : List ImageFill) : Bool :=
  fills.zipIdx.all fun x =>
    x.1.code == 2 || fills.zipIdx.all fun y =>
      y.2 == x.2 || !(x.1.fill.used.any fun n => y.1.fill.wrote.contains n)

/-- The SAFE bundles of an image: id and absolute bundle index (R91, R462). -/
def safesOf (fills : List ImageFill) : List (BitVec 16 × Nat) :=
  fills.flatMap fun f => f.bundles.zipIdx.filterMap fun b => (safeId? b.1).map fun id => (id, 4096 * f.code + b.2)

/-- Each SAFE id stands in one bundle and has one entry, which records its PC, and each entry has its SAFE (R91, R462). -/
def safesOk (fills : List ImageFill) (points : List SafePoint) : Bool :=
  let l := safesOf fills
  idsRise points && decide ((l.map (·.1)).Nodup) && l.length == points.length
    && points.all fun q => l.contains (q.id, q.pc)

/-! ## The image -/

/-- Read an image, or the detail of R446 that it is refused with. One without a fill of chamber A has no start fill, and is refused (DESIGN
CHOICE, log entry 110). The measures behind MDIST (R465) are the loader's output, and the
header is taken at its word for them (log entry 69). -/
def State.readImage (s : State) (p : PartId) (asid : BitVec 14) (addr : Word) : Except Nat Image := do
  let v := addr.toNat
  let h ← readable (s.dirNum p asid v 128)
  refuseUnless 4 (headerOk h)
  let g := fld h 64 16
  let tlen := if fld h 48 1 = 1 then some (fld h 96 32) else none
  let ext := headerExt h
  let ttab := fld h 256 64
  let n := ttab / 2 ^ 32
  refuseUnless 4 ((n == 0 || ttab % 64 == 0) && n % 36 == 0 && decide (nestSize ext < 2 ^ 32))
  let tt ← readable (s.dirRead p asid (n + 1) (v + ttab % 2 ^ 32) n)
  let table ← match updateRecords (n / 36) tt [] with
    | some t => .ok t.1
    | none => .error 4
  let fillTable ← s.imgTable p asid v (fld h 320 64) 16
  let fills ← fillTable.mapM (s.readFill p asid v table)
  refuseUnless 4 (usableOk fills)
  let safes ← s.imgTable p asid v (fld h 384 64) 16
  let points ← safes.mapM (s.readSafe p asid v)
  refuseUnless 4 (safesOk fills points)
  let datas ← s.imgTable p asid v (fld h 448 64) 16
  let sections ← datas.mapM fun d => do
    refuseUnless 4 (decide (fld d 0 32 + fld d 32 32 ≤ 0x400000))
    let l ← readable (s.dirRead p asid (fld d 32 32 + 1) (v + fld d 64 64) (fld d 32 32))
    return (fld d 0 32, l)
  let time := fld h 512 64
  refuseUnless 4 (decide (time / 2 ^ 32 ≤ 4) && (time / 2 ^ 32 == 0 || time % 64 == 0))
  let times ← s.readTimes p asid (time / 2 ^ 32) 4096 (v + time % 2 ^ 32)
  refuseUnless 4 (timesOk g tlen times)
  match fills.find? fun f => f.code == 0 with
  | none => .error 4
  | some start =>
    .ok
      { kernel :=
          { addr := addr, tlen := tlen, pinv := fld h 49 1 == 1, guard := fld h 50 1 == 1, single := fld h 51 1 == 1,
            chb := fills.any fun f => f.bundles.any fun b => major (slotWord b 6).toNat == 0x08,
            entry := start.entry, mdist := fld h 576 32, extents := ext, order := nestOrder (fld h 80 16),
            safePoints := points, times := times.flatMap (·.2), subs := times.map (·.1) }
        gang := g
        start := BitVec.ofNat 64 start.addr
        resident := (fills.filter fun f => f.code == 2).map fun f => BitVec.ofNat 64 f.addr
        table := table
        sections := sections
        reads := [(v, 128), (v + ttab % 2 ^ 32, n), pairSpan v (fld h 320 64) 16] ++ fills.flatMap (·.fill.read.reverse)
          ++ pairSpan v (fld h 384 64) 16 :: safes.map (itemSpan v) ++ pairSpan v (fld h 448 64) 16 :: datas.map (fun d =>
            (v + fld d 64 64, fld d 32 32)) ++ [(v + time % 2 ^ 32, times.foldl (fun k x => k + 16 + 8 * x.2.length) 0)] }

/-- Tasks of a leaf's nest as its image header gives them; 0 where it cannot be read. -/
def State.nestOf (s : State) (p : PartId) (asid : BitVec 14) (addr : Word) : Nat :=
  match s.dirNum p asid (addr.toNat + 16) 16 with
  | some w => nestSize ((List.range 4).map fun k => fld w (32 * k) 32)
  | none => 0

end Sys2Proof.Machine
end

