-- ==== Sys2Proof/Machine/Scheduling.lean ====
section
/-! DEFINITION. Queues, regions and the director (16 R438 to R461): enqueue, admission, kernel images, placement and load, the tile
walker, slices, switching, weight replacement. -/

namespace Sys2Proof.Machine

def allOf {α : Type} : List (Option α) → Option (List α)
  | [] => some []
  | some x :: rest => (allOf rest).map (x :: ·)
  | none :: _ => none

/-! ## The tile walker (R451) -/

/-- Coordinate of a task. -/
def taskTile (k : Kernel) (n : Nat) : Vector (BitVec 32) 4 :=
  (k.order.reverse.foldl (fun (acc : Nat × Vector (BitVec 32) 4) d =>
    let e := max 1 (k.extents.getD d 1)
    (acc.1 / e, acc.2.set (Fin.ofNat 4 d) (BitVec.ofNat 32 (acc.1 % e)))) (n, Vector.replicate 4 0)).2

/-- First task of a member's slice, of gang size g. -/
def sliceLo (k : Kernel) (g i : Nat) : Nat := i * nestSize k.extents / g

/-! ## Flag-time scope and scrubs (R478, R503) -/

/-- The region is in scope of a post in force. -/
def State.postScope (s : State) (r : Region) : Bool :=
  match (s.part r.part).post with
  | some x => x.queues.isEmpty || x.queues.contains r.queue.val
  | none => false

/-- A queue is in scope of a post in force. -/
def State.queuePosted (s : State) (q : QueueId) : Bool :=
  match (s.part (s.queue q).part).post with
  | some x => x.queues.isEmpty || x.queues.contains q.val
  | none => false

/-- A scrub that runs covers an ASID (R502, R503). -/
def State.scrubScope (s : State) (p : PartId) (asid : BitVec 14) : Bool :=
  (s.part p).scrub.any fun x =>
    let f := fld x.req.toNat 16 16
    f == 0xFFFF || (s.part p).asids.any fun e => e.asid == asid && e.func == f

/-! ## Weight replacement: holds (R460) -/

/-- A request's region is held at the replacement barrier: its request is of the new generation, and it stands at or after the
first sibling of the layer now replaced or a later one. -/
def State.replHeld (s : State) (r : Region) : Bool :=
  match (s.queue r.queue).repl, r.parent with
  | some x, some p =>
    if r.update || r.gen != x.gen || p != r.root then false
    else
      match s.region? p with
      | none => false
      | some g =>
        let layers := g.children.map fun k => match s.region? k with | some c => c.layer | none => 0xFF
        let at_ := layers.findIdx fun l => l != 0xFF && decide (x.layer ≤ l)
        decide (at_ ≤ g.children.idxOf r.id)
  | _, _ => false

/-! ## Placement (R17, R18, R449, R454, R491) -/

/-- A core may take a member of a kernel: secondary or primary context, under an ASID and a resident image. A primary task waits
until the array is clear of others (R294), and none goes where a scrub is to come (R484, R503). -/
def State.coreFits (s : State) (p : PartId) (asid : BitVec 14) (rimg : Word) (sec single : Bool) (k : CoreId) : Bool :=
  let pr := s.ctx (primaryOf k)
  let se := s.ctx (secondaryOf k)
  let other := if sec then pr else se
  (s.part p).hasCore k && !(s.core k).retired && !s.coreBarred p k && (if sec then se else pr).run == .free
    && !(sec && (s.bench p).contains (secondaryOf k)) && s.arrayClear (if sec then secondaryOf k else primaryOf k)
    && (other.run == .free
      || ((s.core k).resImage == imageOf p asid rimg && other.part == p && other.spr.asid == asid
        && (if sec then (match s.gangOf (primaryOf k) with | some g => g.kernel.single | none => false)
            else se.ctl.kind == .second || single)))

/-- Consecutive members from i whose cores on a die are free, up to n. -/
def freeRun (free : CoreId → Bool) (d : DieId) (k : Nat) : Nat → Nat → List CoreId
  | 0, _ => []
  | n + 1, i =>
    let c : CoreId := Fin.ofNat 256 (32 * d.val + (i + k) % 32)
    if free c then c :: freeRun free d k n (i + 1) else []

/-- Cores of the members from i on, each die taking one contiguous run (log entry 24). -/
def placeFrom (free : CoreId → Bool) (g k : Nat) : Nat → List DieId → Nat → Option (List CoreId)
  | 0, _, i => if g ≤ i then some [] else none
  | n + 1, dies, i =>
    if g ≤ i then some []
    else
      dies.findSome? fun d =>
        match freeRun free d k (min 32 (g - i)) i with
        | [] => none
        | run => (placeFrom free g k n (dies.filter fun e => e != d) (i + run.length)).map fun rest => run ++ rest

/-- The k of a start at this tempo: (g + k) mod 32 = 0 (R189, R449). -/
def State.alignK (s : State) : Nat := (32 - s.tempo % 32) % 32

/-- A placement of a gang of g members at this tempo; which dies come first is open (R449; log entry 3). -/
def State.place (s : State) (free : CoreId → Bool) (g k : Nat) : Option (List CoreId) :=
  let n := Config.freeBits s.draws 1004 % 8
  let dies : List DieId := (List.finRange 8).drop n ++ (List.finRange 8).take n
  placeFrom free g k 8 dies 0

/-- The sub-rings of a gang's timetables can be claimed (R384, R486). -/
def State.claimable (s : State) (p : PartId) (subs : List (Fin 4)) : Bool :=
  subs.all fun b => (s.part p).pring.getLsbD b.val && !(s.pkg.claims.any fun c => c.2 == b)

/-- How a due region can go on its cores. -/
structure Placement where
  members : List CtxId
  k : Nat
  /-- the image of a region that starts afresh -/
  image : Option Image

/-- An area of n bytes lies in the partition's share and translates for writing, 64 KiB by 64 KiB (R458, R469). -/
def State.areaOk (s : State) (p : PartId) (asid : BitVec 14) (a : Word) (n : Nat) : Bool :=
  a.toNat % 65536 == 0 &&
    (List.range ((n + 65535) / 65536)).all fun j =>
      match s.translate (s.dirCore p) p asid (a + BitVec.ofNat 64 (65536 * j)) .write with
      | .ok t => t.dev && (s.part p).inShare t.pa
      | .error _ => false

/-- The resident fill that the effective RIMG names: none for 0; unreadable gives detail 0x07; one that does not end OK, or is longer than
the resident area, detail 0x04 (DESIGN CHOICE, log entry 105). -/
def State.residentFlaw (s : State) (p : PartId) (asid : BitVec 14) (rimg : Word) : Option Nat :=
  if rimg = 0 then none
  else
    let r := s.dirFill p asid rimg.toNat []
    if r.2.2 = some .addr then some 7 else if r.2.2 ≠ some .ok ∨ 128 < r.1.count then some 4 else none

/-- The structural checks of a leaf and its image (R446), SAVA among them (R458). -/
def State.leafImage (s : State) (r : Region) : Except Nat Image :=
  match s.readImage r.part r.asid r.kernel with
  | .error d => .error d
  | .ok i =>
    let part := s.part r.part
    if part.spb < i.kernel.mdist then .error 4
    else if i.kernel.tlen.isSome ≠ r.eff.fixed ∨ i.kernel.pinv ≠ r.eff.pinv then .error 5
    else if r.eff.budc < i.gang ∨ part.cores.length < i.gang then .error 6
    else
      match s.residentFlaw r.part r.asid r.eff.dom.rimg with
      | some d => .error d
      | none =>
        if r.eff.sava ≠ 0 ∧ s.areaOk r.part r.asid r.eff.sava (0x480000 * i.gang) = false then .error 8
        else if i.resident.any fun a => a != r.eff.dom.rimg then .error 0x0A
        else .ok i

/-- What a waiting leaf has to place: a fresh image, or a gang that was switched out or adjourned. -/
inductive Work
  | fresh (i : Image)
  | saved (x : Saved)

/-- What a waiting leaf has to place, or the detail of R446 that it fails with (R446, R465). -/
def State.workOf (s : State) (r : Region) : Except Nat Work :=
  match r.saved with
  | some x => if (s.part r.part).spb < x.gang.kernel.mdist then .error 4 else .ok (.saved x)
  | none => (s.leafImage r).map .fresh

/-- A placement of a fresh gang at this tempo on free cores that are not taken: on secondary contexts only where no k would let it take
primary ones (R17, R449; log entry 65). -/
def State.placeFresh (s : State) (r : Region) (i : Image) (taken : List CoreId) : Option Placement :=
  let at_ (sec : Bool) (j : Nat) : Option (List CoreId) :=
    s.place (fun c => !taken.contains c && s.coreFits r.part r.asid r.eff.dom.rimg sec i.kernel.single c) i.gang j
  let plan (sec : Bool) : Option Placement :=
    (at_ sec s.alignK).map fun cs =>
      { members := cs.map fun c => if sec then secondaryOf c else primaryOf c, k := s.alignK, image := some i }
  if !s.claimable r.part i.kernel.subs then none
  else
    match plan false with
    | some x => some x
    | none =>
      if i.kernel.tlen.isNone && i.kernel.single && (List.range 32).all (fun j => (at_ false j).isNone) then plan true
      else none

/-- A placement, at this tempo, of a gang that comes back: one without PINV that was switched out waits for the same cores (R458), an
adjourned one takes any (R471), aligned to the task tempo it goes on from (R472). -/
def State.placeSaved (s : State) (r : Region) (x : Saved) (taken : List CoreId) : Option Placement :=
  let g := x.gang
  let sec := match g.members.head? with | some c => isSec c | none => false
  let ok (c : CoreId) : Bool := !taken.contains c && s.coreFits r.part r.asid r.eff.dom.rimg sec g.kernel.single c
  let left := match x.members.find? fun m => !m.ended with | some m => m.ctx.present - m.ctx.spr.start | none => 0
  let k := if r.state = .adjourned then (32 + left % 32 - s.tempo % 32) % 32 else s.alignK
  if !s.claimable r.part g.kernel.subs then none
  else if r.state ≠ .adjourned ∧ g.kernel.pinv = false then
    if g.k = k && x.members.all fun m => m.ended || (match g.members[m.lidx]? with | some c => ok (coreOf c) | none => false) then
      some { members := g.members, k := k, image := none }
    else none
  else
    (s.place ok g.members.length k).map fun cs =>
      { members := cs.map fun c => if sec then secondaryOf c else primaryOf c, k := k, image := none }

/-- How a waiting leaf can be placed at this tempo, on cores that are not taken. -/
def State.placeAt (s : State) (r : Region) (w : Work) (taken : List CoreId) : Option Placement :=
  match w with
  | .fresh i => s.placeFresh r i taken
  | .saved x => s.placeSaved r x taken

/-- Where a waiting leaf goes with the cores that are free now: at the first tempo, one for each k, at which it fits. -/
def State.firstPlace (s : State) (r : Region) (w : Work) (taken : List CoreId) : Option Placement :=
  (List.range 32).findSome? fun j => ({ s with tempo := s.tempo + j } : State).placeAt r w taken

/-! ## Rings, turns and claims (R455, R457) -/

/-- A leaf that waits for cores: due, or switched out or adjourned and free to come back. -/
def State.waits (s : State) (r : Region) : Bool :=
  r.leaf && !s.postScope r && !s.scrubScope r.part r.asid && !(s.part r.part).halted.contains r.eff.dom.name
    && (r.state == .waiting || r.state == .switched || r.state == .adjourned)

/-- Place of a leaf in its ring: queue, admission, place in its tree (R455). -/
def Region.place (r : Region) : List Nat := [r.queue.val, r.order, r.id]

/-- Region a is served before region b: the lower priority number, then the ring of the priority in turn, from behind the leaf whose
turn ended last (R455). -/
def State.servedBefore (s : State) (a b : Region) : Bool :=
  let behind (r : Region) : Bool :=
    match lookup? (s.part r.part).turns r.eff.prio with
    | some t => decide (t < r.place)
    | none => true
  decide (a.eff.prio < b.eff.prio)
    || (a.eff.prio == b.eff.prio && (if behind a = behind b then decide (a.place < b.place) else behind a))

/-- Waiting leaves of a partition that are served before a region, in that order. -/
def State.ahead (s : State) (r : Region) : List Region :=
  ((s.regions.map (·.2)).filter fun x => x.part == r.part && x.id != r.id && s.waits x && s.servedBefore x r).mergeSort fun a b =>
    !s.servedBefore b a

/-- Cores that go to the leaves served before a region: each takes those on which it fits first (R455; log entry 86). -/
def State.reserved (s : State) (r : Region) : List CoreId :=
  (s.ahead r).foldl (fun taken x =>
    match s.workOf x with
    | .error _ => taken
    | .ok w => (match s.firstPlace x w taken with | some y => taken ++ y.members.map coreOf | none => taken)) []

/-- A gang may leave its cores by a switch (R457). -/
def State.switchable (s : State) (g : Gang) : Bool :=
  match s.region? g.region with
  | none => false
  | some r =>
    r.eff.sava != 0 && !g.adjourn && !g.waitStart
      && !((s.liveMembers g).any fun c => (s.ctx c).run == .frozen) && (s.secondsOf g.id).isEmpty

/-- The part as it would be if a list of gangs had left their cores and their sub-rings. -/
def State.without (s : State) (gs : List Gang) : State :=
  let s1 := (gs.flatMap fun g => s.liveMembers g).foldl (fun s c => s.mapCtx c fun x => { x with run := .free }) s
  { s1 with pkg := { s1.pkg with claims := s1.pkg.claims.filter fun x => !(gs.any fun g => g.id == x.1) } }

/-- A waiting leaf would fit, at some k, if a list of gangs left their cores. -/
def State.fitsWithout (s : State) (r : Region) (w : Work) (gs : List Gang) : Bool :=
  ((s.without gs).firstPlace r w (s.reserved r)).isSome

/-- Gangs that may be switched out for a region and whose priority number keeps a rule, the highest number first. -/
def State.leavers (s : State) (r : Region) (keep : Nat → Bool) : List Gang :=
  let prio (g : Gang) : Nat := match s.region? g.region with | some x => x.eff.prio | none => 0
  ((s.gangs.map (·.2)).filter fun g => g.part == r.part && s.switchable g && keep (prio g)).mergeSort fun a b =>
    decide (prio b ≤ prio a)

/-- As many of a list of gangs, in order, as make a region fit when they leave beside others that do. -/
def State.enough (s : State) (r : Region) (w : Work) (taken : List Gang) : List Gang → List Gang
  | [] => []
  | g :: rest => if s.fitsWithout r w (taken ++ [g]) then taken ++ [g] else s.enough r w (taken ++ [g]) rest

/-- A list of gangs without those that need not leave for a region to fit (R457). -/
def State.needed (s : State) (r : Region) (w : Work) (gs : List Gang) : List Gang :=
  gs.foldl (fun l g => let rest := l.filter fun h => h.id != g.id; if s.fitsWithout r w rest then rest else l) gs

/-- A waiting region that fits at no k, nor will when those have left that are ordered out, has gangs of higher priority numbers whose
cores it needs switched out at once (R457). -/
def State.claimCores (s : State) (r : Region) (w : Work) : State :=
  let l := s.leavers r fun p => decide (r.eff.prio < p)
  let going := l.filter (·.switch)
  if s.fitsWithout r w going then s
  else (s.needed r w (s.enough r w going (l.filter fun g => !g.switch))).foldl (fun s g =>
    s.mapGang g.id fun x => { x with switch := true }) s

/-! ## Gang start (R447 to R452) -/

/-- Chamber B of a core is for a primary kernel to use: no secondary kernel runs there (R17). -/
def State.ownsB (s : State) (k : CoreId) : Bool :=
  let x := s.ctx (secondaryOf k)
  x.run == .free || x.ctl.kind == .second

/-- Load one member's core and context (R150, R158, R247, R450, R491). -/
def State.loadMember (s : State) (r : Region) (g : Gang) (img : Image) (fill : Fill) (i : Nat) (c : CtxId) : State :=
  let k := coreOf c
  let sec := isSec c
  let s1 := (s.readyCore k r.part r.asid).loadImage k r.part r.asid r.eff.dom.rimg
  let base := 4096 * sec.toNat
  let ch : Chamber := { valid := true, filled := fill.count, entry := img.kernel.entry, ok := false, seg := img.start, table := img.table }
  let s2 := s1.mapCore k fun x =>
    let y := { x.setChamber sec ch with
      code := putBundles (x.code.filter fun e => decide (e.1 < base) || decide (base + 4096 ≤ e.1)) base fill.bundles.reverse }
    if sec then { y with working := y.working.filter fun w => !w.1 }
    else
      { y with
        templates := fill.table, working := []
        chB := if s1.ownsB k then .reset else y.chB
        latch := { y.latch with valid := false } }
  let s3 := img.sections.foldl (fun (s : State) d => s.setMem (writeBytes s.mem (keyScratch k d.1) d.2)) s2
  let n := sliceLo img.kernel g.members.length i
  s3.setCtx c
    { Ctx.reset with
      run := .run, part := r.part, gang := some g.id, present := s.tempo, mark := s.tempo, incarn := (s.ctx c).incarn
      acc := (s.ctx c).acc
      ctl := { Ctl.reset with
        pc := BitVec.ofNat 14 (base + img.kernel.entry), chamberB := sec, homeB := sec, kind := if sec then .secondary else .primary, first := true }
      spr := { Sprs.reset with
        lidx := BitVec.ofNat 16 i, gsize := BitVec.ofNat 16 g.members.length, tile := taskTile img.kernel n,
        taskn := BitVec.ofNat 64 n, asid := r.asid, gen := r.gen, start := s.tempo } }

/-- The gang that a fresh region starts with (R144, R384, R399, R449, R452). -/
def State.newGang (s : State) (r : Region) (img : Image) (x : Placement) : Gang :=
  let n := x.members.length
  let g : Gang :=
    { id := s.fresh, region := r.id, part := r.part, asid := r.asid, kernel := img.kernel, dom := r.eff.dom, members := x.members,
      alive := n, start := s.tempo, k := x.k, held := none, drainHold := false,
      barriers := Vector.replicate 16 { phase := false, count := 0, expected := n, done := 0 },
      slices := (List.range n).map fun i => sliceLo img.kernel n (i + 1), tasksEnded := 0, kill := none, sliceStart := s.tempo,
      taskTempo := 0, waitStart := false, target := none, adjourn := false, switch := false, resign := false, writing := false }
  let live := s.pkg.dead.filter fun d => !d.2.2
  let g1 := live.foldl (fun g d => g.recompute live d.1 d.2.1) g
  if s.draining && g1.onRing then { g1 with drainHold := true, held := some s.tempo } else g1

/-- The check of predecessors at a gang start: the detail of SCHED, if one applies (R448). -/
def State.predFlaw (s : State) (r : Region) : Option Nat :=
  let ps := r.preds.filterMap fun p => s.region? p.1
  if ps.any fun p => p.state.ended && p.state != .done then some 2
  else if ps.any fun p => !p.state.ended then some 1
  else none

/-- Member 0 freezes before its first bundle, and the others wait for it (R448). -/
def State.freezeStart (s : State) (g : Nat) (c : CtxId) (detail : Nat) : State :=
  let s1 := (s.mapGang g fun x => { x with waitStart := true }).setMem (zeroBytes s.mem (s.frameKey c + 128) 64)
  let s2 := s1.freezeCtx c { cause := 0x23, detail := detail } 0 0 [] false false s.tempo
  s2.mapCtx c fun x => { x with ctl := { x.ctl with srv := false } }

/-- Claim the sub-rings of a gang's timetables (R384). -/
def State.claimRings (s : State) (g : Nat) (subs : List (Fin 4)) : State :=
  { s with pkg := { s.pkg with claims := s.pkg.claims ++ subs.map fun r => (g, r) } }

/-- A fresh gang starts (R448, R450, R452); where member 0 has no task, the first member that has one takes its part in R448 (log
entry 26). -/
def State.startGang (s : State) (r : Region) (x : Placement) (img : Image) : State :=
  let g := s.newGang r img x
  let fill := (s.dirFill r.part r.asid img.start.toNat img.table).1
  let s1 := ((s.dirSaw r.part r.asid img.reads).bump.drawn.setGang g.id g).claimRings g.id img.kernel.subs
  let s2 := (x.members.zipIdx).foldl (fun s m => s.loadMember r g img fill m.2 m.1) s1
  let s3 := s2.setRegion r.id
    { r with state := .running, gang := some g.id, tasksAll := nestSize img.kernel.extents, startT := some s.tempo }
  let s4 := ((s3.noteStart r).writeRegion r.id).after r.eff.budt (.sliceEnd g.id)
  let bad := s4.predFlaw r
  let s5 := (x.members.zipIdx).foldl (fun s m =>
    if sliceLo img.kernel g.members.length m.2 < g.slices.getD m.2 0 then s else s.endMember m.1) s4
  match bad, x.members.find? fun c => (s5.ctx c).gang == some g.id with
  | some d, some c => s5.freezeStart g.id c d
  | _, _ => s5.beginTasks g

/-- A group starts at its due tempo: its children may fall due, and where it is a first child its start is that of the group above
(R445, R447). -/
def State.startGroup (s : State) (r : Region) : State := ((s.setRegState r.id .running).noteChildren r.id).noteStart r

/-- GANG_START of a leaf that is due and can be placed; of a group, its start; a region that cannot be placed waits, and one that
fails a check is FAILED (R445 to R452, R455, R460). -/
def execGangStart (id : Nat) (s : State) : Host.Outcome State Fault Refusal :=
  .next (
    match s.region? id with
    | none => s
    | some r =>
      let due := match r.due with | some t => decide (t ≤ s.tempo) | none => false
      if !due || !(r.state == .queued || r.state == .waiting || r.state == .held) then s
      else if s.replHeld r then (if r.state = .held then s else s.setRegState id .held)
      else if !r.leaf then s.startGroup r
      else if r.state ≠ .waiting then (s.setRegState id .waiting).after 0 (.gangStart id)
      else if !s.waits r then s.after 1 (.gangStart id)
      else
        match s.workOf r with
        | .error d => (s.dirSaw r.part r.asid [(r.kernel.toNat, 128)]).endRegion id .failed 0x23 d 0
        | .ok w =>
          match s.placeAt r w (s.reserved r) with
          | none => (s.claimCores r w).after 1 (.gangStart id)
          | some x =>
            match x.image with
            | some img => s.startGang r x img
            | none => s)

/-! ## Admission (R440 to R446, R459) -/

/-- Read an RCB, or the detail of R446; and whether its page permits writes. -/
def State.readRcb (s : State) (p : PartId) (asid : BitVec 14) (a : Word) : Except Nat (Nat × Bool) :=
  if a.toNat % 256 ≠ 0 then .error 3
  else
    match s.dirNum p asid a.toNat 256 with
    | some n => .ok (n, (s.translate (s.dirCore p) p asid a .write).isOk)
    | none => .error 7

/-- A field of an RCB. -/
def rcbF (n off len : Nat) : Nat := fld n (8 * off) (8 * len)

/-- An OVR group whose bit is clear holds zeros. -/
def ovrOk (n bit : Nat) (fields : List (Nat × Nat)) : Bool :=
  fld (rcbF n 42 1) bit 1 == 1 || fields.all fun f => rcbF n f.1 f.2 == 0

/-- An entry index of the resident area. -/
def residentIdx (e : Nat) : Bool := decide (8192 ≤ e) && decide (e ≤ 8319)

/-- An RCB is malformed (R446 detail 0x03), its predecessors apart. -/
def rcbFlaw (n : Nat) (root : Bool) : Bool :=
  let ovr := rcbF n 42 1
  let on (b : Nat) : Bool := fld ovr b 1 == 1
  !(decide (ovr < 32) && (!root || ovr == 31)
    && ovrOk n 0 [(32, 4), (36, 2), (38, 2)] && ovrOk n 1 [(40, 1)] && ovrOk n 2 [(44, 1), (46, 2), (48, 2), (56, 8)]
    && ovrOk n 3 [(41, 1)] && ovrOk n 4 [(176, 8), (184, 8)]
    && decide (rcbF n 40 1 < 8) && decide (rcbF n 41 1 < 16) && decide (rcbF n 45 1 ≤ 8)
    && (!on 0 || (rcbF n 32 4 != 0 && rcbF n 36 2 != 0 && decide (rcbF n 36 2 ≤ 256)))
    && (!on 2 || (rcbF n 44 1 != 0 && decide (rcbF n 44 1 ≤ 64) && residentIdx (rcbF n 46 2) && residentIdx (rcbF n 48 2)))
    && rcbF n 50 6 == 0 && rcbF n 160 16 == 0 && rcbF n 224 32 == 0
    && ((rcbF n 8 8 == 0) != (rcbF n 24 8 == 0)))

/-- The effective fields of a region (R444). -/
def rcbEff (n : Nat) (asid : BitVec 14) (rcb : Word) (up : Eff) : Eff :=
  let on (b : Nat) : Bool := fld (rcbF n 42 1) b 1 == 1
  let e1 := if on 0 then { up with budt := rcbF n 32 4, budc := rcbF n 36 2, budm := rcbF n 38 2 } else up
  let e2 := if on 1 then { e1 with prio := rcbF n 40 1 } else e1
  let e3 := if on 2 then
      { e2 with dom := { hent := BitVec.ofNat 16 (rcbF n 46 2), sent := BitVec.ofNat 16 (rcbF n 48 2), bench := rcbF n 44 1,
                         rimg := BitVec.ofNat 64 (rcbF n 56 8), owner := rcb, asid := asid } }
    else e2
  let f := rcbF n 41 1
  let e4 := if on 3 then
      { e3 with fixed := fld f 0 1 == 1, pinv := fld f 1 1 == 1, adjn := fld f 2 1 == 1, rsgn := fld f 3 1 == 1 }
    else e3
  if on 4 then { e4 with adja := BitVec.ofNat 64 (rcbF n 176 8), sava := BitVec.ofNat 64 (rcbF n 184 8) } else e4

def Eff.none : Eff :=
  { budt := 0, budc := 0, budm := 0, prio := 0, fixed := false, pinv := false, adjn := false, rsgn := false,
    dom := { hent := 0, sent := 0, bench := 0, rimg := 0, owner := 0, asid := 0 }, adja := 0, sava := 0 }

/-- A region as admission makes it. -/
def Region.new (id : Nat) (rcb : Word) (q : QueueId) (p : PartId) (asid : BitVec 14) (gen : BitVec 32) (order : Nat) : Region :=
  { id := id, rcb := rcb, parent := none, root := id, queue := q, part := p, asid := asid, gen := gen, order := order, leaf := true,
    kernel := 0, layer := 0xFF, eff := .none, preds := [], due := none, children := [], state := .queued, cause := 0, detail := 0,
    kill := 0, startT := none, endT := none, tasksEnded := 0, tasksAll := 0, tasksBegun := 0, gang := none, update := false,
    saved := none, mute := false }

/-- Predecessors as earlier siblings with their offsets, none where one is not (R443, R446). -/
def State.predsOf (s : State) (n : Nat) (siblings : List Nat) : Option (List (Nat × BitVec 32)) :=
  allOf ((List.range (rcbF n 45 1)).map fun i =>
    (siblings.find? fun k => (s.region? k).map (·.rcb) == some (BitVec.ofNat 64 (rcbF n (64 + 8 * i) 8))).map fun k =>
      (k, BitVec.ofNat 32 (rcbF n (128 + 4 * i) 4)))

/-- Read the tree below a worklist of (RCB, parent, effective fields of the parent), in preorder: the regions that fail, with
their details. -/
def State.buildTree (proto : Region) : Nat → State → List (Word × Option Nat × Eff) → State × List (Nat × Nat)
  | 0, s, _ => (s, [])
  | _, s, [] => (s, [])
  | fuel + 1, s, (a, parent, up) :: work =>
    if a = 0 then State.buildTree proto fuel s work
    else
      let id := s.fresh
      let base : Region := { proto with id := id, rcb := a, parent := parent, root := match parent with | none => id | some _ => proto.root }
      let siblings := match parent with
        | some p => (match s.region? p with | some g => g.children | none => [])
        | none => []
      let add (r : Region) : State :=
        let s1 := s.bump.setRegion id r
        match parent with
        | some p => s1.mapRegion p fun g => { g with children := g.children ++ [id] }
        | none => s1
      match s.readRcb proto.part proto.asid a with
      | .error d =>
        let t := State.buildTree { proto with root := base.root } fuel (add base) work
        (t.1, (id, d) :: t.2)
      | .ok (n, writable) =>
        let next := (BitVec.ofNat 64 (rcbF n 16 8), parent, up)
        let work1 := if parent.isSome then next :: work else work
        let fail (d : Nat) : State × List (Nat × Nat) :=
          let t := State.buildTree { proto with root := base.root } fuel ((add base).dirSaw proto.part proto.asid [(a.toNat, 256)]) work1
          (t.1, (id, d) :: t.2)
        if writable = false then fail 7
        else match s.predsOf n siblings with
        | none => fail 3
        | some preds =>
          if rcbFlaw n parent.isNone then fail 3
          else
            let eff := rcbEff n proto.asid a up
            let kernel := BitVec.ofNat 64 (rcbF n 24 8)
            let r : Region :=
              { base with
                leaf := kernel != 0, kernel := kernel, layer := rcbF n 43 1, eff := eff, preds := preds
                tasksAll := if kernel = 0 then 0 else s.nestOf proto.part proto.asid kernel }
            let seen := (a.toNat, 256) :: if kernel = 0 then [] else [(kernel.toNat + 16, 16)]
            State.buildTree { proto with root := base.root } fuel ((add r).dirSaw proto.part proto.asid seen)
              (if kernel = 0 then (BitVec.ofNat 64 (rcbF n 8 8), some id, eff) :: work1 else work1)

/-- Regions of a tree that admission reads before the model stops reading (log entry 25). -/
def treeFuel : Nat := 65536

/-- Admit the tree of a root: its regions are queued, those that fail end, and the root starts (R446, R447). -/
def State.admitTree (s : State) (proto : Region) (rcb : Word) : State :=
  let id := s.fresh
  let t := State.buildTree proto treeFuel s [(rcb, none, .none)]
  let ids := (t.1.treeOf id).map (·.id)
  let s1 := ids.foldl (fun s k => s.writeRegion k) t.1
  let s2 := t.2.foldl (fun s f => s.endRegion f.1 .failed 0x23 f.2 0) s1
  match s2.region? id with
  | some r => if r.state.ended then s2 else s2.noteDue s2.tempo r
  | none => s2

/-- The generation that a record takes at admission, none while it cannot be admitted (R441, R459, R461). -/
def Queue.genOf (q : Queue) (r : Record) : Option (BitVec 32) :=
  let g := match q.repl with | some x => x.gen | none => q.qgen
  if r.gen = 0 ∨ r.gen = g then some (if q.serv then g else 0) else none

/-- RECORD_ADMIT: the director takes the oldest record of a queue, unless a post, a scrub or the halt of its domain holds it
back (R423, R455, R478, R503). -/
def execRecordAdmit (q : QueueId) (s : State) : Host.Outcome State Fault Refusal :=
  .next (
    let x := s.queue q
    match x.fifo with
    | [] => s
    | r :: rest =>
      match x.genOf r with
      | none => s.later 1 (.recordAdmit q)
      | some gen =>
        if s.queuePosted q || s.scrubScope x.part r.asid || (s.part x.part).halted.contains (r.asid, r.rcb) then s.later 1 (.recordAdmit q)
        else
          let s1 := s.setQueue q { x with fifo := rest }
          let id := s1.fresh
          let root : Root := { region := id, record := r, queue := q, written := false, drained := 0 }
          let s2 : State := { s1 with roots := s1.roots ++ [root] }
          s2.admitTree (.new id r.rcb q x.part r.asid gen id) r.rcb)

/-! ## Enqueue (R439 to R441) -/

/-- The part is in service: in reset and after a failed bring-up only the package controller and management answer (R521). -/
def State.serving? (s : State) : Bool := s.pkg.bstate == 1 || s.pkg.bstate == 2

/-- The queue whose port page a function reaches: the physical function has the page of each queue, a virtual function's page n is slot n of
its window, which shows the queue that VFQMAPn names while its V is set (R512, R513). -/
def State.pageQueue (s : State) (f : FuncId) (page : QueueId) : Option QueueId :=
  if f = 0 then some page
  else
    match (s.func f).vfqmap.toList[page.val]? with
    | some w => if w.getLsbD 15 ∧ fld w.toNat 0 12 < 2048 then some (Fin.ofNat 2048 (fld w.toNat 0 12)) else none
    | none => none

/-- Answer a DMWr: 0 with nothing, 1 SC, 2 UR, 3 DRS. -/
def State.dmwr (s : State) (st : Nat) : State := { s with pkg := { s.pkg with dmwr := st } }

/-- A refusal enters the queue's error log: test number, function and a saturating count (R441, R513). -/
def State.queueRefuse (s : State) (q : QueueId) (f : FuncId) (test : Nat) : State :=
  (s.mapQueue q fun x =>
    { x with qerr := BitVec.ofNat 64 (test + 2 ^ 4 * f.val + 2 ^ 16 * min (2 ^ 32 - 1) (fld x.qerr.toNat 16 32 + 1)) }).dmwr 2

/-- The fields of a record that the first test looks at (R440, R441). -/
def recordShape (q : QueueId) (f : FuncId) (n : Nat) : Bool :=
  let flags := fld n 160 16
  fld n 64 16 == q.val && fld n 80 16 == 0 && fld flags 11 5 == 0 && fld n 176 16 == 0 && fld n 512 512 == 0
    && fld n 0 64 % 256 == 0 && fld n 192 64 % 64 == 0
    && !(fld flags 0 1 == 1 && f != 0 && decide (64 ≤ fld flags 1 10))

/-- ENQUEUE of a record of 128 bytes by a ready function to the page of a queue (R440, R441). -/
def State.enqueueAt (s : State) (f : FuncId) (page : QueueId) (pasid : Option (BitVec 20)) (n : Nat) : State :=
  let q := s.queue page
  let entry : Option AsidEntry := match pasid with
    | some x => (s.part q.part).asids.find? fun e => e.func == f.val && e.pasid == x
    | none => none
  match entry with
  | none => s.queueRefuse page f 1
  | some e =>
    if !q.en || !recordShape page f n then s.queueRefuse page f 1
    else
      let seq := BitVec.ofNat 32 (fld n 96 32)
      let last := lookup? q.lastSeq e.asid.toNat
      let want := match last with | some l => l + 1 | none => 0
      let gen := BitVec.ofNat 32 (fld n 128 32)
      let known := gen == 0 || gen == q.qgen || (match q.repl with | some x => gen == x.gen | none => false)
      if last = some seq then s.dmwr 1
      else if seq ≠ want then s.queueRefuse page f 3
      else if !known then s.queueRefuse page f 4
      else if q.stop || decide (256 ≤ q.fifo.length) then s.dmwr 3
      else
        let r : Record :=
          { rcb := BitVec.ofNat 64 (fld n 0 64), seq := seq, gen := gen, irq := fld n 160 1 == 1, vector := fld n 161 10,
            cadr := BitVec.ofNat 64 (fld n 192 64), user := bytesOf (fld n 256 256) 32, asid := e.asid, func := f }
        ((s.setQueue page { q with fifo := q.fifo ++ [r], lastSeq := insertAt q.lastSeq e.asid.toNat seq }).dmwr 1).later 1
          (.recordAdmit page)

/-- ENQUEUE: a DMWr to a queue port page (R439 to R441). A slot that shows no queue behaves as the page of a disabled one; the refusal then
enters no queue's error log (R512; log entry 130). -/
def execEnqueue (f : FuncId) (page : QueueId) (off : BitVec 12) (posted : Bool) (pasid : Option (BitVec 20)) (len : Nat)
    (data : BitVec 1024) (s : State) : Host.Outcome State Fault Refusal :=
  .next (
    if !s.serving? then s.dmwr 0
    else if posted || len != 128 || off.toNat % 128 != 0 || !(s.func f).ready then s.dmwr 2
    else
      match s.pageQueue f page with
      | none => s.dmwr 2
      | some q => s.enqueueAt f q pasid data.toNat)

/-- COMPLETION_MSIX: the completion record has drained, and the interrupt goes out (R442). -/
def execCompletionMsix (r : Nat) (s : State) : Host.Outcome State Fault Refusal :=
  .next (
    match s.roots.find? fun x => x.region == r && x.written with
    | none => s
    | some x =>
      if s.tempo < x.drained then s.after (x.drained - s.tempo) (.completionMsix r)
      else
        { s with
          roots := s.roots.filter fun y => y.region != r
          pkg := { s.pkg with msix := s.pkg.msix ++ [(x.record.func.val, x.record.vector)] } })

/-! ## Ends of tasks (R149 to R152, R451, R452) -/

/-- A handler form of the context has its effect still to come (R428). -/
def State.handling (s : State) (c : CtxId) : Bool :=
  (s.ctx c).pend.any fun l =>
    match l.what with
    | .fwr .. | .fres .. | .fkill .. | .fpass .. | .hmov .. => true
    | _ => false

/-- The drain of a TEND has ended, and the next task's tempo has come (R149, R151, R152). A second ends once the handler forms that
it has issued have taken effect (log entry 90). -/
def State.drainDue (s : State) (c : CtxId) : Bool :=
  let x := s.ctx c
  x.run == .drain && x.defer.isEmpty && !s.heldCtx c && !s.domainHalted c && s.quiet c &&
    match s.fixedOf c with
    | some l => decide (l ≤ s.ttempo c)
    | none => decide (x.present ≤ s.tempo) && !s.handling c

/-- Every member of a gang stands at a task boundary. -/
def State.boundaryReady (s : State) (g : Gang) : Bool :=
  (s.liveMembers g).all fun c => s.drainDue c || (s.ctx c).run == .parked

/-- TASK_DRAIN_END: the next task starts, or the member ends (R149 to R152, R311, R451, R452). -/
def execTaskDrainEnd (c : CtxId) (s : State) : Host.Outcome State Fault Refusal :=
  .next (
    if !s.drainDue c then s
    else
      let x := s.ctx c
      if x.ctl.kind = .second then s.endSecond c
      else
        match s.gangOf c with
        | none => s.vacate c
        | some g =>
          let ready := s.boundaryReady g
          let s1 := s.mapGang g.id fun y => { y with tasksEnded := y.tasksEnded + 1, taskTempo := y.taskTempo + s.ttempo c }
          let s2 := (s1.mapRegion g.region fun r => { r with tasksEnded := r.tasksEnded + 1 }).writeRegion g.region
          let n := x.spr.taskn.toNat + 1
          if n < g.slices.getD x.spr.lidx.toNat 0 then
            let s2 := s2.mapRegion g.region fun r => { r with tasksBegun := r.tasksBegun + 1 }
            let park := g.switch && g.kernel.tlen.isSome && ready && s.switchable g
            let sec := x.ctl.kind == .secondary
            let s3 := s2.mapCtx c fun y =>
              { y with
                run := if park then .parked else .run, present := s.tempo, mark := s.tempo, hold := none, record := .none
                ctl := { y.ctl with
                  pc := BitVec.ofNat 14 (4096 * sec.toNat + g.kernel.entry), chamberB := sec, first := true, past := false, depth := 0,
                  srv := false, sres := 0,
                  loops := y.ctl.loops.map fun l => { l with st := .idle }, nest := [] }
                spr := { y.spr with tile := taskTile g.kernel n, taskn := BitVec.ofNat 64 n, start := s.tempo } }
            if sec then s3 else s3.mapCore (coreOf c) fun k => { k with latch := { k.latch with valid := false } }
          else s2.endMember c)

/-! ## Slices and switching (R455 to R458) -/

/-- A waiting leaf waits for the cores of a gang: it fits nowhere now, and does once the gang has left beside as many others that may leave
for it as do not make room by themselves (R456, R457). -/
def State.needs (s : State) (r : Region) (w : Work) (g : Gang) : Bool :=
  let others := (s.leavers r fun p => decide (r.eff.prio ≤ p)).filter fun h => h.id != g.id
  let gone := others.foldl (fun l h => if s.fitsWithout r w (l ++ [h]) then l else l ++ [h]) []
  !s.fitsWithout r w [] && s.fitsWithout r w (gone ++ [g])

/-- A due region of a gang's priority waits for cores that the gang holds (R456, R457). -/
def State.peerWaits (s : State) (g : Gang) : Bool :=
  match s.region? g.region with
  | none => false
  | some r => s.regions.any fun x =>
      x.2.part == r.part && x.2.id != r.id && s.waits x.2 && x.2.eff.prio == r.eff.prio
        && (match s.workOf x.2 with | .ok w => s.needs x.2 w g | .error _ => false)

/-- SLICE_END: the gang is switched out for a region of its priority, or its slice is renewed (R456, R457). -/
def execSliceEnd (g : Nat) (s : State) : Host.Outcome State Fault Refusal :=
  .next (
    match s.gang? g with
    | none => s
    | some x =>
      match s.region? x.region with
      | none => s
      | some r =>
        if s.tempo ≠ x.sliceStart + r.eff.budt then s
        else if s.peerWaits x && r.eff.sava != 0 then s.mapGang g fun y => { y with switch := true }
        else (s.mapGang g fun y => { y with sliceStart := s.tempo }).after r.eff.budt (.sliceEnd g))

/-- What a member still has open has ended or landed, an MLAT too, contributions held in home banks apart: those are saved (R457,
R458). -/
def State.switchQuiet (s : State) (c : CtxId) : Bool :=
  let x := s.ctx c
  s.resultsLanded c && x.pend.isEmpty && x.acc.isEmpty && x.done.isEmpty && x.defer.isEmpty && (s.cmdsOf c).isEmpty
    && !((s.core (coreOf c)).array.any fun a => a.ctx == c) && x.elas.all fun e => e.banked

/-- A hop of one of a gang's chains is on its way. -/
def State.hopsOut (s : State) (g : Nat) : Bool :=
  s.packets.any fun p =>
    match p.kind with
    | .hop u _ => (match s.chain? u with | some ch => ch.gang == g | none => false)
    | _ => false

/-- A gang that has been ordered out has stopped where it may leave (R457). -/
def State.switchDue (s : State) (g : Gang) : Bool :=
  let ms := s.liveMembers g
  g.switch && s.switchable g && g.held.isNone && !s.hopsOut g.id && !s.timed.any (fun y => y.gang == g.id && y.data.isSome)
    && ms.all fun c =>
      if g.kernel.tlen.isSome then (s.ctx c).run == .parked
      else ((s.ctx c).run == .run || (s.ctx c).run == .parked) && s.switchQuiet c

/-- What a core holds for a member, with the bytes and tags of its scratchpad as offsets (R458, R464). -/
def State.saveMember (s : State) (g : Gang) (i : Nat) (c : CtxId) : SavedMember :=
  let k := coreOf c
  let lo := keyScratch k 0
  let mine (a : Nat) : Bool := decide (lo ≤ a) && decide (a < lo + 0x400000)
  { lidx := i
    ended := !((s.ctx c).gang == some g.id && (s.ctx c).run != .free)
    ctx := s.ctx c
    scratch := (s.mem.filter fun x => mine x.1).map fun x => (x.1 - lo, x.2)
    tags := (s.tags.filter fun x => mine x.1).map fun x => (x.1 - lo, x.2)
    core := s.core k
    ownsB := s.ownsB k }

/-- A stream belongs to a gang: no gang but it and gangs that have ended have contributed, or it holds a contribution of a member. -/
def State.ownsStream (s : State) (g : Gang) (y : Stream) : Bool :=
  (y.gangs.contains g.id && y.gangs.all fun k => k == g.id || (s.gang? k).isNone)
    || y.held.any fun h => g.members.contains h.2.2.1

/-- Open streams of a gang, by die (R458, R464). -/
def State.gangStreams (s : State) (g : Gang) : List (Nat × Stream) :=
  s.dies.flatMap fun d => (d.2.streams.filter (s.ownsStream g)).map fun y => (d.1, y)

/-- Save a gang as it stands. -/
def State.saveGang (s : State) (g : Gang) (id : BitVec 16) : Saved :=
  { gang := g
    stop := s.tempo
    id := id
    members := (g.members.zipIdx).map fun m => s.saveMember g m.2 m.1
    chains := (s.chains.filter fun k => k.2.gang == g.id && k.2.freed.isNone).map (·.2)
    streams := s.gangStreams g }

/-- A gang leaves its cores without ending: its chains leave their slots unclosed, and its claims are released (R458, R470). -/
def State.leaveCores (s : State) (g : Gang) : State :=
  let mine := s.chains.filter fun k => k.2.gang == g.id
  let s1 := mine.foldl (fun s k => k.2.links.foldl (fun s l => s.freeSlot k.2 l) s) s
  let s2 : State := { s1 with
    chains := s1.chains.filter fun k => k.2.gang != g.id
    timed := s1.timed.filter fun y => y.gang != g.id
    dies := s1.dies.map fun d => (d.1, { d.2 with streams := d.2.streams.filter fun y => !s.ownsStream g y })
    pkg := { s1.pkg with claims := s1.pkg.claims.filter fun x => x.1 != g.id } }
  let s3 := (s2.liveMembers g).foldl (fun s c => s.vacate c) s2
  { s3 with gangs := s3.gangs.filter fun x => x.1 != g.id }

/-- Write the switch area: 4.5 MiB a member, in a layout that the manual does not give (R458; log entry 66). -/
def State.writeSwitchArea (s : State) (r : Region) (g : Gang) : State :=
  (List.range (72 * g.members.length)).foldl (fun (s1 : State) j =>
    let u := s1.dirTouch r.part r.asid .write (r.eff.sava.toNat + 65536 * j) 65536
    match u.translate (u.dirCore r.part) r.part r.asid (r.eff.sava + BitVec.ofNat 64 (65536 * j)) .write with
    | .ok t => u.fillTgt t 65536 fun i => BitVec.ofNat 8 (Config.freeBits s.draws (2 ^ 64 + 65536 * j + i))
    | .error _ => u) s

/-- SWITCH_OUT: the state of every member is saved and the cores are freed (R458). -/
def execSwitchOut (g : Nat) (s : State) : Host.Outcome State Fault Refusal :=
  .next (
    match s.gang? g with
    | none => s
    | some x =>
      if !s.switchDue x then s
      else
        let saved := s.saveGang x 0
        match s.region? x.region with
        | none => s
        | some r =>
          let s1 := (((s.writeSwitchArea r x).drawn.leaveCores x).endTurn r).mapRegion x.region fun r =>
            { r with saved := some saved, state := .switched, gang := none }
          (s1.writeRegion x.region).later 1 (.switchIn x.region))

/-- The context that takes the place of one of the saved gang. -/
def Saved.moved (x : Saved) (ms : List CtxId) (c : CtxId) : CtxId := ms.getD (x.gang.members.idxOf c) c

/-- Put a saved gang back on its cores: the gang, its chains with their link storage, its streams and its claims. -/
def State.restoreGang (s : State) (r : Region) (x : Saved) (ms : List CtxId) (k : Nat) : State :=
  let g : Gang :=
    { x.gang with
      members := ms, k := k, held := none, sliceStart := s.tempo, switch := false, adjourn := false, writing := false, area := none,
      target := none, drainHold := false }
  let live := s.pkg.dead.filter fun d => !d.2.2
  let g1 := live.foldl (fun g d => g.recompute live d.1 d.2.1) g
  let s1 := (s.setGang g.id g1).claimRings g.id g.kernel.subs
  let s2 := x.chains.foldl (fun s ch =>
    s.setChain ch.uid { ch with close := ch.close.map fun k => { k with ctx := x.moved ms k.ctx } }) s1
  let s3 := x.streams.foldl (fun s y =>
    let z : Stream := { y.2 with held := y.2.held.map fun h => (h.1, h.2.1, x.moved ms h.2.2.1, h.2.2.2) }
    s.mapDie (Fin.ofNat 8 y.1) fun d => { d with streams := d.streams ++ [z] }) s2
  s3.mapRegion r.id fun y => { y with state := .running, gang := some g.id, saved := none }

/-- Put the link storage of a saved member's core back (R458, R471 step 5). -/
def restoreLinks (x : Saved) (old : Core) (k : Core) : Core :=
  let mine (l : LinkSlot) : Bool := match l.owner with | some u => x.chains.any fun ch => ch.uid == u | none => false
  { k with links := Vector.ofFn fun i : Fin 8 => if mine old.links[i] then old.links[i] else k.links[i] }

/-- A member that had ended still hosts its links (R345, R458). -/
def State.restoreEnded (s : State) (x : Saved) (m : SavedMember) (c : CtxId) : State :=
  s.mapCore (coreOf c) (restoreLinks x m.core)

/-- Put one member of a switched gang back, everything of it moved on by the tempo it was out; one that waits at a task boundary starts its
task now (R458). -/
def State.restoreMember (s : State) (r : Region) (x : Saved) (m : SavedMember) (c : CtxId) : State :=
  let k := coreOf c
  let d := s.tempo - x.stop
  let parked := m.ctx.run == .parked
  let lo := keyScratch k 0
  let s1 := (s.readyCore k r.part r.asid).loadImage k r.part r.asid r.eff.dom.rimg
  let mem0 := zeroBytes s1.mem lo 0x400000
  let s2 := s1.setMem (m.scratch.foldl (fun mem b => writeByte mem (lo + b.1) b.2) mem0)
  let tags0 := s2.tags.filter fun t => decide (t.1 < lo) || decide (lo + 0x400000 ≤ t.1)
  let s3 : State := { s2 with tags := m.tags.foldl (fun t b => setTagIn t (lo + b.1) b.2) tags0 }
  let base := 4096 * (isSec c).toNat
  let both := isSec c || s.ownsB k
  let top := if both then 8192 else 4096
  let s4 := s3.mapCore k fun y =>
    let own (e : Nat × Bundle) : Bool := decide (base ≤ e.1) && decide (e.1 < top)
    let saved := m.core.code.filter fun e => own e && (isSec c || m.ownsB || decide (e.1 < 4096))
    let z := { restoreLinks x m.core y with
      code := saved.foldl (fun t e => insertAt t e.1 e.2) (y.code.filter fun e => !own e)
      chB := if isSec c || (both && m.ownsB) then m.core.chB else if both then .reset else y.chB }
    if isSec c then z else { z with chA := m.core.chA, templates := m.core.templates, working := m.core.working, latch := m.core.latch }
  s4.setCtx c
    { m.ctx with
      run := .run, present := s.tempo + (m.ctx.present - x.stop), mark := if parked then s.tempo else m.ctx.mark + d, incarn := (s.ctx c).incarn
      acc := (s.ctx c).acc
      hold := m.ctx.hold.map fun h => { h with since := h.since + d, met := true }
      spr := { m.ctx.spr with start := if parked then s.tempo else m.ctx.spr.start + d } }

/-- SWITCH_IN: a switched region is placed afresh and runs on from where it stopped (R449, R457, R458, R465). -/
def execSwitchIn (id : Nat) (s : State) : Host.Outcome State Fault Refusal :=
  .next (
    match s.region? id with
    | none => s
    | some r =>
      match r.saved with
      | none => s
      | some x =>
        if r.state ≠ .switched then s
        else if !s.waits r then s.after 1 (.switchIn id)
        else
          match s.workOf r with
          | .error d => s.endRegion id .failed 0x23 d 0
          | .ok w =>
            match s.placeAt r w (s.reserved r) with
            | none => (s.claimCores r w).after 1 (.switchIn id)
            | some y =>
              let s0 := s.dirSaw r.part r.asid [(r.eff.sava.toNat, 0x480000 * x.members.length)]
              let s1 := s0.drawn.restoreGang r x y.members y.k
              let s2 := x.members.foldl (fun s m =>
                match m.ended, y.members[m.lidx]? with
                | false, some c => s.restoreMember r x m c
                | true, some c => s.restoreEnded x m c
                | _, none => s) s1
              (s2.writeRegion id).after r.eff.budt (.sliceEnd x.gang.id))

/-! ## Weight replacement (R459 to R461) -/

/-- REPLACEMENT_POST: a write of QREPA posts the replacement that QREPG describes (R459, R513). -/
def execReplacementPost (q : QueueId) (addr : Word) (s : State) : Host.Outcome State Fault Refusal :=
  .next (
    let x := s.queue q
    let w := x.qrepg.toNat
    let nl := fld w 32 8
    let asid := BitVec.ofNat 14 (fld w 40 14)
    if !x.serv || x.repl.isSome || nl == 0 || decide (254 < nl) then s
    else
      match s.dirRead x.part asid (8 * nl + 1) addr.toNat (8 * nl) with
      | none => s
      | some l =>
        (s.dirSaw x.part asid [(addr.toNat, 8 * nl)]).setQueue q
          { x with
            qrepa := addr
            repl := some { gen := BitVec.ofNat 32 (fld w 0 32), nl := nl, rcbs := (chunks 8 nl l).map (BitVec.ofNat 64), asid := asid,
                           layer := 0, region := none, stopped := false } })

/-- No admitted request of an older generation has a child of the layer or a lower one that has not ended (R460). -/
def State.layerClear (s : State) (q : QueueId) (x : Replace) : Bool :=
  s.roots.all fun t =>
    t.queue != q ||
      match s.region? t.region with
      | none => true
      | some r => r.gen == x.gen || r.children.all fun k =>
          match s.region? k with
          | some c => decide (x.layer < c.layer) || c.state.ended
          | none => true

/-- The replacement of a queue can go on: its layer is clear of old requests, or its update region has ended (R460). -/
def State.replDue (s : State) (q : QueueId) : Bool :=
  match (s.queue q).repl with
  | none => false
  | some x => !x.stopped &&
    match x.region with
    | none => s.layerClear q x
    | some u => (match s.region? u with | some r => r.state.ended | none => true)

/-- Release the held requests that the barrier no longer holds (R460). -/
def State.releaseHeld (s : State) (q : QueueId) : State :=
  (s.regions.filter fun r => r.2.queue == q && r.2.state == .held).foldl (fun s r =>
    if s.replHeld r.2 then s else (s.setRegState r.1 .queued).after 0 (.gangStart r.1)) s

/-- REPLACEMENT_LAYER_STEP: the update region of a layer is started, or its end moves the barrier on or stops the replacement
(R460). -/
def execReplacementLayerStep (q : QueueId) (s : State) : Host.Outcome State Fault Refusal :=
  .next (
    if !s.replDue q then s
    else
      let qu := s.queue q
      match qu.repl with
      | none => s
      | some x =>
        match x.region with
        | none =>
          let id := s.fresh
          let s1 := s.setQueue q { qu with repl := some { x with region := some id } }
          let proto : Region := { Region.new id 0 q qu.part x.asid x.gen id with update := true }
          s1.admitTree proto (x.rcbs.getD x.layer 0)
        | some u =>
          let ok := match s.region? u with | some r => r.state == .done | none => false
          if !ok then (s.setQueue q { qu with repl := some { x with stopped := true } }).raise 5
          else
            let s1 : State := { s with regions := s.regions.filter fun r => r.2.root != u }
            let next := if x.layer + 1 = x.nl then { qu with qgen := x.gen, repl := none }
              else { qu with repl := some { x with layer := x.layer + 1, region := none } }
            (s1.setQueue q next).releaseHeld q)

end Sys2Proof.Machine
end

