-- ==== Sys2Proof/Machine/Scrubs.lean ====
section
/-! DEFINITION. SCRUB and its receipt (18 R502 to R504), shared by the host's requests, resets and the vacancy of a post. -/

namespace Sys2Proof.Machine

/-- A range of a scrub: first byte, bytes, and key id, none for raw zeros (R502). -/
structure ScrubRange where
  pa : Nat
  len : Nat
  key : Option Nat
  deriving DecidableEq, Repr

/-- What a scrub covers (R503). -/
structure ScrubScope where
  ctxs : List CtxId
  /-- shared-scratch rows on each die: first and count -/
  rows : List (Nat × Nat)
  asids : List (BitVec 14)
  whole : Bool
  deriving DecidableEq, Repr

/-- A range-list entry (R502). -/
def rangeOf (w : Nat) : ScrubRange :=
  { pa := fld w 0 64, len := 65536 * fld w 64 32, key := if fld w 96 16 = 0xFFFF then none else some (fld w 96 16) }

/-- Read n range-list entries of the assurance area. -/
def State.readRanges (s : State) (a n : Nat) : List Nat := (List.range n).map fun j => readN s.mem (keyPA (a + 16 * j)) 16

/-- Shared-scratch slices of ASIDs, or all rows of the partition. -/
def Part.rowsOfAsids (x : Part) (whole : Bool) (asids : List (BitVec 14)) : List (Nat × Nat) :=
  let base := fld x.psrow.toNat 0 14
  if whole then [(base, fld x.psrow.toNat 16 14)]
  else (x.asids.filter fun e => asids.contains e.asid).map fun e => (base + e.sroff, e.srcnt)

/-- The scope of a scrub request: a function's ASIDs, or the whole partition (R502, R503). -/
def State.scopeOf (s : State) (p : PartId) (func : Nat) : ScrubScope :=
  let x := s.part p
  if func = 0xFFFF then
    { ctxs := (x.cores.flatMap fun k => [primaryOf k, secondaryOf k]).filter fun c => (s.ctx c).part == p
      rows := x.rowsOfAsids true [], asids := [], whole := true }
  else
    let asids := x.asidsOf func
    { ctxs := s.lastRan p asids, rows := x.rowsOfAsids false asids, asids := asids, whole := false }

/-- A context of the scope is resident (R503). -/
def State.scopeResident (s : State) (z : ScrubScope) : Bool := z.ctxs.any fun c => (s.ctx c).run != .free

/-- Cores where the contexts of a scope last ran. One on which a context of no ASID of the scope is resident has been zeroed for it since
(R491), and holds nothing of the scope (R503, R542; log entry 75). -/
def State.scopeCores (s : State) (z : ScrubScope) : List CoreId :=
  let other (c : CtxId) : Bool := (s.ctx c).run != .free && !z.whole && !z.asids.contains (s.ctx c).spr.asid
  ((z.ctxs.map coreOf).eraseDups).filter fun k => !(other (primaryOf k) || other (secondaryOf k))

/-- A scrub starts: the log entries of its scope are written out (R500, R503 step 1). -/
def State.startScrub (s : State) (p : PartId) (z : ScrubScope) : State :=
  s.logFlush p fun e => z.whole || z.asids.contains e.asid

/-- Tempo until the writes of a partition that stand in its queues have drained, as FENCE.SYS.ST waits for them (R235, R503). -/
def State.drainWait (s : State) (p : PartId) : Nat := (s.part p).wq.foldl (fun n e => max n (e.drain - s.tempo)) 0

/-- Zero bytes and tags from a key on. -/
def State.zeroArea (s : State) (key len : Nat) : State :=
  { s with
    mem := zeroBytes s.mem key len
    tags := s.tags.filter fun t => decide (t.1 < key) || decide (key + len ≤ t.1) }

/-- Zero the registers of a context; what names its last run stays (R503 step 2). -/
def State.zeroCtx (s : State) (c : CtxId) : State :=
  s.mapCtx c fun x =>
    { Ctx.reset with incarn := x.incarn, part := x.part, acc := x.acc, spr := { Sprs.reset with asid := x.spr.asid } }

/-- Zero what UNITS names of a core (R503 step 3). -/
def State.zeroUnits (s : State) (units : Nat) (k : CoreId) : State :=
  let s1 := if fld units 1 1 = 1 then s.zeroArea (keyScratch k 0) 0x400000 else s
  s1.mapCore k fun x =>
    let y := if fld units 2 1 = 1 then
        { x with code := [], chA := .reset, chB := .reset, resCount := 0, resImage := none, templates := [], working := [] }
      else x
    if fld units 3 1 = 1 then
      { y with
        links := y.links.map fun l => { l with tile := [] }
        latch := { valid := false, k := 0, pa := 0, a2 := false, blocks := [] } }
    else y

/-- Write n bytes at a key with zero blocks under key material, 0 for none, with zero tags. -/
def State.zeroRun (s : State) (k n knum : Nat) : State :=
  let s1 := s.zeroArea k n
  let out := s1.pkg.blockKey.filter fun b => decide (b.1 < k) || decide (k + n ≤ b.1)
  let keyed := if knum = 0 then out else (List.range (n / 64)).foldl (fun t j => insertAt t (k + 64 * j) knum) out
  { s1 with pkg := { s1.pkg with blockKey := keyed } }

/-- Write a range with zero blocks under its key, or raw, with zero tags, stack by stack (R503 step 5). -/
def State.zeroRange (s : State) (r : ScrubRange) : State :=
  let knum := match r.key with | some id => lookupD 0 s.pkg.keys id | none => 0
  let a := r.pa % 2 ^ 39
  (List.range 8).foldl (fun s k =>
    let lo := max a (k * 2 ^ 36)
    let hi := min (a + r.len) ((k + 1) * 2 ^ 36)
    if lo < hi then s.zeroRun (keyDev k (lo % 2 ^ 36)) (hi - lo) knum else s) s

/-- A range of a scrub keeps R502 and lies in the share, under an owned and loaded key (R502, R503). -/
def State.rangeOk (s : State) (p : PartId) (w : Nat) : Bool :=
  let r := rangeOf w
  let x := s.part p
  let a := r.pa % 2 ^ 39
  r.pa % 65536 == 0 && fld w 112 16 == 0 && r.pa / 2 ^ 39 == s.pkg.id.toNat && decide (a + r.len ≤ 2 ^ 39)
    && ((List.range ((a % 2 ^ 26 + r.len + 2 ^ 26 - 1) / 2 ^ 26)).all fun j => x.inShare (2 ^ 26 * (a / 2 ^ 26 + j)))
    && (match r.key with | some id => x.ownsKey id && (lookup? s.pkg.keys id).isSome | none => true)

/-- Signature of a receipt or report: RSA of what stands before it, with no rule that gives its value (R504; log entry 3). -/
def signature (l : List Byte) : List Byte := bytesOf (Config.sealValue 1 (numOf l)) 512

/-- The bytes of a receipt, in the order in which R504 lists its contents (log entry 117). -/
def receiptBytes (req : Nat) (counts : List Nat) (t0 t1 w0 w1 serial : Nat) (ranges : List Nat) : List Byte :=
  let body := bytesOf 0x5A475352 4 ++ bytesOf 1 2 ++ bytesOf req 64 ++ counts.flatMap (fun n => bytesOf n 8)
    ++ [t0, t1, w0, w1, serial].flatMap (fun n => bytesOf n 8) ++ ranges.flatMap (fun n => bytesOf n 16)
  body ++ signature body

/-- An address in firmware's part of this package's device memory, which the manual does not give (R504, R510; log entry 117). -/
def State.assureAddr (s : State) : Nat := s.pkg.id.toNat * 2 ^ 39 + 64 * (Config.freeBits s.draws 1005 % 2 ^ 33)

/-- A signed text goes into the assurance area, at an address that the manual does not give (R504, R510; log entry 117). -/
def State.assure (s : State) (l : List Byte) : State :=
  let s1 := s.assureWrite s.assureAddr l
  ({ s1 with pkg := { s1.pkg with receipts := s1.pkg.receipts ++ [l] } } : State).drawn

/-- A receipt is written, and its address posted (R504). -/
def State.postReceipt (s : State) (p : PartId) (l : List Byte) : State :=
  (s.assure l).mapPart p fun x => { x with rcpta := BitVec.ofNat 64 s.assureAddr }

/-- Carry out a scrub whose log entries have been written out, and write its receipt (R503, R504). A range that breaks R503 when it is read,
as one of a function's own list may, is echoed and not written (log entry 75). -/
def State.runScrub (s : State) (p : PartId) (z : ScrubScope) (req units : Nat) (raw : List Nat) (t0 w0 : Nat) : State :=
  let ranges := (raw.filter fun w => s.rangeOk p w).map rangeOf
  let cores := s.scopeCores z
  let s2 := if fld units 0 1 = 1 then z.ctxs.foldl (fun s c => s.zeroCtx c) s else s
  let s3 := cores.foldl (fun s k => s.zeroUnits units k) s2
  let s4 := if fld units 1 1 = 1 then
      (List.finRange 8).foldl (fun (s : State) (d : DieId) =>
        z.rows.foldl (fun s r => s.zeroArea (keyShared d.val (16384 * r.1)) (16384 * r.2)) s) s3
    else s3
  let lines := s4.dies.flatMap fun d => d.2.cache.filter fun l => l.part == p
  let s5 : State := if fld units 4 1 = 1 then
      { s4 with dies := s4.dies.map fun d => (d.1, { d.2 with cache := d.2.cache.filter fun l => l.part != p }) }
    else s4
  let s6 := if fld units 5 1 = 1 then ranges.foldl (fun s r => s.zeroRange r) s5 else s5
  let on (b n : Nat) : Nat := if fld units b 1 = 1 then n else 0
  let counts :=
    [on 0 z.ctxs.length, (if fld units 1 3 = 0 then 0 else cores.length), on 1 (8 * z.rows.foldl (fun n r => n + r.2) 0),
     on 3 (8 * cores.length),
     on 4 lines.length, on 4 (lines.filter fun l => l.dirty).length, on 5 (ranges.foldl (fun n r => n + r.len) 0)]
  s6.postReceipt p (receiptBytes req counts t0 s.tempo w0 s.wall s.pkg.serial raw)

end Sys2Proof.Machine
end

