-- ==== Sys2Proof/Machine/Adjourn.lean ====
section
/-! DEFINITION. Safe points, adjournment and flag time (05 R153, 17 R462 to R485): SAFE, the stop, the adjourn area, resuming,
resigning, posts and their decisions, vacancy. -/

namespace Sys2Proof.Machine

/-! ## SAFE (R153, R311, R467) -/

/-- A member of gang g parks at the bundle that it now issues; the stop is that of the last (R469). -/
def State.park (s : State) (c : CtxId) (g : Nat) : State :=
  (s.mapCtx c fun x => { x with run := .parked }).mapGang g fun x => { x with stopped := (s.tempo, s.wall) }

/-- A member of an elastic gang under an adjourn order issues a SAFE (R467): the first parking sets the target, in a tie that of
the lowest LIDX. -/
def State.safeElastic (s : State) (c : CtxId) (g : Gang) (id : BitVec 16) : State :=
  let parked := (s.liveMembers g).filter fun d => (s.ctx d).run == .parked
  let first := !parked.isEmpty && parked.all fun d =>
    (s.ctx d).mark == s.tempo && decide ((s.ctx c).spr.lidx.toNat < (s.ctx d).spr.lidx.toNat)
  match g.target with
  | none => ((s.park c g.id).mapGang g.id fun x => { x with target := some id }).stopCheck g.id
  | some t =>
    if t = id then (s.park c g.id).stopCheck g.id
    else if first then
      let s1 := parked.foldl (fun s d => s.mapCtx d fun x => { x with run := .run }) s
      ((s1.park c g.id).mapGang g.id fun x => { x with target := some id }).stopCheck g.id
    else s

/-- A member of a fixed-length gang under an adjourn order issues a SAFE (R467): it stops only when every member issues one of the
same id in this tempo; the end of the tempo lets the others go on. -/
def State.safeFixed (s : State) (c : CtxId) (g : Gang) (id : BitVec 16) : State :=
  match g.target with
  | none => ((s.park c g.id).mapGang g.id fun x => { x with target := some id }).stopCheck g.id
  | some t => if t = id then (s.park c g.id).stopCheck g.id else s

/-- SAFE: what came before it has ended; the latch becomes invalid, and an adjourn order may stop the member (R153, R311, R467). -/
def execSafe (id : BitVec 16) (_q : CtlQ) (s : State) : Host.Outcome State Fault Refusal :=
  .next (
    let c := s.iss.ctx
    if !ctlAlone s.iss.words then s.fault (ilSeq 0x0D)
    else
      let x := s.ctx c
      let s1 := if x.ctl.kind = .primary then
          s.mapCore (coreOf c) fun k => { k with latch := { k.latch with valid := false } }
        else s
      match s1.gangOf c with
      | none => s1
      | some g =>
        if x.ctl.kind = .second then s1
        else
          let s2 :=
            if !g.adjourn || g.writing then s1
            else if g.kernel.tlen.isSome then s1.safeFixed c g id
            else s1.safeElastic c g id
          s2.mapCtx c fun y => { y with mark := s.tempo })

/-- At the end of a tempo the members of a fixed-length gang that did not all stop go on (R467). -/
def State.unpark (s : State) : State :=
  (s.gangs.filter fun g => g.2.kernel.tlen.isSome && g.2.adjourn && g.2.target.isSome && !g.2.writing).foldl (fun s g =>
    ((s.liveMembers g.2).foldl (fun s c =>
      if (s.ctx c).run = .parked then s.mapCtx c fun x => { x with run := .run } else s) s).mapGang g.1 fun x =>
        { x with target := none }) s

/-! ## Figures of a gang (R466, R475, R480) -/

/-- Picoseconds per tempo at the present clock and factor (R4, R25, R475, R521). -/
def State.psTempo (s : State) : Nat := (if s.pkg.bstate = 1 then 500 else 250) * 2 ^ s.pkg.fac.val

def ceilDiv (a b : Nat) : Nat := (a + b - 1) / b

/-- FLOOR of a partition (R475). -/
def State.floorNs (s : State) (p : PartId) : Nat :=
  let x := s.part p
  x.spb * s.psTempo / 1000 + x.tdrn + x.tscr + x.marg

/-- Open ordered-atomic streams to which a gang has contributed. -/
def State.openStreams (s : State) (g : Gang) : Nat :=
  s.dies.foldl (fun n d => n + (d.2.streams.filter fun y => y.gangs.contains g.id).length) 0

/-- Dirty-state figure (R466). -/
def State.gdirty (s : State) (g : Gang) : Nat :=
  let n := g.members.length
  4096 + n * g.kernel.safePoints.foldl (fun m p => max m p.size) 0 + 16448 * (if g.kernel.chb then 8 * n else 0)
    + 2304 * s.openStreams g

/-- Largest count of tasks not ended over the members (R479). -/
def State.leftOf (s : State) (g : Gang) : Nat :=
  (s.liveMembers g).foldl (fun m c =>
    let x := s.ctx c
    max m (g.slices.getD x.spr.lidx.toNat 0 - x.spr.taskn.toNat)) 0

/-- Smallest tempo since the last SAFE or task start over the members (R479). -/
def State.sinceOf (s : State) (g : Gang) : Nat :=
  match (s.liveMembers g).map fun c => s.tempo - (s.ctx c).mark with
  | [] => 0
  | a :: rest => min (2 ^ 32 - 1) (rest.foldl min a)

/-- Estimated task length: fixed, or the mean of the tasks that ended (R480). -/
def Gang.taskLen (g : Gang) : Option Nat :=
  match g.kernel.tlen with
  | some l => some l
  | none => if 0 < g.tasksEnded then some (g.taskTempo / g.tasksEnded) else none

/-- Estimated remaining tempo (R480). -/
def State.remOf (s : State) (g : Gang) : Option Nat :=
  g.taskLen.map fun t =>
    match g.kernel.tlen, (s.liveMembers g).head? with
    | some _, some c => s.leftOf g * t - s.ttempo c
    | _, _ => s.leftOf g * t

/-- The adjourn area of a gang's region can be written (R469, R480). -/
def State.adjaOk (s : State) (g : Gang) : Bool :=
  match s.region? g.region with
  | some r => r.eff.adja != 0 && s.areaOk r.part r.asid r.eff.adja (s.gdirty g)
  | none => false

/-! ## Resigning (R483) -/

/-- A resign: every member stops, its work is abandoned, and the region becomes RESIGNED. -/
def State.resignGang (s : State) (g : Nat) (detail : Nat) : State :=
  match s.gang? g with
  | none => s
  | some x =>
    let s1 := (s.secondsOf g).foldl (fun s c =>
      (((s.endCmds c).dropElastic c).dropSecond c).mapCtx c fun y => { y with incarn := y.incarn + 1 }) s
    let ms := s1.liveMembers x
    let s2 := ms.foldl (fun s c => (s.endCmds c).dropElastic c) s1
    let s3 := s2.clearGang g
    let s4 := ms.foldl (fun s c => (s.vacate c).mapCtx c fun y => { y with incarn := y.incarn + 1 }) s3
    let s5 : State := { s4 with gangs := s4.gangs.filter fun y => y.1 != g }
    (s5.endRegion x.region .resigned 0 detail 0).redecide x.part

/-! ## Decisions (R477 to R482) -/

/-- The order of the decisions of a post (R480). -/
def byPlace (l : List (Gang × Region)) : List (Gang × Region) :=
  l.mergeSort fun a b => decide ([a.2.queue.val, a.2.order, a.2.id] ≤ [b.2.queue.val, b.2.order, b.2.id])

/-- Gangs in scope of a partition's post, in the order of their decisions (R480). -/
def State.inScope (s : State) (p : PartId) : List (Gang × Region) :=
  let gs := s.gangs.filterMap fun g =>
    match s.region? g.2.region with
    | some r => if r.part = p ∧ s.postScope r = true ∧ g.2.alive ≠ 0 then some (g.2, r) else none
    | none => none
  byPlace gs

/-- Gangs of a post whose adjourn is complete: their decisions stand, with a new TA (R481). -/
def State.stowed (s : State) (p : PartId) : List (Gang × Region) :=
  s.regions.filterMap fun r =>
    match r.2.saved with
    | some x =>
      if r.2.part = p ∧ r.2.state = .adjourned ∧ s.postScope r.2 = true ∧ ((s.part p).evicts.any fun e => e.gang == x.gang.id) = true then
        some (x.gang, r.2)
      else none
    | none => none

/-- Last-resort time of a post (R480). -/
def Part.lastResort (x : Part) (ft : Nat) : Nat := ft - x.tscr - x.marg - x.tdrn

/-- The decision for one gang with the checkpoint channel free from `ck`: the record, and the channel after it (R480, R481). REM and TP of
a record whose REM is not known are open (log entry 3). -/
def State.decideGang (s : State) (x : Part) (ft ck : Nat) (old : Option Evict) (g : Gang) (r : Region) : Evict × Nat :=
  let now := s.wall
  let ps := s.psTempo
  let lr := x.lastResort ft
  let rem := s.remOf g
  let tp := now + ceilDiv (rem.getD 0 * ps) 1000
  let frozen := (s.liveMembers g).any fun c => (s.ctx c).run == .frozen
  let area := s.adjaOk g
  let safe := !g.kernel.safePoints.isEmpty && area && !frozen
  let ts := now + ceilDiv ((x.spb - s.sinceOf g) * ps) 1000
  let ta := if g.writing then ck else max ts ck + ceilDiv (s.gdirty g * 1000) x.ckbw
  let fresh : Fin 4 :=
    if g.writing then 1
    else if rem.isSome && decide (tp ≤ lr) then 0
    else if r.eff.adjn && safe && decide (ta ≤ lr) then 1
    else if r.eff.rsgn then 2
    else if r.eff.adjn && safe then 1
    else 0
  let dec := match old with | some e => if g.writing then 1 else (if e.dec < fresh then fresh else e.dec) | none => fresh
  ({ gang := g.id, rcb := r.rcb, dec := dec,
     est := Fin.ofNat 8 (rem.isSome.toNat + 2 * (!g.kernel.safePoints.isEmpty).toNat + 4 * area.toNat),
     rem := rem.getD (Config.freeBits s.draws (7400 + 2 * g.id)), left := s.leftOf g, since := s.sinceOf g, dirty := s.gdirty g,
     tp := if rem.isSome then tp else Config.freeBits s.draws (7401 + 2 * g.id), ta := ta },
   if dec = 1 && !g.writing then ta else ck)

/-- Records of the decisions before, each with the newest decision of its gang: a gang that has left keeps its last one (R479, R482). -/
def Evict.merge (old new : List Evict) : List Evict :=
  old.map (fun e => (new.find? fun n => n.gang == e.gang).getD e) ++ new.filter fun n => !old.any fun e => e.gang == n.gang

/-- Decide every gang in scope, in order; an adjourn that is complete takes ck as its TA (R480, R481). -/
def State.decideAll (s : State) (p : PartId) (ft : Nat) : List Evict :=
  let x := s.part p
  ((byPlace (s.inScope p ++ s.stowed p)).foldl (fun (acc : List Evict × Nat) y =>
    match y.2.saved, x.evicts.find? fun e => e.gang == y.1.id with
    | some _, some e => (acc.1 ++ [{ e with ta := acc.2 }], acc.2)
    | _, old =>
      let d := s.decideGang x ft acc.2 old y.1 y.2
      (acc.1 ++ [d.1], d.2)) ([], s.wall)).1

/-- Act on one decision: an adjourn order, or a resign at once (R480). -/
def State.actOn (s : State) (e : Evict) : State :=
  if e.dec = 1 then (s.mapGang e.gang fun x => { x with adjourn := true }).stopCheck e.gang
  else if e.dec = 2 then s.resignGang e.gang 0
  else s

/-- Decide the gangs in scope of the post in force, and act (R480, R481). -/
def State.decideScope (s : State) (p : PartId) : State :=
  match (s.part p).post with
  | none => s
  | some x =>
    let es := s.decideAll p x.ft
    es.foldl State.actOn (s.mapPart p fun y => { y with evicts := Evict.merge y.evicts es })

/-- EVICTION_REDECIDE (R481). -/
def execEvictionRedecide (p : PartId) (s : State) : Host.Outcome State Fault Refusal := .next (s.decideScope p)

/-- Set a field of FTSTAT (R476). -/
def ftSet (w : Word) (at_ len v : Nat) : Word :=
  insertField w (BitVec.ofNat 64 v) at_ len

/-- LAST_RESORT_RESIGN: every gang in scope that still holds contexts is resigned by force (R482). -/
def execLastResortResign (p : PartId) (s : State) : Host.Outcome State Fault Refusal :=
  .next (
    match (s.part p).post with
    | none => s
    | some x =>
      let gs := s.inScope p
      if s.wall < (s.part p).lastResort x.ft || gs.isEmpty then s
      else
        let s1 := s.mapPart p fun y =>
          { y with
            ftstat := ftSet y.ftstat 2 1 1
            evicts := y.evicts.map fun e => if gs.any fun g => g.1.id == e.gang then { e with dec := 3 } else e }
        gs.foldl (fun s g => s.resignGang g.1.id 1) s1)

/-- The block of a post is well formed, its queues of this partition (R474, R476). -/
def State.postOk (s : State) (p : PartId) (n : Nat) : Bool :=
  let nq := fld n 64 8
  decide (nq ≤ 16) && fld n 72 56 == 0 && fld n 384 128 == 0
    && (List.range 16).all fun i =>
      let q := fld n (128 + 16 * i) 16
      if i < nq then decide (q < 2048) && (s.queue (Fin.ofNat 2048 q)).part == p else q == 0

/-- Contexts that a gang occupies or has occupied: its members, those that have ended too while no other gang holds them, and its seconds
(R484). -/
def State.unitsOf (s : State) (g : Gang) : List CtxId :=
  (g.members.filter fun c => (s.ctx c).run == .free || (s.ctx c).gang == some g.id) ++ s.secondsOf g.id

/-- FLAG_TIME_POST: the block is decided when it is written (R474 to R478); a malformed block comes first (log entry 27). -/
def execFlagTimePost (p : PartId) (block : BitVec 512) (s : State) : Host.Outcome State Fault Refusal :=
  .next (
    let n := block.toNat
    let x := s.part p
    let res (k : Nat) : State := s.mapPart p fun y => { y with ftstat := ftSet y.ftstat 16 4 k }
    if !s.serving? then s
    else if !s.postOk p n then res 4
    else if x.post.isSome then res 3
    else if fld n 0 64 < s.wall + s.floorNs p then res 2
    else
      let post : Post :=
        { ft := fld n 0 64, queues := (List.range (fld n 64 8)).map fun i => fld n (128 + 16 * i) 16, ctxs := [], asids := [],
          scrub := none }
      let s1 := s.mapPart p fun y => { y with post := some post, evicts := [] }
      let gs := s1.inScope p
      let full := { post with ctxs := (gs.flatMap fun g => s1.unitsOf g.1).eraseDups, asids := (gs.map fun g => g.1.asid).eraseDups }
      (s1.mapPart p fun y =>
        { y with post := some full, ftstat := BitVec.ofNat 64 (2 ^ 16 + 2 ^ 32 * (gs.length % 256)) }).decideScope p)

/-- The eviction record as it reads, its live bytes at this tempo (R479). -/
def State.evictBytes (s : State) (e : Evict) : List Byte :=
  let live : Nat × Nat := match s.gang? e.gang with
    | some g => (s.leftOf g, s.sinceOf g)
    | none => (e.left, e.since)
  bytesOf e.rcb.toNat 8 ++ [BitVec.ofNat 8 e.dec.val, BitVec.ofNat 8 e.est.val] ++ bytesOf 0 6 ++ bytesOf e.rem 8 ++ bytesOf live.1 4
    ++ bytesOf live.2 4 ++ bytesOf e.dirty 8 ++ bytesOf e.tp 8 ++ bytesOf e.ta 8 ++ bytesOf 0 8

/-- FTCLR: a post whose vacancy has been reached goes out of force (R477); adjourned regions join their rings again (R471). -/
def execFtclr (p : PartId) (s : State) : Host.Outcome State Fault Refusal :=
  .next (
    let x := s.part p
    if x.post.isNone || !x.ftstat.getLsbD 0 then s
    else
      let s1 := s.setPart p { x with post := none, ftstat := 0, evicts := [] }
      (s1.regions.filter fun r => r.2.part == p && r.2.state == .adjourned).foldl (fun s r => s.later 0 (.adjournResume r.1)) s1)

/-! ## The adjourn area (R463, R464, R466, R469) -/

/-- The scalar code of an item's spr, as a special register. -/
def itemSpr (code idx : Nat) : Spr :=
  if code = 0x1A then .amax else if code = 0x1B then .fps else if code = 0x21 then .lct (Fin.ofNat 6 idx) else .lsd (Fin.ofNat 6 idx)

/-- Pad to a multiple of 64. -/
def pad64 (l : List Byte) : List Byte := l ++ bytesOf 0 ((64 - l.length % 64) % 64)

/-- The value of an item of a saved member. A tag's eight bytes hold its XST byte and, in bit 8, its bit (log entry 28). -/
def SavedMember.itemValue (m : SavedMember) (w : Nat) : List Byte :=
  let code := fld w 8 8
  let x := m.ctx
  match fld w 0 8 with
  | 1 => bytesOf (x.regs.getS (SReg.ofCode code)).toNat 8
  | 2 => bytesOf (x.regs.getV 8 ((VReg.ofCode code).getD .zero)).toNat 512
  | 3 => bytesOf (x.regs.getP (Fin.ofNat 8 code)).toNat 128
  | 4 => bytesOf (x.regs.g[(Fin.ofNat 24 code : Fin 24)]).toNat 8
  | 5 =>
    let v : Word := match itemSpr code (fld w 16 6) with
      | .amax => x.spr.amax.setWidth 64
      | .fps => x.spr.fps.setWidth 64
      | .lct n => x.ctl.lct[n]
      | .lsd n => x.ctl.lsd[n]
      | _ => 0
    bytesOf v.toNat 8
  | 6 => bytesOf ((x.spr.xst[(Fin.ofNat 64 code : Fin 64)]).toNat + 2 ^ 8 * (x.spr.tags.getLsbD code).toNat) 8
  | 8 =>
    let a := fld w 8 24
    let n := fld w 32 32
    readBytes m.scratch a n ++ (List.range (n / 64)).flatMap fun j => bytesOf (lookupD 0 m.tags (a + 64 * j)).toNat 2
  | _ => []

/-- Restore an item from its bytes in a member's context. -/
def Ctx.putItem (x : Ctx) (w : Nat) (l : List Byte) : Ctx :=
  let code := fld w 8 8
  let n := numOf l
  match fld w 0 8 with
  | 1 => { x with regs := x.regs.putS (SReg.ofCode code) (BitVec.ofNat 64 n) }
  | 2 => { x with regs := x.regs.putV ((VReg.ofCode code).getD .zero) (BitVec.ofNat 4096 n) }
  | 3 => { x with regs := x.regs.setP (Fin.ofNat 8 code) (BitVec.ofNat 1024 n) }
  | 4 =>
    let g : Fin 24 := Fin.ofNat 24 code
    { x with regs := { x.regs with g := x.regs.g.set g (stgMask g (BitVec.ofNat 64 n)) } }
  | 5 => x.putSpr (itemSpr code (fld w 16 6)) (BitVec.ofNat 64 n)
  | 6 =>
    { x with spr := { x.spr with
      xst := x.spr.xst.set (Fin.ofNat 64 code : Fin 64) (BitVec.ofNat 8 n)
      tags := if fld n 8 1 = 1 then x.spr.tags ||| BitVec.ofNat 64 (2 ^ code) else x.spr.tags } }
  | _ => x

/-- Restore the scratchpad bytes and tags of an item. -/
def State.putScratchItem (s : State) (k : CoreId) (w : Nat) (l : List Byte) : State :=
  if fld w 0 8 ≠ 8 then s
  else
    let a := fld w 8 24
    let n := fld w 32 32
    let s1 := s.setMem (writeBytes s.mem (keyScratch k a) (l.take n))
    (List.range (n / 64)).foldl (fun s j =>
      s.setTag (keyScratch k (a + 64 * j)) (BitVec.ofNat 16 (numOf ((l.drop (n + 2 * j)).take 2)))) s1

/-- The safe point of a stop. -/
def Kernel.point? (k : Kernel) (id : BitVec 16) : Option SafePoint := k.safePoints.find? fun p => p.id == id

/-- Items of the safe point at which a saved gang stopped. -/
def Saved.items (x : Saved) : List Nat :=
  match x.gang.kernel.point? x.id with
  | some p => p.items.map BitVec.toNat
  | none => []

/-- The barrier block: for each barrier its phase, its count and the arrived bits of the members, in a layout that the manual does not give
(R469; log entry 28). -/
def Saved.barrierBytes (x : Saved) : List Byte :=
  (List.finRange 16).flatMap fun b =>
    let y := x.gang.barriers[b]
    let arrived := x.members.foldl (fun n m => n + ((m.ctx.arrivals[b]).arrived.toNat) * 2 ^ m.lidx) 0
    bytesOf (y.phase.toNat + 2 ^ 16 * y.count) 8 ++ bytesOf arrived 32

/-- A member block: 4 KiB of fixed state, of which the manual gives no layout (log entry 28), and the items. The fixed state of the first
member that has not ended ends with the barrier block, for which the area has no other room (R466, R469). -/
def State.memberBlock (s : State) (x : Saved) (m : SavedMember) (barriers : Bool) : List Byte :=
  let tail := if barriers then x.barrierBytes else []
  bytesOf (Config.freeBits s.draws (7000 + m.lidx)) (4096 - tail.length) ++ tail ++ x.items.flatMap fun w => pad64 (m.itemValue w)

/-- Chains that the item list names by a slot of some member (R345, R463). -/
def Saved.namedChains (x : Saved) : List Chain :=
  let slots : List (Fin 8) := (x.items.filter fun w => fld w 0 8 == 7).map fun w => Fin.ofNat 8 (fld w 8 8)
  x.chains.filter fun ch => x.members.any fun m => slots.any fun k => m.core.links[k].owner == some ch.uid

/-- Thirty-two rows of thirty-two elements of 16 bytes (R67, R469). -/
def tileBytes (el : Nat → BitVec 97) : List Byte := (List.range 1024).flatMap fun n => bytesOf (el n).toNat 16

/-- One chain of the chain block: 64 bytes for each entry, which hold the descriptor, the state words of the status record, and the captured
modes of a close in a layout that the manual does not give; then links and shadows (R317, R318, R337, R469; log entry 28). -/
def State.chainBytes (s : State) (x : Saved) (ch : Chain) : List Byte :=
  let n := ch.links.length
  bytesOf ch.header 32 ++ ch.links.flatMap (fun l => bytesOf (descEntry l) 8) ++ ch.links.flatMap (fun l => bytesOf (statusEntry l) 8)
    ++ bytesOf (Config.freeBits s.draws (7300 + ch.uid)) (64 * n - 16 * n - 32) ++ ch.links.flatMap fun l =>
      let store : Assoc (BitVec 97) := match x.members[l.core]? with | some m => (m.core.links[l.slot]).tile | none => []
      tileBytes (fun n => lookupD 0 store n)
        ++ (match l.shadow with | some v => tileBytes (fun n => v.getD n 0) | none => [])

/-- Offsets of the member blocks, 0 for a member that had ended (R469 MDIR). -/
def blockOffsets (size : Nat) : Nat → List SavedMember → List Nat
  | _, [] => []
  | off, m :: rest => if m.ended then 0 :: blockOffsets size off rest else off :: blockOffsets size (off + size) rest

/-- Size of each member block of a stop. -/
def Saved.blockSize (x : Saved) : Nat := safeSize x.items

/-- The adjourn area of a saved gang (R469). -/
def State.areaBytes (s : State) (x : Saved) (wall : Nat) : List Byte :=
  let offs := blockOffsets x.blockSize 4096 x.members
  let live := x.members.filter fun m => !m.ended
  let blocks := (live.zipIdx).flatMap fun m => s.memberBlock x m.1 (m.2 == 0)
  let chOff := 4096 + blocks.length
  let chains := x.namedChains.flatMap fun ch => s.chainBytes x ch
  let oaOff := chOff + chains.length
  let streams := bytesOf (Config.freeBits s.draws 7200) (2304 * x.streams.length)
  let used := oaOff + streams.length
  bytesOf 0x5A474144 4 ++ bytesOf 1 2 ++ bytesOf x.members.length 2 ++ bytesOf x.id.toNat 2 ++ bytesOf 0 6
    ++ bytesOf x.gang.kernel.addr.toNat 8 ++ bytesOf (x.stop % 2 ^ 64) 8 ++ bytesOf wall 8 ++ bytesOf used 8
    ++ bytesOf (if chains.isEmpty then 0 else chOff) 8 ++ bytesOf (if x.streams.isEmpty then 0 else oaOff) 8 ++ bytesOf (8192 - x.barrierBytes.length) 8
    ++ bytesOf 0 184 ++ (offs.flatMap fun o => bytesOf o 8) ++ bytesOf 0 (3840 - 8 * offs.length) ++ blocks ++ chains ++ streams

/-! ## Completing an adjourn, and resuming (R469 to R472) -/

/-- ADJOURN_COMPLETE: the area has been written and has drained; the gang's contexts are freed (R469, R470). -/
def execAdjournComplete (g : Nat) (s : State) : Host.Outcome State Fault Refusal :=
  .next (
    match s.gang? g with
    | none => s
    | some x =>
      match s.region? x.region with
      | none => s
      | some r =>
        if !x.writing then s
        else if s.hopsOut g || (s.liveMembers x).any fun c => !((s.ctx c).acc.isEmpty && (s.ctx c).pend.isEmpty) then
          s.after 1 (.adjournComplete g)
        else
          let ms := s.liveMembers x
          let all := { s.saveGang x (x.target.getD 0) with stop := x.stopped.1 }
          let saved := { all with chains := all.namedChains }
          let bytes := s.areaBytes saved x.stopped.2
          let out := if s.areaOk r.part r.asid r.eff.adja bytes.length then s.dirWrite r.part r.asid r.eff.adja.toNat bytes else none
          match x.area with
          | some t =>
            if s.tempo < t then s.after (t - s.tempo) (.adjournComplete g)
            else
              let s2 := s.leaveCores x
              let s3 := ms.foldl (fun s c => s.mapCtx c fun y => { y with incarn := y.incarn + 1 }) s2
              let s4 := ((s3.mapRegion r.id fun y => { y with state := .adjourned, gang := none }).endTurn r).writeRegion r.id
              if s4.postScope r then s4.redecide r.part else s4.later 1 (.adjournResume r.id)
          | none =>
            match out with
            | none => (s.mapGang g fun y => { y with writing := false }).redecide r.part
            | some s1 =>
              let t := State.drainedSince s s1 r.part
              ((s1.drawn.mapRegion r.id fun y => { y with saved := some saved }).mapGang g fun y => { y with area := some t }).after
                (t - s.tempo) (.adjournComplete g))

/-- A chamber that was valid and in which a saved member ran its kernel, refilled from the saved address with the table of its kernel: a
second's and a secondary kernel's chamber B are no primary's (R17, R471 step 3). -/
def State.refill (s : State) (r : Region) (m : SavedMember) (b : Bool) : Option (Fill × Nat × Option FillStatus) :=
  let ch := m.core.chamber b
  let sec := m.ctx.ctl.kind == .secondary
  let mine := if b then sec || m.ownsB else !sec
  if ch.valid && mine then some (s.dirFill r.part r.asid ch.seg.toNat (if sec then ch.table else m.core.templates)) else none

/-- A refill ends other than OK. -/
def refillBad (f : Option (Fill × Nat × Option FillStatus)) : Bool :=
  match f with
  | some x => x.2.2 != some .ok
  | none => false

/-- Put a refill into its chamber. -/
def Core.putRefill (k : Core) (b : Bool) (seg : Word) (f : Option (Fill × Nat × Option FillStatus)) : Core :=
  let base := 4096 * b.toNat
  let k1 := { k with code := k.code.filter fun e => decide (e.1 < base) || decide (base + 4096 ≤ e.1) }
  match f with
  | none => k1.setChamber b .reset
  | some x =>
    { k1.setChamber b { valid := true, filled := x.1.count, entry := x.2.1, ok := false, seg := seg } with
      code := putBundles k1.code base x.1.bundles.reverse }

/-- Context of a resumed member before its items: the fixed state of R464. -/
def SavedMember.fixedState (m : SavedMember) (s : State) (r : Region) (c : CtxId) : Ctx :=
  let x := m.ctx
  { Ctx.reset with
    run := .run, part := r.part, gang := x.gang, arrivals := x.arrivals, present := s.tempo, mark := s.tempo, counted := x.counted,
    incarn := (s.ctx c).incarn
    acc := (s.ctx c).acc
    ctl := { x.ctl with lct := Vector.replicate 6 0, lsd := Vector.replicate 6 0 }
    spr := { Sprs.reset with
      nfmtV := x.spr.nfmtV, nfmtM := x.spr.nfmtM, nfmtPend := x.spr.nfmtPend, lidx := x.spr.lidx, gsize := x.spr.gsize,
      tile := x.spr.tile, taskn := x.spr.taskn, asid := x.spr.asid, gen := x.spr.gen
      start := s.tempo - (x.present - x.spr.start) } }

/-- Put one member of an adjourned gang back (R471 steps 1 to 5); `area` holds the values of its items. -/
def State.resumeMember (s : State) (r : Region) (x : Saved) (m : SavedMember) (c : CtxId) (area : List Byte) : State :=
  let k := coreOf c
  let sec := isSec c
  let s1 := ((s.readyCore k r.part r.asid).loadImage k r.part r.asid r.eff.dom.rimg).zeroArea (keyScratch k 0) 0x400000
  let s2 := s1.mapCore k fun y =>
    let z := restoreLinks x m.core y
    if sec then z.putRefill true (m.core.chB.seg) (s.refill r m true)
    else
      let a := { z with templates := m.core.templates, working := [], latch := { z.latch with valid := false } }.putRefill false
        (m.core.chA.seg) (s.refill r m false)
      if s.ownsB k then a.putRefill true (m.core.chB.seg) (s.refill r m true) else a
  let s3 := s2.setCtx c (m.fixedState s r c)
  (x.items.foldl (fun (acc : State × List Byte) w =>
    let n := itemLen w
    let l := acc.2.take n
    ((acc.1.putScratchItem k w l).mapCtx c fun y => y.putItem w l, acc.2.drop ((n + 63) / 64 * 64))) (s3, area)).1

/-- Where the items of a member stand in its area. -/
def Saved.itemsAt (x : Saved) (r : Region) (off : Nat) : Nat × Nat := (r.eff.adja.toNat + off + 4096, x.blockSize - 4096)

/-- The items of a member as the area holds them; where it no longer translates, as they were saved. -/
def State.areaItems (s : State) (r : Region) (x : Saved) (m : SavedMember) (off : Nat) : List Byte :=
  let a := x.itemsAt r off
  match s.dirRead r.part r.asid (a.2 + 1) a.1 a.2 with
  | some l => l
  | none => x.items.flatMap fun w => pad64 (m.itemValue w)

/-- ADJOURN_RESUME: an adjourned region is placed and runs on from its safe point (R465, R471, R472). -/
def execAdjournResume (id : Nat) (s : State) : Host.Outcome State Fault Refusal :=
  .next (
    match s.region? id with
    | none => s
    | some r =>
      match r.saved with
      | none => s
      | some x =>
        if r.state ≠ .adjourned || s.postScope r then s
        else if !s.waits r then s.after 1 (.adjournResume id)
        else
          match s.workOf r with
          | .error d => s.endRegion id .failed 0x23 d 0
          | .ok w =>
            match s.placeAt r w (s.reserved r) with
            | none => (s.claimCores r w).after 1 (.adjournResume id)
            | some y =>
            if x.members.any fun m => !m.ended && (refillBad (s.refill r m false) || refillBad (s.refill r m true)) then
              s.endRegion id .failed 0x23 9 0
            else
              let offs := blockOffsets x.blockSize 4096 x.members
              let s1 := s.drawn.restoreGang r x y.members y.k
              let s2 := (x.members.zipIdx).foldl (fun s1 m =>
                match m.1.ended, y.members[m.1.lidx]? with
                | false, some c =>
                  (s1.dirSaw r.part r.asid [x.itemsAt r (offs.getD m.2 0)]).resumeMember r x m.1 c (s.areaItems r x m.1 (offs.getD m.2 0))
                | true, some c => s1.restoreEnded x m.1 c
                | _, none => s1) s1
              (s2.writeRegion id).after r.eff.budt (.sliceEnd x.gang.id))

/-! ## Vacancy (R484) -/

/-- The last gang in scope of a post has left its contexts, a second of one that has ended too, and the scrub has not started. -/
def State.vacancyDue (s : State) (p : PartId) : Bool :=
  match (s.part p).post with
  | some x =>
    let lingers (c : CtxId) : Bool :=
      (s.ctx c).run != .free && match s.gangOf c with | some g => g.alive == 0 | none => false
    x.scrub.isNone && !(s.part p).ftstat.getLsbD 0 && (s.inScope p).isEmpty && !x.ctxs.any lingers
  | none => false

/-- Tempo within which the scrub and receipt of a vacancy end, so that they keep TSCR at every throttle factor (R30, R475): at factor 1/4 a
tempo lasts four times as long. -/
def State.scrubTempo (s : State) (p : PartId) : Nat :=
  (s.part p).tscr * 1000 / (4 * if s.pkg.bstate = 1 then 500 else 250)

/-- What the scrub of a post covers (R484). -/
def Post.scope (x : Post) : ScrubScope := { ctxs := x.ctxs, rows := [], asids := x.asids, whole := false }

/-- VACANCY_RECEIPT: the director starts the scrub when the last gang has left; when it has ended and the writes have drained the receipt
is written, and VAC and RCPT are set (R484, R503). Of a core on which another ASID's context is resident it zeroes no state but the
registers (log entry 75). -/
def execVacancyReceipt (p : PartId) (s : State) : Host.Outcome State Fault Refusal :=
  .next (
    match (s.part p).post with
    | none => s
    | some x =>
      if s.vacancyDue p then
        let d := min (1 + Config.latency s.draws) (s.scrubTempo p)
        (((s.startScrub p x.scope).mapPart p fun y => { y with post := some { x with scrub := some (s.tempo, s.wall) } }).drawn).after d
          (.vacancyReceipt p)
      else
        match x.scrub with
        | none => s
        | some (t0, w0) =>
          if (s.part p).ftstat.getLsbD 0 then s
          else if s.drainWait p ≠ 0 then s.after (s.drainWait p) (.vacancyReceipt p)
          else
            let units := 0x1F
            let s1 := s.runScrub p x.scope (p.val + 2 ^ 8 * units + 2 ^ 16 * 0xFFFF) units [] t0 w0
            s1.mapPart p fun y => { y with ftstat := ftSet (ftSet y.ftstat 0 1 1) 1 1 1 })

/-! ## SPB (R465, R475) -/

/-- A context of the partition is resident. -/
def State.resident (s : State) (p : PartId) : Bool := s.ctxs.any fun k => k.2.part == p && k.2.run != .free

/-- SPB_WRITE: ignored while a context of the partition is resident or a post is in force, and out of range. -/
def execSpbWrite (p : PartId) (v : Word) (s : State) : Host.Outcome State Fault Refusal :=
  .next (
    let n := fld v.toNat 0 25
    if s.resident p || (s.part p).post.isSome || decide (n < 4096) || decide (2 ^ 24 < n) then s
    else s.mapPart p fun x => { x with spb := n })

end Sys2Proof.Machine
end

