-- ==== Sys2Proof/Machine/Isolation.lean ====
section
/-! DEFINITION. Partitions, tenants and assurance (18 R486 to R510): configuration, ASID tables, way masks, monitors, scrubs, resets,
keys and attestation. -/

namespace Sys2Proof.Machine

/-! ## Configuration (R486, R488, R521) -/

/-- A region of the partition's queues has not ended. -/
def State.openRegions (s : State) (p : PartId) : Bool := s.regions.any fun r => r.2.part == p && !r.2.state.ended

/-- The partition's configuration may be written now (R486). -/
def State.configOpen (s : State) (p : PartId) : Bool := !s.resident p && !s.openRegions p

/-- Two ranges of units overlap. -/
def rangesMeet (a n b m : Nat) : Bool := decide (0 < n) && decide (0 < m) && decide (a < b + m) && decide (b < a + n)

/-- Two partitions' shares overlap (R486). -/
def Part.overlaps (x y : Part) : Bool :=
  x.pclus &&& y.pclus != 0
    || (List.finRange 8).any (fun k =>
        let a := x.pmem[k].toNat
        let b := y.pmem[k].toNat
        rangesMeet (fld a 0 10) (fld a 32 11) (fld b 0 10) (fld b 32 11))
    || rangesMeet (fld x.psrow.toNat 0 14) (fld x.psrow.toNat 16 14) (fld y.psrow.toNat 0 14) (fld y.psrow.toNat 16 14)
    || rangesMeet (fld x.pkeys.toNat 0 10) (fld x.pkeys.toNat 16 11) (fld y.pkeys.toNat 0 10) (fld y.pkeys.toNat 16 11)

/-- Shared-scratch rows of a die under its division (R20, R186). -/
def Die.rows (d : Die) : Nat := (8 - d.cacheSteps) * 1024

/-- The fields of a partition keep the bounds of R486. -/
def State.boundsOk (s : State) (x : Part) : Bool :=
  (List.finRange 8).all (fun k =>
      let a := x.pmem[k].toNat
      decide (fld a 0 10 + fld a 32 11 ≤ 1024))
    && (List.finRange 8).all (fun d => decide (fld x.psrow.toNat 0 14 + fld x.psrow.toNat 16 14 ≤ (s.die d).rows))
    && x.phbm != 0 && fld x.pring.toNat 8 8 != 0 && decide (fld x.pkeys.toNat 0 10 + fld x.pkeys.toNat 16 11 ≤ 1024)

/-- A base address of this package `pk` lies in the share and is aligned; 0 stands for none (R184, R486). -/
def Part.baseOk (x : Part) (pk a align : Nat) : Bool := a == 0 || (a % align == 0 && a / 2 ^ 39 == pk && x.inShare (a % 2 ^ 39))

/-- In opening service only partition 0 is configured, with clusters 0 to 7 and PMEM0 (R521). -/
def State.serviceOk (s : State) (p : PartId) (x : Part) : Bool :=
  s.pkg.bstate == 2
    || (s.pkg.bstate == 1 && p == 0 && decide (x.pclus.toNat < 256) && (List.finRange 8).all fun k => k == 0 || x.pmem[k] == 0)

/-- The partition with a field written. -/
def Part.withField (x : Part) (f : PCfg) (v : Word) : Part :=
  let n := v.toNat
  match f with
  | .pclus => { x with pclus := v, frames := v }
  | .pmem k => { x with pmem := x.pmem.set k (BitVec.ofNat 64 (fld n 0 10 + 2 ^ 32 * fld n 32 11)) }
  | .psrow => { x with psrow := BitVec.ofNat 64 (fld n 0 14 + 2 ^ 16 * fld n 16 14) }
  | .phbm => { x with phbm := v.truncate 8 }
  | .pring => { x with pring := BitVec.ofNat 64 (fld n 0 4 + 2 ^ 8 * fld n 8 8) }
  | .pkeys => { x with pkeys := BitVec.ofNat 64 (fld n 0 10 + 2 ^ 16 * fld n 16 11) }
  | .pasidtBase => { x with pasidtBase := BitVec.ofNat 64 (fld n 0 52) }
  | .pfrz => { x with pfrz := BitVec.ofNat 64 (fld n 0 52) }
  | .prkey => { x with prkey := v.truncate 10 }

/-- The new value of a field is accepted (R486, R521). -/
def State.fieldOk (s : State) (p : PartId) (f : PCfg) (y : Part) : Bool :=
  s.serviceOk p y && s.boundsOk y
    && !(s.parts.any fun q => q.1 != p.val && q.2.pclus != 0 && y.overlaps q.2)
    && (match f with
        | .pasidtBase => y.baseOk s.pkg.id.toNat y.pasidtBase.toNat 4096
        | .pfrz => y.baseOk s.pkg.id.toNat y.pfrz.toNat 65536
        | _ => true)

/-- Keys of a partition that a change of PKEYS leaves outside the new range are erased (R497). -/
def State.eraseOutside (s : State) (old new : Part) : State :=
  { s with pkg := { s.pkg with keys := s.pkg.keys.filter fun k => !(old.ownsKey k.1 && !new.ownsKey k.1) } }

/-- PARTITION_CONFIG_WRITE: ignored or refused writes are logged, 1 and 2 in the error log (R486, R497). -/
def execPartitionConfigWrite (p : PartId) (f : PCfg) (v : Word) (s : State) : Host.Outcome State Fault Refusal :=
  .next (
    let x := s.part p
    let y := x.withField f v
    if !s.configOpen p then s.logError p 1
    else if !s.fieldOk p f y then s.logError p 2
    else
      let s1 := s.setPart p y
      match f with
      | .pkeys => s1.eraseOutside x y
      | _ => s1)

/-- An entry of an ASID table (R489). -/
def asidEntryOf (w : Nat) : AsidEntry :=
  { root := BitVec.ofNat 64 (fld w 0 64), pasid := BitVec.ofNat 20 (fld w 64 20), func := fld w 96 16,
    asid := BitVec.ofNat 14 (fld w 112 14), sroff := fld w 128 16, srcnt := fld w 144 16 }

/-- A valid entry keeps the layout of R489 (log entry 76). -/
def asidEntryOk (w rows : Nat) : Bool :=
  fld w 84 12 == 0 && fld w 126 1 == 0 && fld w 160 96 == 0 && fld w 0 64 % 524288 == 0 && decide (fld w 96 16 ≤ 512)
    && decide (fld w 128 16 + fld w 144 16 ≤ rows)

/-- No two entries share an ASID, or a function and PASID (R488). -/
def asidsDistinct : List AsidEntry → Bool
  | [] => true
  | e :: rest => (rest.all fun f => f.asid != e.asid && !(f.func == e.func && f.pasid == e.pasid)) && asidsDistinct rest

/-- PASIDT_N_WRITE: the table is checked whole and installed, or refused; the functions that it names are bound to the partition, as
firmware binds them at set-up (R486, R488; log entry 35). -/
def execPasidtNWrite (p : PartId) (v : Word) (s : State) : Host.Outcome State Fault Refusal :=
  .next (
    let x := s.part p
    let n := fld v.toNat 0 10
    let words := (List.range n).map fun j => readN s.mem (keyPA (x.pasidtBase.toNat % 2 ^ 39 + 32 * j)) 32
    let valid := words.filter fun w => fld w 127 1 == 1
    let es := valid.map asidEntryOf
    let others := s.parts.filter fun q => q.1 != p.val
    let taken (a : BitVec 14) : Bool := others.any fun q => q.2.asids.any fun e => e.asid == a
    if !s.configOpen p then s.logError p 1
    else if !s.serviceOk p x || !(valid.all fun w => asidEntryOk w (fld x.psrow.toNat 16 14)) || !asidsDistinct es
        || (es.any fun e => taken e.asid) then s.logError p 2
    else es.foldl (fun s e => s.mapFunc (Fin.ofNat 513 e.func) fun g => { g with part := p })
      (s.setPart p { x with pasidtN := BitVec.ofNat 10 n, asids := es }))

/-! ## Slice-cache ways (R493) -/

/-- Keep the lines of every die that a test lets stay. -/
def State.keepLines (s : State) (keep : CacheLine → Bool) : State :=
  { s with dies := s.dies.map fun d => (d.1, { d.2 with cache := d.2.cache.filter keep }) }

/-- PWAY_WRITE: refused where a new way holds lines of another partition; an empty mask sweeps the dirty lines (R493). -/
def execPwayWrite (p : PartId) (v : Word) (s : State) : Host.Outcome State Fault Refusal :=
  .next (
    let x := s.part p
    let mask : BitVec 16 := v.truncate 16
    let added := mask &&& ~~~x.pway
    let foreign := s.dies.any fun d => d.2.cache.any fun l => added.getLsbD l.way.val && l.part != p
    if !(s.pkg.bstate == 2 || (s.pkg.bstate == 1 && p == 0)) || foreign then s.logError p 2
    else
      let s1 := s.setPart p { x with pway := mask }
      if mask = 0 then s1.keepLines fun l => !(l.part == p && l.dirty) else s1)

/-- WSWEEP: a write of GO starts a sweep unless one runs (R493, R515). -/
def execWsweep (p : PartId) (v : Word) (s : State) : Host.Outcome State Fault Refusal :=
  .next (
    if v.getLsbD 0 && (s.part p).wsweepDone then
      (s.mapPart p fun x => { x with wsweepDone := false }).later 1 (.wsweepDone p)
    else s)

/-- WSWEEP_DONE: the partition's lines outside its mask are written back and invalid (R493). -/
def execWsweepDone (p : PartId) (s : State) : Host.Outcome State Fault Refusal :=
  .next (
    let x := s.part p
    if x.wsweepDone then s
    else (s.keepLines fun l => !(l.part == p && !x.pway.getLsbD l.way.val)).setPart p { x with wsweepDone := true })

/-! ## Range monitors (R498 to R500) -/

/-- MONITOR_WRITE of W0 or W1: its entries are written out first (R498, R500). -/
def execMonitorWrite (p : PartId) (n : Fin 16) (w1 : Bool) (v : Word) (s : State) : Host.Outcome State Fault Refusal :=
  .next (
    let k := v.toNat
    (s.logFlush p fun e => e.mon == n).mapPart p fun x =>
      if w1 then { x with mon1 := x.mon1.set n (BitVec.ofNat 64 (2 ^ 16 * fld k 16 36 + 2 ^ 15 * fld k 15 1 + fld k 0 14)) }
      else { x with mon0 := x.mon0.set n (BitVec.ofNat 64 (2 ^ 16 * fld k 16 36 + fld k 0 4)) })

/-- LFLUSH (R500). -/
def execLflush (p : PartId) (s : State) : Host.Outcome State Fault Refusal := .next (s.logFlush p fun _ => true)

/-! ## SCRUB (R502 to R504) -/

/-- A request keeps R502. -/
def State.scrubOk (s : State) (n : Nat) : Bool :=
  let f := fld n 16 16
  decide (fld n 0 8 < 32) && decide (fld n 8 8 < 64) && (f == 0xFFFF || decide (f ≤ 512)) && decide (fld n 32 16 ≤ 256)
    && fld n 48 16 == 0 && fld n 256 256 == 0
    && ((s.readRanges (fld n 64 64) (fld n 32 16)).all fun w => s.rangeOk (Fin.ofNat 32 (fld n 0 8)) w)

/-- A scrub joins those that run: its log entries are written out, and its receipt follows (R500, R503). -/
def State.queueScrub (s : State) (p : PartId) (req : BitVec 512) (owner : ScrubOwner) : State :=
  let s1 := s.startScrub p (s.scopeOf p (fld req.toNat 16 16))
  (s1.mapPart p fun x => { x with scrub := x.scrub ++ [{ req := req, t0 := s.tempo, w0 := s.wall, owner := owner }] }).later 1
    (.scrubReceipt p)

/-- SCRUB_REQUEST: 1 BUSY, 2 BAD, 0 taken (R502, R503). -/
def execScrubRequest (req : BitVec 512) (s : State) : Host.Outcome State Fault Refusal :=
  .next (
    let n := req.toNat
    let p : PartId := Fin.ofNat 32 (fld n 0 8)
    let status (k : Nat) : State := { s with pkg := { s.pkg with scrqStatus := k } }
    if 32 ≤ fld n 0 8 then status 2
    else if s.scopeResident (s.scopeOf p (fld n 16 16)) then status 1
    else if !s.scrubOk n then status 2
    else (status 0).queueScrub p req .host)

/-- Make a set of keys EMPTY (R497). -/
def State.eraseKeys (s : State) (x : Part) : State :=
  { s with pkg := { s.pkg with keys := s.pkg.keys.filter fun k => !x.ownsKey k.1 } }

/-- The functions of a reset that has ended are ready again. -/
def Func.resetDone (g : Func) : Func := if g.busy then { g with ready := true, busy := false, step := 6 } else g

/-- SCRUB_RECEIPT: the oldest scrub of a partition has been carried out and its receipt is written, once the partition's writes have
drained; the reset that it belongs to is over with it, a function-level one that a partition reset has overtaken with that (R503 to
R506). -/
def execScrubReceipt (p : PartId) (s : State) : Host.Outcome State Fault Refusal :=
  .next (
    match (s.part p).scrub with
    | [] => s
    | j :: rest =>
      let n := j.req.toNat
      let f := fld n 16 16
      if s.drainWait p ≠ 0 then s.after (s.drainWait p) (.scrubReceipt p) else
      let s1 := s.runScrub p (s.scopeOf p f) n (fld n 8 8) (s.readRanges (fld n 64 64) (fld n 32 16)) j.t0 j.w0
      let s2 := s1.mapPart p fun x => { x with scrub := rest }
      match j.owner with
      | .host => s2
      | .flr => if (s2.part p).prstDone then s2.mapFunc (Fin.ofNat 513 f) Func.resetDone else s2
      | .prst =>
        let s3 : State := { s2 with funcs := s2.funcs.map fun g => if g.2.part = p then (g.1, g.2.resetDone) else g }
        (s3.eraseKeys (s3.part p)).mapPart p fun x => { x with prstDone := true })

/-! ## Resets (R402, R505, R506) -/

/-- Discard what stations still hold of reset endpoints, and count it as FLUSH (R402). -/
def State.flushPackets (s : State) (cs : List CtxId) : State :=
  (s.packets.filter fun p => cs.contains p.src && (match p.at_ with | .pending | .retry _ => true | _ => false)).foldl (fun s p =>
    (s.dropPacket p.id).countSump p.srcDie p.srcDie .flush) s

/-- Timed slots of a gang that wait in hold buffers are counted as FLUSH, and those still in flight as STALE (R402). -/
def State.flushTimed (s : State) (g : Gang) : State :=
  (s.timed.filter fun y => y.gang == g.id && y.data.isSome).foldl (fun s y =>
    match g.receiver y.entry, (g.kernel.times[y.entry]?).bind fun e => g.members[e.snd]? with
    | some c, some d => s.countSump (dieOf (coreOf c)) (dieOf (coreOf d)) (if y.waiting then .flush else .stale)
    | _, _ => s) s

/-- What a context has on the ring to another die: FLUSH where its station still holds it, STALE where it arrives otherwise (R402). -/
def State.flushTo (s : State) (c : CtxId) (dst : DieId) : State :=
  let src := dieOf (coreOf c)
  if src = dst then s
  else if s.ringBlocked src dst then s.countSump src src .flush
  else s.countSump dst src .stale

/-- Engine commands of reset contexts that are on the ring (R402). Their elastic accesses are packets, which fall under `State.flushPackets`
or, in a slot, arrive of an old incarnation. -/
def State.flushCmds (s : State) (cs : List CtxId) : State :=
  (s.cmdsOut.filter fun m => cs.contains m.1).foldl (fun s m => m.2.2.eraseDups.foldl (fun s d => s.flushTo m.1 d) s) s

/-- Steps 2 to 5 of a reset for some ASIDs of a partition, whose log entries it flushes first (R500, R505). -/
def State.resetAsids (s : State) (p : PartId) (asids : List (BitVec 14)) : State :=
  let mine (a : BitVec 14) : Bool := asids.contains a
  let s0 := s.logFlush p fun e => mine e.asid
  let s1 : State := { s0 with queues := s0.queues.map fun q =>
    if q.2.part = p then
      (q.1, { q.2 with fifo := q.2.fifo.filter (fun r => !mine r.asid)
                       lastSeq := q.2.lastSeq.filter fun e => !mine (BitVec.ofNat 14 e.1) })
    else q }
  let s2 : State := { s1 with
    regions := s1.regions.map fun r => if r.2.part = p ∧ mine r.2.asid = true then (r.1, { r.2 with mute := true }) else r
    roots := s1.roots.filter fun r => !((s1.queue r.queue).part == p && mine r.record.asid && r.written) }
  let gs := s2.gangs.filter fun g => g.2.part == p && mine g.2.asid
  let cs := s2.lastRan p asids
  let s3 := gs.foldl (fun s g => (s.flushTimed g.2).resignGang g.1 2) ((s2.flushPackets cs).flushCmds cs)
  let s4 := (s3.regions.filter fun r => r.2.part == p && mine r.2.asid && !r.2.state.ended && r.2.leaf).foldl (fun s r =>
    s.endRegion r.1 .resigned 0 2 0) s3
  let s5 := cs.foldl (fun s c => s.mapCtx c fun x => { x with incarn := x.incarn + 1 }) s4
  let s6 := s5.mapPart p fun x =>
    { x with asidInc := asids.foldl (fun t a => insertAt t a.toNat (lookupD 0 t a.toNat + 1)) x.asidInc }
  asids.foldl (fun s a => s.tlbWide p (.asid a) fun _ => true) s6

/-- The scrub that ends a reset (R505 step 6, R506). -/
def State.resetScrub (s : State) (p : PartId) (owner : ScrubOwner) (units func nrange rlist : Nat) : State :=
  s.queueScrub p (BitVec.ofNat 512 (p.val + 2 ^ 8 * units + 2 ^ 16 * func + 2 ^ 32 * nrange + 2 ^ 64 * rlist)) owner

/-- FUNCTION_LEVEL_RESET of a virtual function: steps 1 to 5 at once, step 6 with the receipt (R402, R505). -/
def execFunctionLevelReset (f : FuncId) (s : State) : Host.Outcome State Fault Refusal :=
  .next (
    let x := s.func f
    if f = 0 ∨ x.busy = true ∨ s.serving? = false then s
    else
      let p := x.part
      let s1 := s.setFunc f { x with ready := false, busy := true, step := 5 }
      let n := fld x.flrrl.toNat 55 9
      (s1.resetAsids p ((s.part p).asidsOf f.val)).resetScrub p .flr (if n = 0 then 0x1F else 0x3F) f.val n (16 * fld x.flrrl.toNat 4 48))

/-- Change every function that is bound to a partition (R488). -/
def State.mapFuncsOf (s : State) (p : PartId) (g : Func → Func) : State :=
  (List.finRange 513).foldl (fun s f => if (s.func f).part = p then s.mapFunc f g else s) s

/-- PARTITION_RESET: a write of PRST.GO while none runs; the steps for every function, a whole scrub, and the keys (R506, R515). -/
def execPartitionReset (p : PartId) (v : Word) (s : State) : Host.Outcome State Fault Refusal :=
  .next (
    let x := s.part p
    if !v.getLsbD 0 || !x.prstDone || !s.serving? then s
    else
      let s1 := s.mapFuncsOf p fun g => { g with ready := false, busy := true, step := 5 }
      let s2 := s1.mapPart p fun x => { x with prstDone := false }
      (s2.resetAsids p (x.asids.map (·.asid))).resetScrub p .prst 0x1F 0xFFFF 0 0)

/-! ## Keys (R495 to R497) -/

/-- KIMP: what the blob decrypts to has no rule that computes it; the statuses follow (R496; log entry 3). -/
def execKimp (blob : BitVec 4096) (s : State) : Host.Outcome State Fault Refusal :=
  .next (
    let good := Config.sealValue 2 blob.toNat % 2 == 1
    let plain := Config.sealValue 3 blob.toNat
    let id := fld plain 512 16
    let p := fld plain 528 8
    let status (k : Nat) : State := { s with pkg := { s.pkg with kimpStatus := k } }
    if !good then status 1
    else if 1024 ≤ id ∨ 32 ≤ p ∨ (s.part (Fin.ofNat 32 p)).ownsKey id = false then status 2
    else if (lookup? s.pkg.keys id).isSome then status 3
    else { s with pkg := { s.pkg with kimpStatus := 0, keys := insertAt s.pkg.keys id (fld plain 0 512 + 1) } })

/-- KERASE: the key goes once the accesses queued under it have completed (R497). -/
def execKerase (id : Fin 1024) (s : State) : Host.Outcome State Fault Refusal := .next (s.later 1 (.keraseComplete id))

/-- Accesses under key material are queued at the controllers: writes that have not drained. One that comes later meets the EMPTY key
(R495, R497). -/
def State.keyBusy (s : State) (knum : Nat) : Bool :=
  s.parts.any fun q => q.2.wq.any fun e => decide (s.tempo < e.drain) && s.blockKeyOf e.key == knum

/-- KERASE_COMPLETE: the key id is EMPTY, once no access stands queued under its key (R497). -/
def execKeraseComplete (id : Fin 1024) (s : State) : Host.Outcome State Fault Refusal :=
  .next (
    match lookup? s.pkg.keys id.val with
    | none => s
    | some knum =>
      if s.keyBusy knum then s.later 1 (.keraseComplete id)
      else { s with pkg := { s.pkg with keys := removeAt s.pkg.keys id.val } })

/-! ## Attestation (R509, R510) -/

/-- The configuration fields of a partition (R486), as one number to digest. -/
def Part.configNum (x : Part) : Nat :=
  numOf (([x.pclus] ++ x.pmem.toList ++ [x.psrow, x.pring, x.pkeys, x.pasidtBase, x.pfrz]).flatMap (fun w => bytesOf w.toNat 8)
    ++ [x.phbm] ++ bytesOf x.pway.toNat 2 ++ bytesOf x.pasidtN.toNat 2 ++ bytesOf x.prkey.toNat 2)

/-- The ASID table of a partition (R489), as one number to digest. -/
def Part.asidNum (x : Part) : Nat :=
  numOf (x.asids.flatMap fun e => bytesOf (e.root.toNat + 2 ^ 64 * (e.pasid.toNat + 2 ^ 32 * e.func + 2 ^ 48 * e.asid.toNat)
    + 2 ^ 128 * (e.sroff + 2 ^ 16 * e.srcnt)) 32)

/-- The bytes of an attestation report before its signature: the digests of the loaded firmware, of the configuration fields and of the
ASID table of every partition; their LOADED key ids; SPB, the factor, the nonce and the serial number (R510; log entry 117). -/
def State.reportBytes (s : State) (nonce : BitVec 512) : List Byte :=
  let ps := (List.finRange 32).map fun p => (p.val, s.part p)
  let digest (n : Nat) : List Byte := bytesOf (Config.sealValue 4 n) 64
  s.pkg.digests.flatMap digest ++ ps.flatMap (fun q => digest q.2.configNum ++ digest q.2.asidNum)
    ++ ps.flatMap (fun q => (s.pkg.keys.filter fun k => q.2.ownsKey k.1).flatMap fun k => bytesOf q.1 2 ++ bytesOf k.1 2)
    ++ ps.flatMap (fun q => bytesOf q.2.spb 4) ++ bytesOf s.pkg.fac.val 1 ++ bytesOf nonce.toNat 64 ++ bytesOf s.pkg.serial 8

/-- ATTEST: the signed report goes into the assurance area (R510). -/
def execAttest (nonce : BitVec 512) (s : State) : Host.Outcome State Fault Refusal :=
  .next (
    let body := s.reportBytes nonce
    s.assure (body ++ signature body))

end Sys2Proof.Machine
end

