-- ==== Sys2Proof/Machine/Health.lean ====
section
/-! DEFINITION. Host link, bring-up and health (19 R511 to R526, 15 R436, R437): the control and memory windows, the host's actions on
frozen threads, bring-up, errors and retirement, power, management. -/

namespace Sys2Proof.Machine

/-! ## The host's actions on frozen threads (R516) -/

/-- The frozen context that HACTA names, when the host may act on it: no second holds it, and it was passed to the host or its
domain is halted. -/
def State.hostThread (s : State) (p : PartId) : Option CtxId :=
  let x := s.part p
  (s.ctxs.map fun k => (Fin.ofNat 512 k.1 : CtxId)).find? fun c =>
    let y := s.ctx c
    match y.frz with
    | some f => y.part == p && y.run == .frozen && s.framePA c == x.hacta.toNat && f.written && f.cap.isNone && f.resume.isNone
        && (f.host || s.domainHalted c)
    | none => false

/-- Carry out an operation of HACT, or refuse it (R515, R516). -/
def State.hact (s : State) (p : PartId) (retire : Bool) (k : State → CtxId → State) : Host.Outcome State Fault Refusal :=
  .next (
    match s.hostThread p with
    | none => s.mapPart p fun x => { x with hactRef := true }
    | some c =>
      if retire && (s.core (coreOf c)).retired then s.mapPart p fun x => { x with hactRef := true }
      else k (s.mapPart p fun x => { x with hactRef := false }) c)

/-- HACT resume, as FRES mode 00; a thread of a retired cluster is refused, as FRES would be (R431, R437, R516). -/
def execHactResume (p : PartId) (s : State) : Host.Outcome State Fault Refusal :=
  s.hact p true fun s c => s.resumeThread c none

/-- HACT kill, as FKILL with HKILL (R432, R516). -/
def execHactKill (p : PartId) (s : State) : Host.Outcome State Fault Refusal :=
  s.hact p false fun s c => (s.spend c 2).killThread c (s.part p).hkill

/-- HACT pass, as FPASS.SUP (R433, R516). -/
def execHactPass (p : PartId) (s : State) : Host.Outcome State Fault Refusal :=
  s.hact p false fun s c =>
    ((s.spend c 3).mapCtx c fun x => { x with frz := x.frz.map fun f => { f with sup := true, host := false } }).later 0 (.secondSpawn c)

/-- Frozen threads of a partition that nobody holds, in ascending serial order. -/
def State.unheld (s : State) (p : PartId) (dom : BitVec 14 × Word) : List CtxId :=
  let cs := (s.ctxs.filter fun k => k.2.part == p && k.2.awaits).map fun k => (Fin.ofNat 512 k.1 : CtxId)
  let mine := cs.filter fun c => match s.gangOf c with | some g => g.dom.name == dom | none => false
  let serial (c : CtxId) : Nat := match (s.ctx c).frz with | some f => f.serial.toNat | none => 0
  mine.mergeSort fun a b => decide (serial a ≤ serial b)

/-- DREL lifts the halt of a region's domain, and its threads re-enter the fault queue (R421, R516). Of two halted domains of different
ASIDs that have a region at the address, the first admitted is meant (log entry 106). -/
def execDrel (p : PartId) (rcb : Word) (s : State) : Host.Outcome State Fault Refusal :=
  .next (
    match s.regions.find? fun r => r.2.part == p && r.2.rcb == rcb && (s.part p).halted.contains r.2.eff.dom.name with
    | none => s
    | some r =>
      let dom := r.2.eff.dom.name
      let s1 := s.mapPart p fun x => { x with halted := x.halted.filter fun o => o != dom }
      (s1.unheld p dom).foldl (fun s c => s.queueFault c) s1)

/-! ## TLBH (R517) -/

/-- TLBH: the matching entries of the partition go on every die; kinds 10 and 11 are ignored. -/
def execTlbh (p : PartId) (v : Word) (s : State) : Host.Outcome State Fault Refusal :=
  .next (
    let n := v.toNat
    let kind := fld n 14 2
    if 2 ≤ kind then s
    else
      let w : TlbiWhat := if kind = 0 then .all else .asid (BitVec.ofNat 14 (fld n 0 14))
      ((s.tlbWide p w fun _ => true).mapPart p fun x =>
        { x with tlbh := BitVec.ofNat 64 (fld n 0 16), tlbhDone := false }).later 1 (.tlbhDone p))

/-- TLBH_DONE: every later access translates by the tables as they stand. -/
def execTlbhDone (p : PartId) (s : State) : Host.Outcome State Fault Refusal :=
  .next (s.mapPart p fun x => { x with tlbhDone := true })

/-! ## The memory window (R237, R512, R521) -/

/-- A byte as the window reads it: behind the write queues, and undefined under another key. -/
def State.windowByte (s : State) (knum off : Nat) : Byte :=
  let k := keyPA off
  let queued := s.parts.findSome? fun q => q.2.wq.find? fun e =>
    decide (s.tempo < e.drain) && decide (e.key ≤ k) && decide (k < e.key + e.old.length)
  if s.blockKeyOf k ≠ knum then BitVec.ofNat 8 (Config.freeBits s.draws (2000 + k))
  else
    match queued with
    | some e => e.old.getD (k - e.key) 0
    | none => readByte s.mem k

/-- Write bytes through the window. -/
def State.windowWrite (knum : Nat) : State → Nat → List Byte → State
  | s, _, [] => s
  | s, off, b :: rest =>
    let s1 := s.ownBlock (keyPA off) knum
    State.windowWrite knum (s1.setMem (writeByte s1.mem (keyPA off) b)) (off + 1) rest

/-- Every byte of an access lies in the window and in a stack in service, and in opening service in stack 0 (R512, R521). -/
def State.windowOk (s : State) (off len : Nat) : Bool :=
  let last := off + len - 1
  decide (last < 2 ^ s.pkg.bar2) && (s.pkg.bstate == 2 || (s.pkg.bstate == 1 && decide (last < 2 ^ 36)))
    && (s.die (Fin.ofNat 8 (off / 2 ^ 36))).stackUp && (s.die (Fin.ofNat 8 (last / 2 ^ 36))).stackUp

/-- MEMORY_WINDOW_ACCESS: `wr` holds the bytes of a write; a read leaves what it returned in `window`. -/
def execMemoryWindowAccess (off : Nat) (wr : Option (List Byte)) (len : Nat) (s : State) : Host.Outcome State Fault Refusal :=
  .next (
    let n := match wr with | some l => l.length | none => len
    let answer (s : State) (l : Option (List Byte)) : State := { s with pkg := { s.pkg with window := l } }
    let ones : List Byte := List.replicate n 0xFF
    if s.pkg.bstate = 3 ∨ s.pkg.bstate = 0 then (if wr.isSome then s else answer s (some ones))
    else if !s.windowOk off n then answer s none
    else
      match lookup? s.pkg.keys s.pkg.mwkey.toNat with
      | none =>
        let s1 : State := { s with pkg := { s.pkg with errors := s.pkg.errors ++ [1] } }
        if wr.isSome then s1 else answer s1 (some ones)
      | some knum =>
        match wr with
        | some l => State.windowWrite knum s off l
        | none => answer s (some ((List.range n).map fun j => s.windowByte knum (off + j))))

/-! ## Throttling (R25, R524, R525) -/

/-- The factor follows the lowest demand; each change sets EVT bit 7, and posts are decided again (R481, R525). -/
def State.refactor (s : State) : State :=
  let x := s.pkg
  let host : Nat := min 2 x.hfac.val
  let f : Fin 3 := Fin.ofNat 3 (max (max x.thermal.val x.power.val) (max host x.remoteFac.val))
  if f = x.fac then s
  else
    let s1 := ({ s with pkg := { x with fac := f } } : State).raise 7
    (s1.parts.filter fun q => q.2.post.isSome).foldl (fun s q => s.later 0 (.evictionRedecide (Fin.ofNat 32 q.1))) s1

/-- When a condition began to be clear. -/
def clearSince (clear : Bool) (old : Option Nat) (now : Nat) : Option Nat :=
  if clear then some (old.getD now) else none

/-- The power demand under the last reading and PCAP: one step below the present factor while the power exceeds it (R525). -/
def State.sensePower (s : State) : State :=
  let x := s.pkg
  let above := decide (x.pcap.toNat < x.pwr)
  ({ s with pkg :=
    { x with
      power := if above then Fin.ofNat 3 (min 2 (x.fac.val + 1)) else x.power
      clear := x.clear.set 2 (clearSince (!above) x.clear[2] s.wall) } } : State).refactor

/-- What the package demands under its sensors' readings, and what another demands of it (R525). -/
def State.sense (s : State) (tj pwr : Nat) (remote : Fin 3) : State :=
  let x := s.pkg
  let asked : Nat := if 102 ≤ tj then 2 else if 95 ≤ tj then 1 else 0
  let since (n : Fin 5) (clear : Bool) : Option Nat := clearSince clear x.clear[n] s.wall
  ({ s with pkg :=
    { x with
      tj := tj, pwr := pwr
      remoteFac := Fin.ofNat 3 (max x.remoteFac.val remote.val)
      thermal := Fin.ofNat 3 (max x.thermal.val asked)
      clear := #v[since 0 (tj < 92), since 1 (tj < 99), x.clear[2], since 3 (remote.val < 1), since 4 (remote.val < 2)] } } :
    State).sensePower

/-- THROTTLE_CHANGE: new readings and another package's demand; from 110 °C the trip follows (R525). -/
def execThrottleChange (tj pwr : Nat) (remote : Fin 3) (s : State) : Host.Outcome State Fault Refusal :=
  .next (
    let s1 := s.sense tj pwr remote
    if 110 ≤ tj then s1.later 0 .thermalTrip else s1)

/-- A condition has stayed clear for 1 ms (R525). -/
def State.clearLong (s : State) (n : Fin 5) : Bool :=
  match s.pkg.clear[n] with
  | some t => decide (t + 1000000 ≤ s.wall)
  | none => false

/-- A demand in two steps after those whose conditions have stayed clear for 1 ms are withdrawn: `half` and `quarter` name them. -/
def State.relaxed (s : State) (x : Fin 3) (half quarter : Fin 5) : Fin 3 :=
  let y : Fin 3 := if x = 2 && s.clearLong quarter then 1 else x
  if y = 1 && s.clearLong half then 0 else y

/-- The source whose demand can be withdrawn now: 0 thermal, 1 power, 3 another package (R525). -/
def State.withdrawable (s : State) : Option (Fin 4) :=
  if s.relaxed s.pkg.thermal 0 1 ≠ s.pkg.thermal then some 0
  else if s.pkg.power ≠ 0 && s.clearLong 2 then some 1
  else if s.relaxed s.pkg.remoteFac 3 4 ≠ s.pkg.remoteFac then some 3
  else none

/-- DEMAND_WITHDRAWAL of a source: thermal 0, power 1, host 2, another package 3, whose condition has stayed clear for 1 ms (R525). The host's
limit is HFAC as it stands, which its writes alone change (R524; log entry 127). -/
def execDemandWithdrawal (src : Fin 4) (s : State) : Host.Outcome State Fault Refusal :=
  .next (
    let x := s.pkg
    let y : Pkg :=
      match src.val with
      | 0 => { x with thermal := s.relaxed x.thermal 0 1 }
      | 1 => if s.clearLong 2 then { x with power := 0 } else x
      | 3 => { x with remoteFac := s.relaxed x.remoteFac 3 4 }
      | _ => x
    ({ s with pkg := y } : State).refactor)

/-! ## Reset, bring-up and the trip (R519 to R521, R523, R525) -/

/-- Codes of retired physical cores in the retire list: 36 times the die plus the core. -/
def State.retiredCores (s : State) (d : DieId) : List Nat :=
  (s.pkg.retired.filter fun n => decide (n < 288) && n / 36 == d.val).map fun n => n % 36

/-- Physical cores harvested at manufacture (R13, R522). -/
def Die.harvestedCores (x : Die) : List Nat := (List.range 36).filter fun n => x.harvested.getLsbD n

/-- HARV (R522). -/
def Die.harv (x : Die) : Nat := x.harvestedCores.length

/-- Code of a retired cluster in the retire list (log entry 88). -/
def clusterCode (k : CoreId) : Nat := 288 + clusterOf k

/-- Logical cores of a die whose clusters the retire list does not name (R523). -/
def State.keptCores (s : State) (d : DieId) : List Nat :=
  (List.range 32).filter fun i => !s.pkg.retired.contains (clusterCode (Fin.ofNat 256 (32 * d.val + i)))

/-- The core map of a die without its harvested and retired cores (R13, R523). A retired cluster stays retired; the logical cores of the
others take the good physical cores in ascending order, and clusters for which too few remain, the highest first, are lost (R15; DESIGN
CHOICE, log entry 126). -/
def State.mapDieCores (s : State) (d : DieId) : State :=
  let bad := s.retiredCores d ++ (s.die d).harvestedCores
  let kept := s.keptCores d
  if bad.isEmpty && kept.length == 32 then s
  else
    let good := (List.range 36).filter fun n => !bad.contains n
    let at_ (i : Nat) : Option Nat := good[kept.idxOf i]?
    let s1 := (List.range 32).foldl (fun s i =>
      let k : CoreId := Fin.ofNat 256 (32 * d.val + i)
      let whole := (List.range 4).all fun j => (at_ (i / 4 * 4 + j)).isSome
      s.mapCore k fun x => { x with phys := Fin.ofNat 36 ((at_ i).getD 0), retired := !whole }) s
    s1.mapDie d fun x => { x with spare := BitVec.ofNat 8 (good.length - kept.length) }

/-- A die holds a resident context. -/
def State.dieBusy (s : State) (d : DieId) : Bool :=
  s.ctxs.any fun k => k.2.run != .free && dieOf (coreOf (Fin.ofNat 512 k.1)) == d

/-- The division of the banks that firmware asks for takes effect on every die that holds no resident context, and sweeps its slice cache
(R20; log entry 112). -/
def State.divideBanks (s : State) : State :=
  { s with dies := s.dies.map fun d =>
      if d.2.wantSteps = d.2.cacheSteps ∨ s.dieBusy (Fin.ofNat 8 d.1) = true then d
      else (d.1, { d.2 with cacheSteps := d.2.wantSteps, cache := [] }) }

/-- Id of a unit in the retire list, where it is no core and no segment (log entry 88). -/
def UnderTest.retireCode (u : UnderTest) : Nat :=
  let n := match u.unit with
    | .link => 8 * (coreAt u.place).val + u.place / 2 ^ 18 % 8
    | .bank => u.place / 16 % 32
    | _ => u.place % 2 ^ 36 / 64
  65536 * TUnit.code u.unit + 8 * n + u.place / 2 ^ 40 % 8

/-- Ring segments of the retire list, as dead segments whose drain is over (R399, R523). -/
def deadOfList (l : List Nat) : List (DieId × Bool × Bool) :=
  (l.filter fun n => decide (4096 ≤ n) && decide (n < 4112)).map fun n => (Fin.ofNat 8 ((n - 4096) / 2), n % 2 == 1, false)

/-- The part in reset: what is held in non-volatile storage stays, with the sensors and the link; the retire list is applied again (R520,
R523, R526; log entry 78). -/
def State.inReset (s : State) : State :=
  let x := s.pkg
  { State.reset with
    draws := s.draws, fresh := s.fresh, wall := s.wall, wallFs := s.wallFs
    pkg := { Pkg.reset with
      id := x.id, peers := x.peers, bar2 := x.bar2, tj := x.tj, pwr := x.pwr, remoteFac := x.remoteFac, linkUp := x.linkUp, retired := x.retired,
      hostRefused := x.hostRefused, dead := deadOfList x.retired
      mappedOut := x.mappedOut.filter (fun u => x.retired.contains u.retireCode),
      firmware := x.firmware, staged := x.staged, serial := x.serial, msix := x.msix, receipts := x.receipts }
    dies := s.dies.map fun d =>
      (d.1, { Die.reset with harvested := d.2.harvested, wantSteps := d.2.wantSteps, cacheSteps := d.2.wantSteps }) }

/-- PACKAGE_RESET: the firmware's signature is checked; opening service starts with die 0 and stack 0, or the part has failed. A staged
image that fails the check is dropped, and the previous one stays in SPI NOR (R520, R521, R523, R526; log entry 128). -/
def execPackageReset (sigOk : Bool) (s : State) : Host.Outcome State Fault Refusal :=
  .next (
    let s0 := s.inReset
    let image := if sigOk then s0.pkg.staged.getD s0.pkg.firmware else s0.pkg.firmware
    let s1 := s0.pkg.dead.foldl (fun s x => s.reroute x.1 x.2.1)
      ((List.finRange 8).foldl State.mapDieCores
        { s0 with pkg := { s0.pkg with firmware := image, staged := none, digests := if sigOk then [image] else [] } })
    if sigOk then
      let s2 := s1.mapDie 0 fun d => { d with inService := true, stackUp := true }
      ({ s2 with pkg := { s2.pkg with bstate := 1 } } : State).raise 0
    else ({ s1 with pkg := { s1.pkg with bstate := 3 } } : State).raise 0)

/-- Clusters of a die that stays out of service are retired, and the host is told (R15, R518, R521). -/
def State.retireDie (s : State) (d : DieId) : State :=
  ((List.range 32).foldl (fun s i => s.mapCore (Fin.ofNat 256 (32 * d.val + i)) fun x => { x with retired := true }) s).raise 6

/-- TRAINING_COMPLETE: every present die, stack and station has trained; those that failed stay out of service (R520, R521). -/
def execTrainingComplete (dies stk : BitVec 8) (bridges : BitVec 4) (s : State) : Host.Outcome State Fault Refusal :=
  .next (
    if s.pkg.bstate ≠ 1 ∨ s.pkg.trained = true then s
    else
      let s1 := (List.finRange 8).foldl (fun (s : State) (d : DieId) =>
        let up := d == 0 || dies.getLsbD d.val
        let s1 := s.mapDie d fun x => { x with inService := up, stackUp := d == 0 || stk.getLsbD d.val }
        if up then s1 else s1.retireDie d) s
      ({ s1 with pkg := { s1.pkg with trained := true, brup := bridges } } : State).raise 0)

/-- BGO: a write of 1 enters full service; TEMPO takes the value of the timing domain, which is open (R24, R521; log entry 3), and
firmware sets TDRN and TSCR again (log entry 6). -/
def execBgo (v : Word) (s : State) : Host.Outcome State Fault Refusal :=
  .next (
    let busy := (s.ctxs.any fun c => c.2.run != .free) || s.parts.any fun p => p.2.post.isSome
    if v ≠ 1 || s.pkg.bstate ≠ 1 || !s.pkg.trained || busy then s
    else
      let s1 : State := { s with
        tempo := s.tempo + Config.freeBits s.draws 1006
        pkg := { s.pkg with bstate := 2 }
        parts := s.parts.map fun p => (p.1, { p.2 with tdrn := Part.reset.tdrn, tscr := Part.reset.tscr }) }
      s1.drawn.raise 0)

/-- THERMAL_TRIP: the package stops issue and enters reset; every accepted post is void (R525). -/
def execThermalTrip (s : State) : Host.Outcome State Fault Refusal := .next (s.inReset.raise 0)

/-- 10 ms after the last timestamp the next one is taken; what the host's clock shows is open (R519; log entry 3). -/
def State.ptmDue (s : State) : Bool := s.pkg.wtv && decide (s.pkg.ptmAt + 10000000 ≤ s.wall)

/-- PTM_SAMPLE: wall time slews toward the timestamp (R519). -/
def execPtmSample (ts : Nat) (s : State) : Host.Outcome State Fault Refusal :=
  .next { s with pkg := { s.pkg with wtv := true, ptmAt := s.wall, ptm := ((ts : Int) - (s.wall : Int)) * 1000000 - (s.wallFs : Int) } }

/-! ## Self-test and retirement (R15, R436, R437, R522, R523) -/

/-- A physical core of a die that no logical core uses and that is neither harvested nor retired. The healthy ones of a cluster retired
while the part runs count as used until the next bring-up (R15; DESIGN CHOICE, log entry 126). -/
def State.freePhys (s : State) (d : DieId) : Option (Fin 36) :=
  let used := (List.range 32).map fun i => (s.core (Fin.ofNat 256 (32 * d.val + i))).phys
  let out := s.retiredCores d ++ (s.die d).harvestedCores
  (List.finRange 36).find? fun n => !used.contains n && !out.contains n.val

/-- Retire the cluster of a core: its partitions lose it, and the links that its cores host are lost (R15, R334). -/
def State.retireCluster (s : State) (k : CoreId) : State :=
  let cores := (List.range 4).map fun i => (Fin.ofNat 256 (k.val / 4 * 4 + i) : CoreId)
  let s1 := cores.foldl (fun s i => (s.mapCore i fun x => { x with retired := true }).loseHost i) s
  { s1 with
    pkg := { s1.pkg with retired := s1.pkg.retired ++ [clusterCode k] }
    parts := s1.parts.map fun p => (p.1, { p.2 with pclus := p.2.pclus &&& ~~~BitVec.ofNat 64 (2 ^ clusterOf k) }) }

/-- A failed core takes a spare, to which what it holds moves (log entry 111), or its whole cluster is retired (R15, R437). -/
def State.replaceCore (s : State) (k : CoreId) : State × TRes :=
  let d := dieOf k
  let s1 := s.retireUnit (36 * d.val + (s.core k).phys.val)
  match s1.freePhys d with
  | some n => ((s1.mapCore k fun x => { x with phys := n }).mapDie d fun x => { x with spare := x.spare - 1 }, .spare)
  | none => (s1.retireCluster k, .retired)

/-- A failed unit that is no core and no segment, and for which there is no spare, is mapped out and entered in the retire list (R437). -/
def State.mapOut (s : State) (u : UnderTest) : State :=
  let s1 : State := { s with pkg := { s.pkg with mappedOut := s.pkg.mappedOut ++ [u] } }
  s1.retireUnit u.retireCode

/-- The pattern test of a link slot loses its contents (R436). -/
def State.losePattern (s : State) (u : UnderTest) : State :=
  if u.unit = .link then
    (s.mapCore (coreAt u.place) fun x =>
      let k : Fin 8 := Fin.ofNat 8 (u.place / 2 ^ 18)
      let lost : LinkSlot := { x.links[k] with tile := tileOf fun i => BitVec.ofNat 97 (Config.freeBits s.draws (4000 + i)) }
      { x with links := x.links.set k lost }).drawn
  else s

/-- What becomes of a tested unit (R437): a core takes a spare or costs its cluster, a segment is retired, another unit is mapped out. -/
def State.afterTest (s : State) (u : UnderTest) : TRes → State × TRes
  | .pass => (s, .pass)
  | r =>
    let d : DieId := Fin.ofNat 8 (u.place / 2 ^ 40)
    match u.unit with
    | .core => s.replaceCore (coreAt u.place)
    | .segment =>
      let desc := u.place % 2 == 1
      (({ s with pkg := { s.pkg with dead := s.pkg.dead ++ [(d, desc, false)] } } : State).retireSegment d desc, .retired)
    | _ => (if r = .spare then s.retireUnit u.retireCode else s.mapOut u, r)

/-- TARGETED_SELF_TEST of a unit: it serves accesses again, what the test finds is counted, a failed unit is retired, and the record of
the context that met the error, if one did, names both (R436, R437, R522). -/
def execTargetedSelfTest (place : Nat) (c : Option CtxId) (u : TUnit) (r : TRes) (s : State) :
    Host.Outcome State Fault Refusal :=
  .next (
    let x : UnderTest := { unit := u, place := place }
    let s0 : State := { s with pkg := { s.pkg with tests := s.pkg.tests.erase x } }
    let t := (s0.losePattern x).afterTest x r
    let s1 := t.1.countTest (Fin.ofNat 8 (place / 2 ^ 40)) t.2
    match c with
    | none => s1
    | some k => s1.mapCtx k fun y =>
        { y with frz := y.frz.map fun f => { f with testing := false, test := TRes.code t.2, unit := TUnit.code u } })

/-- HBM_PATROL_ERROR: the same test, with no record (R522). -/
def execHbmPatrolError (die : DieId) (row : Nat) (r : TRes) (s : State) : Host.Outcome State Fault Refusal :=
  .next (
    let u : UnderTest := { unit := .hbm, place := keyDev die.val (64 * row) }
    let t := s.afterTest u r
    t.1.countTest die t.2)

/-! ## The host link (R523) -/

/-- The host target of an elastic access. -/
def State.hostTarget (s : State) (c : CtxId) (e : Elastic) : Option Tgt :=
  if e.va.toNat < 2 ^ 32 then none
  else
    match s.elasticHome c e with
    | .ok t => if t.host then some t else none
    | .error _ => none

/-- HOST_LINK_DOWN: every access to the host in flight ends LOST, and new ones do the same; whether a store or an atomic has performed is
open (R195, R523; log entry 47). -/
def execHostLinkDown (s : State) : Host.Outcome State Fault Refusal :=
  .next (
    let s1 : State := { s with pkg := { s.pkg with linkUp := false, aerErrors := s.pkg.aerErrors + 1 } }
    let s2 := s.ctxs.foldl (fun s1 k =>
      let c : CtxId := Fin.ofNat 512 k.1
      (k.2.elas.filter fun e => !e.stopped && !e.banked && !e.sent).foldl (fun s1 e =>
        match s.hostTarget c e with | some t => s1.loseAccess c e t | none => s1) s1) s1
    s.packets.foldl (fun s p =>
      match p.tgt with
      | some t => if p.kind.isRequest && !p.back && t.host then s.loseRequest p t else s
      | none => s) s2)

def execHostLinkUp (s : State) : Host.Outcome State Fault Refusal :=
  .next { s with pkg := { s.pkg with linkUp := true } }

/-! ## Management (R526) -/

/-- The certificate chain of the identity and import keys; it has no rule that gives its value or its length (R509; log entry 129). -/
def State.certChain (s : State) : List Byte := bytesOf (Config.sealValue 6 s.pkg.serial) 4096

/-- MCTP_MESSAGE: answered in every STATE (R526; log entry 129). -/
def execMctpMessage (m : Mctp) (s : State) : Host.Outcome State Fault Refusal :=
  let answer (l : List Byte) : State := { s with pkg := { s.pkg with mctp := l } }
  match m with
  | .control => .next (answer [])
  | .pldm =>
    let health := (List.finRange 8).flatMap fun d =>
      let x := s.die d
      bytesOf d.val 1 ++ bytesOf x.corr.toNat 2 ++ bytesOf x.soft.toNat 2 ++ [x.rets, x.retn, x.spare, BitVec.ofNat 8 x.harv]
    .next (answer (bytesOf s.pkg.tj 2 ++ bytesOf s.pkg.pwr 2 ++ bytesOf s.pkg.fac.val 1 ++ bytesOf s.pkg.bstate.val 1 ++ health))
  | .certChain => .next (answer s.certChain)
  | .attest nonce => execAttest nonce s
  | .retireList => .next (answer (s.pkg.retired.flatMap fun n => bytesOf n 4))
  | .clearRetire n sigOk => .next (if sigOk then { s with pkg := { s.pkg with retired := s.pkg.retired.filter fun m => m != n } } else s)
  | .update image sigOk => .next (if sigOk then { s with pkg := { s.pkg with staged := some image } } else s)

/-! ## The control window (R438, R513 to R517, R522, R524) -/

/-- A write to a queue block (R438, R459, R513). -/
def State.writeQueueReg (s : State) (q : QueueId) (reg : Nat) (v : Word) : Host.Outcome State Fault Refusal :=
  let x := s.queue q
  match reg with
  | 0x00 =>
    let p : PartId := Fin.ofNat 32 (fld v.toNat 16 5)
    let serv := v.getLsbD 2
    let used := !x.fifo.isEmpty || s.regions.any fun r => r.2.queue == q && !r.2.state.ended
    if (p != x.part || serv != x.serv) && used then .next s
    else .next (s.setQueue q { x with part := p, serv := serv, stop := v.getLsbD 1, en := v.getLsbD 0 })
  | 0x10 => .next (s.setQueue q { x with qrepg := BitVec.ofNat 64 (fld v.toNat 0 54) })
  | 0x18 => execReplacementPost q v s
  | _ => .next s

/-- A write to a function block (R512, R515). -/
def State.writeFuncReg (s : State) (f : FuncId) (reg : Nat) (v : Word) : State :=
  if reg < 0x80 then
    if reg % 8 ≠ 0 then s
    else s.mapFunc f fun x =>
      { x with vfqmap := x.vfqmap.set (Fin.ofNat 16 (reg / 8)) (BitVec.ofNat 16 (fld v.toNat 0 12 + 2 ^ 15 * fld v.toNat 15 1)) }
  else if reg = 0x80 then
    if (s.func f).busy ∨ 256 < fld v.toNat 55 9 then s
    else s.mapFunc f fun x => { x with flrrl := BitVec.ofNat 64 (2 ^ 4 * fld v.toNat 4 48 + 2 ^ 55 * fld v.toNat 55 9) }
  else s

/-- A write to a partition block (R486, R498, R500, R514, R515). -/
def State.writePartReg (s : State) (p : PartId) (reg : Nat) (v : Word) : Host.Outcome State Fault Refusal :=
  let n := v.toNat
  match reg with
  | 0x0000 => execPartitionConfigWrite p .pclus v s
  | 0x0048 => execPartitionConfigWrite p .psrow v s
  | 0x0050 => execPwayWrite p v s
  | 0x0058 => execPartitionConfigWrite p .phbm v s
  | 0x0060 => execPartitionConfigWrite p .pring v s
  | 0x0068 => execPartitionConfigWrite p .pkeys v s
  | 0x0070 => execPartitionConfigWrite p .pasidtBase v s
  | 0x0078 => execPasidtNWrite p v s
  | 0x0080 => execPartitionConfigWrite p .pfrz v s
  | 0x0088 => execPartitionConfigWrite p .prkey v s
  | 0x0090 => .next (if fld n 0 7 ≤ 64 then s.mapPart p fun x => { x with pbench := fld n 0 7 } else s)
  | 0x0098 => execWsweep p v s
  | 0x00A0 => execSpbWrite p v s
  | 0x00B8 => .next (if 10000 ≤ fld n 0 32 then s.mapPart p fun x => { x with marg := fld n 0 32 } else s)
  | 0x00C0 => .next (if 1000 ≤ fld n 0 32 then s.mapPart p fun x => { x with ckbw := fld n 0 32 } else s)
  | 0x00D8 => execPartitionReset p v s
  | 0x1048 => execFtclr p s
  | 0x8100 => execLflush p s
  | 0x8108 => .next (s.mapPart p fun x => { x with logb := v })
  | 0x8110 => .next (s.mapPart p fun x => { x with logs := v })
  | 0x8120 => .next (s.mapPart p fun x => { x with logr := v })
  | 0x9000 => .next (s.mapPart p fun x => { x with hacta := BitVec.ofNat 64 (fld n 0 52) })
  | 0x9008 =>
    match fld n 0 2 with
    | 1 => execHactResume p s
    | 2 => execHactKill p s
    | 3 => execHactPass p s
    | _ => .next s
  | 0x9010 => .next (s.mapPart p fun x => { x with hkill := v.truncate 32 })
  | 0x9018 => execDrel p v s
  | 0x9020 => execTlbh p v s
  | r =>
    if 8 ≤ r && r ≤ 0x40 && r % 8 == 0 then execPartitionConfigWrite p (.pmem (Fin.ofNat 8 (r / 8 - 1))) v s
    else if 0x8000 ≤ r && r < 0x8100 && r % 8 == 0 then execMonitorWrite p (Fin.ofNat 16 ((r - 0x8000) / 16)) (r % 16 == 8) v s
    else .next s

/-- A write to a die block (R397, R522). -/
def State.writeDieReg (s : State) (d : DieId) (reg : Nat) (v : Word) : State :=
  if reg < 0x80 ∧ reg % 8 = 0 then
    s.mapDie d fun x => x.writeSump s.tempo (Fin.ofNat 16 (reg / 8)) v
  else if reg = 0x100 then
    let n := v.toNat
    s.mapDie d fun x =>
      { x with corr := BitVec.ofNat 16 (fld n 48 16), soft := BitVec.ofNat 16 (fld n 32 16), rets := BitVec.ofNat 8 (fld n 24 8),
               retn := BitVec.ofNat 8 (fld n 16 8) }
  else s

/-- A write to the package controller (R497, R512, R518, R521, R524). -/
def State.writePkgReg (s : State) (reg : Nat) (v : Word) : Host.Outcome State Fault Refusal :=
  let x := s.pkg
  match reg with
  | 0x0008 => execBgo v s
  | 0x0010 => .next { s with pkg := { x with evt := x.evt &&& ~~~(v.truncate 8) } }
  | 0x0018 =>
    let f := fld v.toNat 8 2
    .next (if f = 3 then s else ({ s with pkg := { x with hfac := Fin.ofNat 4 f } } : State).refactor)
  | 0x0020 =>
    .next (
      if 600 ≤ v.toNat ∧ v.toNat ≤ 1800 then ({ s with pkg := { x with pcap := BitVec.ofNat 12 v.toNat } } : State).sensePower
      else s)
  | 0x0028 => .next { s with pkg := { x with mwkey := v.truncate 10 } }
  | 0x3000 => execKerase (Fin.ofNat 1024 v.toNat) s
  | _ => .next s

/-- REGISTER_WRITE of 8 bytes at an offset of the control window (R513). A posted write to a queue port page is refused (R439);
before service only the package controller answers (R521). -/
def execRegisterWrite (off : BitVec 26) (v : Word) (s : State) : Host.Outcome State Fault Refusal :=
  let o := off.toNat
  if 0x2000000 ≤ o ∧ o < 0x2010000 then s.writePkgReg (o - 0x2000000) v
  else if s.pkg.bstate = 0 ∨ s.pkg.bstate = 3 then .next s
  else if o < 0x800000 then .next (s.dmwr 2)
  else if o < 0x820000 then s.writeQueueReg (Fin.ofNat 2048 ((o - 0x800000) / 64)) (o % 64) v
  else if 0xA00000 ≤ o ∧ o < 0xA00000 + 4096 * 513 then .next (s.writeFuncReg (Fin.ofNat 513 ((o - 0xA00000) / 4096)) (o % 4096) v)
  else if 0x1000000 ≤ o ∧ o < 0x1800000 then s.writePartReg (Fin.ofNat 32 ((o - 0x1000000) / 0x40000)) (o % 0x40000) v
  else if 0x1800000 ≤ o ∧ o < 0x1880000 then .next (s.writeDieReg (Fin.ofNat 8 ((o - 0x1800000) / 0x10000)) (o % 0x10000) v)
  else .next s

end Sys2Proof.Machine
end

