-- ==== Sys2Proof/Machine/Presenting.lean ====
section
/-! DEFINITION. Presenting (05 R125 to R127, 02 R34, R47, R48, R51, R52): the checks made when a bundle presents, the conditions it
holds for, what begins with its presenting, and the events that end a hold or bring a branch target. -/

namespace Sys2Proof

/-! ## Kinds of instructions that presenting tells apart -/

/-- The qualifier and the stall count of an instruction of the ctl slot (R36). -/
def Instr.ctlq : Instr → Option CtlQ
  | .nop q | .br _ _ _ _ q | .brp _ _ _ _ _ q | .jmp _ _ q | .call _ _ q | .ret _ q | .swap _ q | .lset _ q | .loop _ _ q
  | .lbrk _ q | .pfx _ _ q | .bar _ q | .bara _ q | .barw _ q | .wtany _ q | .wtall _ q | .tend q | .safe _ q | .ifence q
  | .trap _ q | .brk _ q => some q
  | _ => none

/-- The PRIV condition that follows from the encoding and the context's kind (R219, R313, R426). -/
def Instr.needsSecond : Instr → Bool
  | .frd .. | .fwr .. | .fres .. | .fresPc .. | .fkill .. | .fpassSup .. | .fpassHost .. | .fstat .. | .hmov .. | .hmovMove ..
  | .hmovClear .. | .tlbiAll .. | .lkr .. | .lkw .. | .lkz .. => true
  | .movs _ r => r == .frec
  | _ => false

/-- An xe command or an MMA that sets AT (R303, R348). -/
def Instr.timedStart : Instr → Bool
  | .mma _ _ _ _ a | .xcp _ _ _ _ _ a | .xcnvPl _ _ a | .xcnvFl _ _ a | .xcprGet _ _ a | .xcprPut _ _ a | .xpf _ _ a
  | .xrte _ _ a | .xwr _ _ _ a | .xrd _ _ _ a | .xatm _ _ _ a => a
  | .xsnd .. | .xrcv .. => true
  | _ => false

/-- An elastic access of the mem slot (R193). -/
def Instr.elastic : Instr → Bool
  | .lde .. | .ste .. | .aaddE .. | .aminE .. | .amaxE .. | .axchE .. | .aandE .. | .aorE .. | .acasE .. | .aord .. => true
  | _ => false

/-- An xe command that R353 counts: tagged, and not a timed one. -/
def Instr.queues : Instr → Bool
  | .xcp .. | .xcnvPl .. | .xcnvFl .. | .xcprGet .. | .xcprPut .. | .xpf .. | .xrte .. | .xwr .. | .xrd .. | .xatm .. => true
  | _ => false

/-- A handler form that holds at presenting (R428). -/
def Instr.handlerHold : Instr → Bool
  | .frd .. | .fwr .. | .fres .. | .fresPc .. | .fkill .. | .fpassSup .. | .fpassHost .. | .fstat .. => true
  | _ => false

end Sys2Proof

namespace Sys2Proof.Machine

/-! ## The bundle that presents -/

/-- The issue point of the bundle at the PC of context c (R31, R406). -/
def State.atBundle (s : State) (c : CtxId) : State :=
  let x := s.ctx c
  { s with iss :=
    { ctx := c, slot := 0, pc := x.ctl.pc, words := ((s.core (coreOf c)).bundleAt x.ctl.pc.toNat).getD 0, rm := .rne,
      sat := .dflt, reentry := x.ctl.srv, stop := false, next := none, before := none, nfmtOld := x.spr.nfmtPend.length } }

/-- The slot at which the bundle of context c is entered: SRES when it is re-entered (R406, R431). -/
def Ctx.entrySlot (x : Ctx) : Fin 8 := if x.ctl.srv then x.ctl.sres else 0

/-- The slots of the issuing bundle, decoded. -/
def State.decoded (s : State) : List (Fin 8 × Except Nat (Option Instr)) := slotsOf s.iss.words

/-- The instructions of the issuing bundle from a slot on. -/
def State.instrsFrom (s : State) (first : Fin 8) : List (Fin 8 × Instr) :=
  (instrsOf s.decoded).filter fun d => decide (first ≤ d.1)

/-- The instruction of the ctl slot of the issuing bundle. -/
def State.ctlInstr? (s : State) : Option Instr := ctlOf s.iss.words

/-- LOOP and LBRK change the loop level that a qualifier tests. -/
def Instr.changesNest : Instr → Bool
  | .loop .. | .lbrk .. => true
  | _ => false

/-- The qualifier of the issuing bundle lets it execute (R38, R139). A bundle entered behind a LOOP or LBRK that committed has
executed already, whatever level is innermost now (R431). -/
def State.executes (s : State) : Bool :=
  match s.ctlInstr? with
  | some i => (decide (0 < s.ic.entrySlot.val) && Instr.changesNest i)
      || (match i.ctlq with | some q => s.ic.ctl.qualified q.iq | none => true)
  | none => true

/-- The stall count of the issuing bundle (R36). -/
def State.stall (s : State) : Nat := fld (slotWord s.iss.words 0).toNat 0 4

/-! ## Whole-bundle checks and the checks of each slot (R34, R38, R46 to R48, R51, R52) -/

/-- The CTXCLASS condition that follows from the encoding and the context's kind (R17, R142, R146, R293, R348, R371, R387). -/
def State.classFlaw (s : State) (i : Instr) : Bool :=
  let kind := s.ic.ctl.kind
  match i with
  | .swap .. => kind == .secondary
  | .bar .. | .bara .. | .barw .. => !s.inGang
  | .mlat .. => kind != .primary
  | .xpf _ _ a => kind != .primary || (a && !s.timedPrimary s.iss.ctx)
  | i => i.timedStart && !s.timedPrimary s.iss.ctx

/-- The checks of one slot at presenting, in the order of R52; a suppressed bundle is checked for ILLEGAL alone (R38). -/
def State.slotFlaw (s : State) (executes : Bool) (taken : List Dst) (i : Instr) : Option FaultInfo :=
  if i.repeats taken then some { cause := 0x01, detail := 5 }
  else if !executes then none
  else if i.needsSecond && s.ic.ctl.kind != .second then some (privFault 1)
  else if s.classFlaw i then some { cause := 0x04, detail := 0 }
  else none

/-- The first flaw of the slots from `first` on, in ascending order. -/
def State.slotsFlaw (s : State) (executes : Bool) (first : Fin 8) :
    List (Fin 8 × Except Nat (Option Instr)) → List Dst → Option (Fin 8 × FaultInfo)
  | [], _ => none
  | (k, .error d) :: rest, taken =>
    if k < first then s.slotsFlaw executes first rest taken else some (k, { cause := 0x01, detail := d })
  | (_, .ok none) :: rest, taken => s.slotsFlaw executes first rest taken
  | (k, .ok (some i)) :: rest, taken =>
    match (if k < first then none else s.slotFlaw executes taken i) with
    | some f => some (k, f)
    | none => s.slotsFlaw executes first rest (i.dsts ++ taken)

/-- The bundle at the PC is the delay bundle of a taken branch: not the branch bundle itself, re-entered at a later slot (R130,
R132). -/
def State.inDelay (s : State) : Bool :=
  let k := s.ic.ctl
  let branch := (s.ctlInstr?.map Instr.isBranch).getD false
  k.pbv && !k.dly && !(decide (0 < s.ic.entrySlot.val) && branch)

/-- The flaws of the ctl slot that are found before the bundle holds (R131, R144, R153, R154). -/
def State.ctlFlaw (s : State) (i : Instr) : Option FaultInfo :=
  if s.inDelay && i.noDelay then some (ilSeq 1)
  else
    match i with
    | .bar b _ | .bara b _ =>
      (match s.gangOf s.iss.ctx with
       | some g => if s.ic.arrivals[b].arrived && s.ic.arrivals[b].phase == g.barriers[b].phase then some (ilSeq 9) else none
       | none => none)
    | .barw b _ => if s.ic.arrivals[b].arrived then none else some (ilSeq 9)
    | .safe id _ =>
      if !ctlAlone s.iss.words then some (ilSeq 0x0D)
      else (match s.gangOf s.iss.ctx with
        | some g => if (g.kernel.safePoints.any fun p => p.id == id) then none else some (ilSeq 0x0E)
        | none => some (ilSeq 0x0E))
    | _ => none

/-- CHP raises two flaws at once, without holding (R338). -/
def State.chpFlaw (s : State) (i : Instr) : Option FaultInfo :=
  match i with
  | .chp c _ _ =>
    (match s.myChain c with
     | none => some (chainFault 1 c 0xFF)
     | some ch => if ch.frozen then none else some (chainFault 0x0C c 0xFF))
  | _ => none

/-- What stops the bundle of the issue point at presenting, with the slot named (R34, R125, R140, R150); one that the instruction
scratchpad holds with an uncorrectable error is not looked at further (R415; log entry 60). The reserved qualifier and
the port limits are checks of the whole bundle, the qualifier first; the ports of a slot whose own word is malformed do not
count (log entry 101). -/
def State.presentFlaw (s : State) : Option (Fin 8 × FaultInfo) :=
  let x := s.ic
  let core := s.core (coreOf s.iss.ctx)
  let first := x.entrySlot
  if x.ctl.first && x.ctl.kind != .second && !(core.chamber x.ctl.chamberB).valid then some (0, ilSeq 0x0C)
  else if x.ctl.past || (core.bundleAt x.ctl.pc.toNat).isNone then some (0, ilSeq 6)
  else if s.bad.contains (keyCode (coreOf s.iss.ctx) x.ctl.pc.toNat) then
    some (0, s.eccFault (keyCode (coreOf s.iss.ctx) x.ctl.pc.toNat) 0)
  else if fld (slotWord s.iss.words 0).toNat 4 2 = 3 then some (0, { cause := 0x01, detail := 4 })
  else if !portsOk ((s.instrsFrom 0).map (·.2)) then some (0, { cause := 0x01, detail := 6 })
  else
    match s.slotsFlaw s.executes first s.decoded [] with
    | some f => some f
    | none => none

/-- What is found after those checks when the bundle presents for the first time (R131, R144, R153, R154, R338). -/
def State.firstFlaw (s : State) : Option (Fin 8 × FaultInfo) :=
  if !s.executes then none
  else
    ((s.instrsFrom s.ic.entrySlot).filterMap fun k =>
      match (if k.1 = 0 then s.ctlFlaw k.2 else s.chpFlaw k.2) with
      | some f => some (k.1, f)
      | none => none).head?

/-! ## Holds (R125) -/

/-- What the conditions of a hold come to. -/
inductive Ready
  | go
  | wait
  | flaw (slot : Fin 8) (f : FaultInfo)
  deriving DecidableEq, Repr

/-- A bundle that has held for the length that `since` draws may go on: the length of the hold is elastic (R322, R428; log
entry 30). -/
def State.heldFor (s : State) (since : Nat) : Bool := decide (since + Config.latency since ≤ s.tempo)

/-- The wait of a barrier has ended (R144, R145). -/
def State.barrierOpen (s : State) (b : Fin 16) : Bool :=
  match s.gangOf s.iss.ctx with
  | some g => s.ic.arrivals[b].phase != g.barriers[b].phase && decide (g.barriers[b].done + 32 ≤ s.tempo)
  | none => true

/-- The wait of a tag wait has ended, goes on, or cannot end (R147, R148). -/
def State.tagReady (s : State) (all : Bool) (mask : Word) : Ready :=
  if s.ic.tagsMet all mask then .go
  else if s.waitDead s.iss.ctx all mask then .flaw 0 (ilSeq 0x0A)
  else .wait

def readyIf (b : Bool) : Ready := if b then .go else .wait

/-- The record that an XCPR looked up has arrived (R369). -/
def State.recordIn (s : State) : Bool :=
  match s.ic.record with
  | .reading due => decide (due ≤ s.tempo)
  | _ => true

/-- The condition of one slot at the present tempo (R125); `since` is the tempo at which the bundle presented. -/
def State.slotReady (s : State) (since : Nat) (i : Instr) : Ready :=
  let c := s.iss.ctx
  match i with
  | .bar b _ | .barw b _ => readyIf (s.barrierOpen b)
  | .wtany m _ => s.tagReady false (s.waitMask m)
  | .wtall m _ => s.tagReady true (s.waitMask m)
  | .safe _ _ => readyIf (s.quiet c)
  | .ifence _ => readyIf (!s.filling c)
  | .fence sc k => readyIf (s.fenceMet c sc k)
  | .chb _ => readyIf (s.heldFor since)
  | .chp id _ _ => readyIf (match s.myChain id with | some ch => !ch.frozen || s.settled ch | none => true)
  | .mma .. | .mlat .. => readyIf (s.timedPrimary c || decide ((s.core (coreOf c)).arrayWaiting < 8))
  | i =>
    if i.elastic then readyIf ((s.fixedOf c).isSome || decide (s.ic.elasticCount < 128))
    else if i.queues then readyIf ((s.timedPrimary c || decide (s.engineWaiting c < 16)) && s.recordIn)
    else if i.handlerHold then readyIf (s.heldFor since)
    else .go

/-- All conditions together: a wait that cannot end faults, else every one must allow the issue. -/
def Ready.and : Ready → Ready → Ready
  | .flaw k f, _ => .flaw k f
  | _, .flaw k f => .flaw k f
  | .wait, _ => .wait
  | .go, r => r

/-- The conditions of the bundle at the issue point (R125). -/
def State.holdReady (s : State) (since : Nat) : Ready :=
  if !s.executes then .go
  else (s.instrsFrom s.ic.entrySlot).foldl (fun r k => r.and (s.slotReady since k.2)) .go

/-! ## What begins at presenting (R144, R147, R369) -/

/-- The issuing member arrives at barrier b (R144). -/
def State.arriveAt (s : State) (b : Fin 16) : State :=
  match s.gangOf s.iss.ctx with
  | none => s
  | some g =>
    (s.mapCtx s.iss.ctx fun x => { x with arrivals := x.arrivals.set b { arrived := true, phase := g.barriers[b].phase } }).setGang
      g.id (g.arrive b s.tempo)

/-- What the bundle's presenting begins: an arrival, a look at the record cache. -/
def State.beginPresent (s : State) : State :=
  if !s.executes then s
  else
    (s.instrsFrom s.ic.entrySlot).foldl (fun s k =>
      match k.2 with
      | .bar b _ | .bara b _ => s.arriveAt b
      | .xcprGet _ b _ | .xcprPut _ b _ =>
        let ra := s.xs b 0
        if recordNamed ra = false then s else s.lookRecord s.iss.ctx ra
      | _ => s) s

/-- The mask that a tag wait of the bundle reads at presenting (R147). -/
def State.presentMask (s : State) : Option Word :=
  match s.instrsFrom s.ic.entrySlot with
  | (_, .wtany m _) :: _ | (_, .wtall m _) :: _ => some (s.rdS 0 m)
  | _ => none

/-- The record address of the bundle's XCPR. -/
def State.recordAddr (s : State) : Option Word :=
  match (s.instrsFrom s.ic.entrySlot).getLast? with
  | some (_, .xcprGet _ b _) | some (_, .xcprPut _ b _) => some (s.xs b 0)
  | _ => none

/-! ## Held bundles (R125, R127, R369) -/

/-- The context may present now, apart from its tempo and its hold (R127, R416, R423, R436, R448, R457, R521). -/
def State.mayPresent (s : State) (c : CtxId) : Bool :=
  let x := s.ctx c
  x.run == .run && decide (x.present ≤ s.tempo) && !s.heldCtx c && !s.domainHalted c && !s.coreTested (coreOf c)
    && (s.pkg.bstate == 1 || s.pkg.bstate == 2)
    && match s.gangOf c with
       | some g => x.ctl.kind == .second || (!g.waitStart && !(g.switch && g.kernel.tlen.isNone && s.switchable g))
       | none => true

/-- The record of a held XCPR has arrived and has not been taken (R369). -/
def State.recordDue (s : State) (c : CtxId) : Bool :=
  match (s.ctx c).record with
  | .reading due => decide (due ≤ s.tempo)
  | _ => false

/-- HELD_BUNDLE_ISSUE has work: a record arrives, or the conditions have come to hold. -/
def State.heldDue (s : State) (c : CtxId) : Bool :=
  match (s.ctx c).hold with
  | some h => s.mayPresent c && !h.go && (h.met || s.recordDue c)
  | none => false

/-- Take the record that has arrived (R369). -/
def State.takeRecord (s : State) (c : CtxId) : State :=
  if s.recordDue c then
    match (s.atBundle c).recordAddr with
    | some a => s.readRecord c a
    | none => s.mapCtx c fun x => { x with record := .none }
  else s

/-- Change the hold of a context. -/
def State.mapHold (s : State) (c : CtxId) (f : Hold → Hold) : State :=
  s.mapCtx c fun x => { x with hold := x.hold.map f }

/-- HELD_BUNDLE_ISSUE: the conditions of a held bundle came to hold before this tempo; it issues now, waits on, or faults where
its tag wait can no longer end (R125, R127, R148). Each tempo of a hold ends with the test of its conditions, and a tag wait found dead
there faults at the next tempo (DESIGN CHOICE, log entry 131). -/
def execHeldBundleIssue (c : CtxId) (s : State) : Host.Outcome State Fault Refusal :=
  .next (
    if !s.heldDue c then s
    else
      let s1 := s.takeRecord c
      match (s1.ctx c).hold with
      | none => s1
      | some h =>
        if !h.met then s1
        else
          match (s1.atBundle c).holdReady h.since with
          | .go => s1.mapHold c fun q => { q with go := true }
          | .wait => s1.mapHold c fun q => { q with met := false }
          | .flaw k f =>
            let s2 := s1.atBundle c
            State.faultPresenting { s2 with iss := { s2.iss with slot := k } } f)

/-! ## Branch targets (R130, R132) -/

/-- The target of a taken branch presents: its delay bundle has issued, and its drain, if it asked for one, has ended. -/
def State.targetDue (s : State) (c : CtxId) : Bool :=
  let k := (s.ctx c).ctl
  s.mayPresent c && k.pbv && k.dly && (!k.pbd || s.resultsLanded c)

/-- BRANCH_TARGET_PRESENT (R130, R132). -/
def execBranchTargetPresent (c : CtxId) (s : State) : Host.Outcome State Fault Refusal :=
  .next (
    if !s.targetDue c then s
    else s.mapCtx c fun x =>
      { x with
        present := s.tempo
        ctl := { x.ctl with pc := x.ctl.pbt, pbv := false, pbd := false, pbt := 0, dly := false, past := false } })

end Sys2Proof.Machine
end

