-- ==== Sys2Proof/Machine/VectorFn.lean ====
section
/-! DEFINITION. Special functions, defined approximations and keyed draws of the vector slots (10 R275 to R291). -/

namespace Sys2Proof.Machine

/-- A function of one FP32 element (R276, R277). -/
def State.fn1 (s : State) (i : Instr) (lat : Nat) (d a : VReg) (m : Fin 8) (f : SatMode → Nat → Nat × Nat) :
    Host.Outcome State Fault Refusal :=
  s.vecForm i lat [] fun s => s.vec1 lat d a m .fp32 (f s.iss.sat)

/-- A correctly rounded function of an exact value (R277, R278). -/
def exactFn (f : FVal → FVal × Nat) (sat : SatMode) (x : Nat) : Nat × Nat :=
  floatOut .fp32 sat (f (FloatFmt.fp32.decode x))

def execVrcp (d a : VReg) (m : Fin 8) (s : State) : Host.Outcome State Fault Refusal :=
  s.fn1 (.vrcp d a m) 12 d a m (exactFn fun x => fDiv (.fin false 1 0) x)
def execVrsq (d a : VReg) (m : Fin 8) (s : State) : Host.Outcome State Fault Refusal :=
  s.fn1 (.vrsq d a m) 12 d a m (exactFn fRsqrt)
def execVsqrt (d a : VReg) (m : Fin 8) (s : State) : Host.Outcome State Fault Refusal :=
  s.fn1 (.vsqrt d a m) 12 d a m (exactFn fSqrt)
def execVdiv (d a b : VReg) (m : Fin 8) (s : State) : Host.Outcome State Fault Refusal :=
  s.vecForm (.vdiv d a b m) 12 [] fun s =>
    s.vec2 12 d a b m .fp32 fun x y =>
      floatOut .fp32 s.iss.sat (fDiv (FloatFmt.fp32.decode x) (FloatFmt.fp32.decode y))
def execVexp2 (d a : VReg) (m : Fin 8) (s : State) : Host.Outcome State Fault Refusal :=
  s.fn1 (.vexp2 d a m) 12 d a m (exactFn fExp2)
def execVlog2 (d a : VReg) (m : Fin 8) (s : State) : Host.Outcome State Fault Refusal :=
  s.fn1 (.vlog2 d a m) 12 d a m (exactFn fLog2)
def execVrcpa (d a : VReg) (m : Fin 8) (s : State) : Host.Outcome State Fault Refusal :=
  s.fn1 (.vrcpa d a m) 6 d a m apRcp
def execVrsqa (d a : VReg) (m : Fin 8) (s : State) : Host.Outcome State Fault Refusal :=
  s.fn1 (.vrsqa d a m) 6 d a m apRsq
def execVexpa (d a : VReg) (m : Fin 8) (s : State) : Host.Outcome State Fault Refusal :=
  s.fn1 (.vexpa d a m) 6 d a m apExp

/-! ## Draws (R284, R285) -/

/-- Constant D of R284. -/
def drawD : Word := 0x5B1FD38A72C4E6A1

/-- One round of the draw generator. -/
def drawRound (k : Word) (r : Nat) (mul : Word) (sh : Nat) (x : Word) : Word :=
  let y := (x ^^^ (k + BitVec.ofNat 64 r * drawD)) * mul
  y ^^^ (y >>> sh)

/-- draw(k, c) of R284. -/
def draw (k c : Word) : Nat :=
  let x0 := drawRound k 0 0xC3A56F2B9E174D8B 29 c
  let x1 := drawRound k 1 0x8F4D21E7B359A6C5 31 x0
  let x2 := drawRound k 2 0xE29B75D30C48F16F 27 x1
  let x3 := drawRound k 3 0xA7C138F95D62E0B3 33 x2
  let x4 := drawRound k 4 0xF15E9A4C2B873D29 30 x3
  (drawRound k 5 0xB86D04A3E9F57C17 32 x4).toNat / 2 ^ 32

/-- VDRAW: the counter of element j comes from the pair a, a+1 (R285). -/
def execVdraw (d a : VReg) (s1 : SReg) (m : Fin 8) (s : State) : Host.Outcome State Fault Refusal :=
  s.vecForm (.vdraw d a s1 m) 6 [] fun s =>
    let regs := (groupRegs a 2).zipIdx.map fun (r, i) => s.rdV i 32 r
    let lo := (regs.getD 0 0).toNat
    let hi := (regs.getD 1 0).toNat
    let key := s.rdS 2 s1
    s.land 6 (.v [(d, BitVec.ofNat 4096 (lanes (fun j =>
      if (s.rdP 3 m).getLsbD j then draw key (BitVec.ofNat 64 (lane lo 32 j + 2 ^ 32 * lane hi 32 j)) else 0)
      32 7 0))] s.vProd)

end Sys2Proof.Machine
end

