-- ==== Sys2Proof/Machine/Dispatch.lean ====
section
/-! DEFINITION. One arm for each operation: a direct call of its meaning. -/

namespace Sys2Proof.Machine

/-- The effect of an operation: slot instructions act on the bundle at the issue point, events on what they name. -/
def exec (i : Instr) (s : State) : Host.Outcome State Fault Refusal :=
  match i with
  | .nop q => Sys2Proof.Machine.execNop q s
  | .br cond ifz off d q => Sys2Proof.Machine.execBr cond ifz off d q s
  | .brp m ifnone esz off d q => Sys2Proof.Machine.execBrp m ifnone esz off d q s
  | .jmp target d q => Sys2Proof.Machine.execJmp target d q s
  | .call target d q => Sys2Proof.Machine.execCall target d q s
  | .ret d q => Sys2Proof.Machine.execRet d q s
  | .swap d q => Sys2Proof.Machine.execSwap d q s
  | .lset n q => Sys2Proof.Machine.execLset n q s
  | .loop n b q => Sys2Proof.Machine.execLoop n b q s
  | .lbrk n q => Sys2Proof.Machine.execLbrk n q s
  | .pfx rm sat q => Sys2Proof.Machine.execPfx rm sat q s
  | .bar b q => Sys2Proof.Machine.execBar b q s
  | .bara b q => Sys2Proof.Machine.execBara b q s
  | .barw b q => Sys2Proof.Machine.execBarw b q s
  | .wtany mask q => Sys2Proof.Machine.execWtany mask q s
  | .wtall mask q => Sys2Proof.Machine.execWtall mask q s
  | .tend q => Sys2Proof.Machine.execTend q s
  | .safe id q => Sys2Proof.Machine.execSafe id q s
  | .ifence q => Sys2Proof.Machine.execIfence q s
  | .trap code q => Sys2Proof.Machine.execTrap code q s
  | .brk code q => Sys2Proof.Machine.execBrk code q s
  | .add d a b => Sys2Proof.Machine.execAdd d a b s
  | .sub d a b => Sys2Proof.Machine.execSub d a b s
  | .and d a b => Sys2Proof.Machine.execAnd d a b s
  | .or d a b => Sys2Proof.Machine.execOr d a b s
  | .xor d a b => Sys2Proof.Machine.execXor d a b s
  | .andn d a b => Sys2Proof.Machine.execAndn d a b s
  | .shl d a b => Sys2Proof.Machine.execShl d a b s
  | .shr d a b => Sys2Proof.Machine.execShr d a b s
  | .sar d a b => Sys2Proof.Machine.execSar d a b s
  | .rotl d a b => Sys2Proof.Machine.execRotl d a b s
  | .min d a b => Sys2Proof.Machine.execMin d a b s
  | .max d a b => Sys2Proof.Machine.execMax d a b s
  | .minu d a b => Sys2Proof.Machine.execMinu d a b s
  | .maxu d a b => Sys2Proof.Machine.execMaxu d a b s
  | .seq d a b => Sys2Proof.Machine.execSeq d a b s
  | .sne d a b => Sys2Proof.Machine.execSne d a b s
  | .slt d a b => Sys2Proof.Machine.execSlt d a b s
  | .sltu d a b => Sys2Proof.Machine.execSltu d a b s
  | .sle d a b => Sys2Proof.Machine.execSle d a b s
  | .clz d a => Sys2Proof.Machine.execClz d a s
  | .ctz d a => Sys2Proof.Machine.execCtz d a s
  | .popc d a => Sys2Proof.Machine.execPopc d a s
  | .movo d a => Sys2Proof.Machine.execMovo d a s
  | .ffrdy d a => Sys2Proof.Machine.execFfrdy d a s
  | .mul d a b => Sys2Proof.Machine.execMul d a b s
  | .mulh d a b => Sys2Proof.Machine.execMulh d a b s
  | .mulhu d a b => Sys2Proof.Machine.execMulhu d a b s
  | .divu d a b => Sys2Proof.Machine.execDivu d a b s
  | .remu d a b => Sys2Proof.Machine.execRemu d a b s
  | .sel d a b c => Sys2Proof.Machine.execSel d a b c s
  | .addsc d a b sh => Sys2Proof.Machine.execAddsc d a b sh s
  | .addi d a imm => Sys2Proof.Machine.execAddi d a imm s
  | .andImm d a imm => Sys2Proof.Machine.execAndImm d a imm s
  | .orImm d a imm => Sys2Proof.Machine.execOrImm d a imm s
  | .xorImm d a imm => Sys2Proof.Machine.execXorImm d a imm s
  | .andnImm d a imm => Sys2Proof.Machine.execAndnImm d a imm s
  | .shlImm d a n => Sys2Proof.Machine.execShlImm d a n s
  | .shrImm d a n => Sys2Proof.Machine.execShrImm d a n s
  | .sarImm d a n => Sys2Proof.Machine.execSarImm d a n s
  | .rotlImm d a n => Sys2Proof.Machine.execRotlImm d a n s
  | .li d imm => Sys2Proof.Machine.execLi d imm s
  | .lui d q imm => Sys2Proof.Machine.execLui d q imm s
  | .bext d a pos lenM1 => Sys2Proof.Machine.execBext d a pos lenM1 s
  | .bins d a pos lenM1 => Sys2Proof.Machine.execBins d a pos lenM1 s
  | .movs d r => Sys2Proof.Machine.execMovs d r s
  | .movt s1 r => Sys2Proof.Machine.execMovt s1 r s
  | .stg a g => Sys2Proof.Machine.execStg a g s
  | .frd d h sel => Sys2Proof.Machine.execFrd d h sel s
  | .fwr s1 h sel => Sys2Proof.Machine.execFwr s1 h sel s
  | .fres h => Sys2Proof.Machine.execFres h s
  | .fresPc s1 h => Sys2Proof.Machine.execFresPc s1 h s
  | .fkill s1 h => Sys2Proof.Machine.execFkill s1 h s
  | .fpassSup s1 h => Sys2Proof.Machine.execFpassSup s1 h s
  | .fpassHost s1 h => Sys2Proof.Machine.execFpassHost s1 h s
  | .fstat d h => Sys2Proof.Machine.execFstat d h s
  | .hmov hd hs => Sys2Proof.Machine.execHmov hd hs s
  | .hmovMove hd hs => Sys2Proof.Machine.execHmovMove hd hs s
  | .hmovClear hd => Sys2Proof.Machine.execHmovClear hd s
  | .tlbiAll s1 sc => Sys2Proof.Machine.execTlbiAll s1 sc s
  | .tlbiAsid s1 sc => Sys2Proof.Machine.execTlbiAsid s1 sc s
  | .tlbiPage s1 sc => Sys2Proof.Machine.execTlbiPage s1 sc s
  | .ld v base z x off => Sys2Proof.Machine.execLd v base z x off s
  | .st v base z off => Sys2Proof.Machine.execSt v base z off s
  | .lde v base z x t => Sys2Proof.Machine.execLde v base z x t s
  | .ste v base z t => Sys2Proof.Machine.execSte v base z t s
  | .vld v base off => Sys2Proof.Machine.execVld v base off s
  | .vst v base m e off => Sys2Proof.Machine.execVst v base m e off s
  | .vgth v base ix m e => Sys2Proof.Machine.execVgth v base ix m e s
  | .vsct v base ix m e => Sys2Proof.Machine.execVsct v base ix m e s
  | .aadd d base val ty => Sys2Proof.Machine.execAadd d base val ty s
  | .amin d base val ty => Sys2Proof.Machine.execAmin d base val ty s
  | .amax d base val ty => Sys2Proof.Machine.execAmax d base val ty s
  | .axch d base val ty => Sys2Proof.Machine.execAxch d base val ty s
  | .aand d base val ty => Sys2Proof.Machine.execAand d base val ty s
  | .aor d base val ty => Sys2Proof.Machine.execAor d base val ty s
  | .acas d base val ty => Sys2Proof.Machine.execAcas d base val ty s
  | .aaddE d base val t ty => Sys2Proof.Machine.execAaddE d base val t ty s
  | .aminE d base val t ty => Sys2Proof.Machine.execAminE d base val t ty s
  | .amaxE d base val t ty => Sys2Proof.Machine.execAmaxE d base val t ty s
  | .axchE d base val t ty => Sys2Proof.Machine.execAxchE d base val t ty s
  | .aandE d base val t ty => Sys2Proof.Machine.execAandE d base val t ty s
  | .aorE d base val t ty => Sys2Proof.Machine.execAorE d base val t ty s
  | .acasE d base val t ty => Sys2Proof.Machine.execAcasE d base val t ty s
  | .aord seq base val t fl => Sys2Proof.Machine.execAord seq base val t fl s
  | .fence sc k => Sys2Proof.Machine.execFence sc k s
  | .tagr s1 base off => Sys2Proof.Machine.execTagr s1 base off s
  | .tagw s1 base off => Sys2Proof.Machine.execTagw s1 base off s
  | .vadd d a b m t => Sys2Proof.Machine.execVadd d a b m t s
  | .vsub d a b m t => Sys2Proof.Machine.execVsub d a b m t s
  | .vmul d a b m t => Sys2Proof.Machine.execVmul d a b m t s
  | .vfma d a b m t => Sys2Proof.Machine.execVfma d a b m t s
  | .vfms d a b m t => Sys2Proof.Machine.execVfms d a b m t s
  | .vfnma d a b m t => Sys2Proof.Machine.execVfnma d a b m t s
  | .vmin d a b m t => Sys2Proof.Machine.execVmin d a b m t s
  | .vmax d a b m t => Sys2Proof.Machine.execVmax d a b m t s
  | .vabs d a m t => Sys2Proof.Machine.execVabs d a m t s
  | .vneg d a m t => Sys2Proof.Machine.execVneg d a m t s
  | .vand d a b m t => Sys2Proof.Machine.execVand d a b m t s
  | .vor d a b m t => Sys2Proof.Machine.execVor d a b m t s
  | .vxor d a b m t => Sys2Proof.Machine.execVxor d a b m t s
  | .vshl d a b m t => Sys2Proof.Machine.execVshl d a b m t s
  | .vshr d a b m t => Sys2Proof.Machine.execVshr d a b m t s
  | .vsar d a b m t => Sys2Proof.Machine.execVsar d a b m t s
  | .vaddw d a b m t => Sys2Proof.Machine.execVaddw d a b m t s
  | .vmulw d a b m t => Sys2Proof.Machine.execVmulw d a b m t s
  | .vdot4 d a b m t => Sys2Proof.Machine.execVdot4 d a b m t s
  | .vcmp c p a b m t => Sys2Proof.Machine.execVcmp c p a b m t s
  | .vsel d a b m t => Sys2Proof.Machine.execVsel d a b m t s
  | .vmov d a m t => Sys2Proof.Machine.execVmov d a m t s
  | .vbcst d s1 m t => Sys2Proof.Machine.execVbcst d s1 m t s
  | .vperm d a b m t => Sys2Proof.Machine.execVperm d a b m t s
  | .vshuf d a p m t => Sys2Proof.Machine.execVshuf d a p m t s
  | .vrot d a s1 m t => Sys2Proof.Machine.execVrot d a s1 m t s
  | .vred d a o m t => Sys2Proof.Machine.execVred d a o m t s
  | .vscan d a o m t => Sys2Proof.Machine.execVscan d a o m t s
  | .vcvt d a st m dt => Sys2Proof.Machine.execVcvt d a st m dt s
  | .vpack d a st m dt => Sys2Proof.Machine.execVpack d a st m dt s
  | .vunpk d a st m dt => Sys2Proof.Machine.execVunpk d a st m dt s
  | .vpln d a pM1 m t => Sys2Proof.Machine.execVpln d a pM1 m t s
  | .vunpl d a pM1 m t => Sys2Proof.Machine.execVunpl d a pM1 m t s
  | .vrcp d a m => Sys2Proof.Machine.execVrcp d a m s
  | .vrsq d a m => Sys2Proof.Machine.execVrsq d a m s
  | .vsqrt d a m => Sys2Proof.Machine.execVsqrt d a m s
  | .vdiv d a b m => Sys2Proof.Machine.execVdiv d a b m s
  | .vexp2 d a m => Sys2Proof.Machine.execVexp2 d a m s
  | .vlog2 d a m => Sys2Proof.Machine.execVlog2 d a m s
  | .vrcpa d a m => Sys2Proof.Machine.execVrcpa d a m s
  | .vrsqa d a m => Sys2Proof.Machine.execVrsqa d a m s
  | .vexpa d a m => Sys2Proof.Machine.execVexpa d a m s
  | .vdraw d a s1 m => Sys2Proof.Machine.execVdraw d a s1 m s
  | .vamax a m t => Sys2Proof.Machine.execVamax a m t s
  | .pand pd pa pb => Sys2Proof.Machine.execPand pd pa pb s
  | .por pd pa pb => Sys2Proof.Machine.execPor pd pa pb s
  | .pxor pd pa pb => Sys2Proof.Machine.execPxor pd pa pb s
  | .pnot pd pa => Sys2Proof.Machine.execPnot pd pa s
  | .pcnt d pa t => Sys2Proof.Machine.execPcnt d pa t s
  | .mma c l g o at1 => Sys2Proof.Machine.execMma c l g o at1 s
  | .mlat g => Sys2Proof.Machine.execMlat g s
  | .mfmt a => Sys2Proof.Machine.execMfmt a s
  | .chb s1 => Sys2Proof.Machine.execChb s1 s
  | .chc c s1 t => Sys2Proof.Machine.execChc c s1 t s
  | .chs c s1 t => Sys2Proof.Machine.execChs c s1 t s
  | .chp c l s1 => Sys2Proof.Machine.execChp c l s1 s
  | .chr c l => Sys2Proof.Machine.execChr c l s
  | .chf c => Sys2Proof.Machine.execChf c s
  | .chfAbort c => Sys2Proof.Machine.execChfAbort c s
  | .lkr v k row => Sys2Proof.Machine.execLkr v k row s
  | .lkw v k row => Sys2Proof.Machine.execLkw v k row s
  | .lkz k => Sys2Proof.Machine.execLkz k s
  | .xcp t b ndimM1 sm dm at1 => Sys2Proof.Machine.execXcp t b ndimM1 sm dm at1 s
  | .xcnvPl t b at1 => Sys2Proof.Machine.execXcnvPl t b at1 s
  | .xcnvFl t b at1 => Sys2Proof.Machine.execXcnvFl t b at1 s
  | .xcprGet t b at1 => Sys2Proof.Machine.execXcprGet t b at1 s
  | .xcprPut t b at1 => Sys2Proof.Machine.execXcprPut t b at1 s
  | .rfen => Sys2Proof.Machine.execRfen s
  | .xpf t b at1 => Sys2Proof.Machine.execXpf t b at1 s
  | .xrte t b at1 => Sys2Proof.Machine.execXrte t b at1 s
  | .xcan t => Sys2Proof.Machine.execXcan t s
  | .xsnd t b => Sys2Proof.Machine.execXsnd t b s
  | .xrcv t b => Sys2Proof.Machine.execXrcv t b s
  | .xwr t b mem at1 => Sys2Proof.Machine.execXwr t b mem at1 s
  | .xrd t b mem at1 => Sys2Proof.Machine.execXrd t b mem at1 s
  | .xatm t b mem at1 => Sys2Proof.Machine.execXatm t b mem at1 s
  | .heldBundleIssue c => Sys2Proof.Machine.execHeldBundleIssue c s
  | .branchTargetPresent c => Sys2Proof.Machine.execBranchTargetPresent c s
  | .resultLanding c => Sys2Proof.Machine.execResultLanding c s
  | .elasticAccessComplete c n lost => Sys2Proof.Machine.execElasticAccessComplete c n lost s
  | .orderedAtomicArrival c n => Sys2Proof.Machine.execOrderedAtomicArrival c n s
  | .deferredCondition c => Sys2Proof.Machine.execDeferredCondition c s
  | .targetedSelfTest place c u r => Sys2Proof.Machine.execTargetedSelfTest place c u r s
  | .secondSpawn c => Sys2Proof.Machine.execSecondSpawn c s
  | .gangHoldEnd g => Sys2Proof.Machine.execGangHoldEnd g s
  | .contextResume c => Sys2Proof.Machine.execContextResume c s
  | .barrierRelease g b => Sys2Proof.Machine.execBarrierRelease g b s
  | .taskLengthExpiry c => Sys2Proof.Machine.execTaskLengthExpiry c s
  | .taskDrainEnd c => Sys2Proof.Machine.execTaskDrainEnd c s
  | .completionMsix r => Sys2Proof.Machine.execCompletionMsix r s
  | .enqueue f page off posted pasid len data => Sys2Proof.Machine.execEnqueue f page off posted pasid len data s
  | .recordAdmit q => Sys2Proof.Machine.execRecordAdmit q s
  | .gangStart r => Sys2Proof.Machine.execGangStart r s
  | .sliceEnd g => Sys2Proof.Machine.execSliceEnd g s
  | .switchOut g => Sys2Proof.Machine.execSwitchOut g s
  | .switchIn r => Sys2Proof.Machine.execSwitchIn r s
  | .replacementPost q addr => Sys2Proof.Machine.execReplacementPost q addr s
  | .replacementLayerStep q => Sys2Proof.Machine.execReplacementLayerStep q s
  | .flagTimePost p block => Sys2Proof.Machine.execFlagTimePost p block s
  | .evictionRedecide p => Sys2Proof.Machine.execEvictionRedecide p s
  | .lastResortResign p => Sys2Proof.Machine.execLastResortResign p s
  | .adjournComplete g => Sys2Proof.Machine.execAdjournComplete g s
  | .adjournResume r => Sys2Proof.Machine.execAdjournResume r s
  | .vacancyReceipt p => Sys2Proof.Machine.execVacancyReceipt p s
  | .ftclr p => Sys2Proof.Machine.execFtclr p s
  | .throttleChange tj pwr remote => Sys2Proof.Machine.execThrottleChange tj pwr remote s
  | .demandWithdrawal src => Sys2Proof.Machine.execDemandWithdrawal src s
  | .thermalTrip => Sys2Proof.Machine.execThermalTrip s
  | .ptmSample ts => Sys2Proof.Machine.execPtmSample ts s
  | .packageReset sigOk => Sys2Proof.Machine.execPackageReset sigOk s
  | .trainingComplete dies stk bridges => Sys2Proof.Machine.execTrainingComplete dies stk bridges s
  | .bgo v => Sys2Proof.Machine.execBgo v s
  | .segmentDead d desc => Sys2Proof.Machine.execSegmentDead d desc s
  | .segmentDrainEnd d desc r => Sys2Proof.Machine.execSegmentDrainEnd d desc r s
  | .packetInject n => Sys2Proof.Machine.execPacketInject n s
  | .packetReceive n crcOk room => Sys2Proof.Machine.execPacketReceive n crcOk room s
  | .requestRetry n => Sys2Proof.Machine.execRequestRetry n s
  | .timedSlotSend c t => Sys2Proof.Machine.execTimedSlotSend c t s
  | .timedSlotDeliver g e => Sys2Proof.Machine.execTimedSlotDeliver g e s
  | .holdBufferRelease g => Sys2Proof.Machine.execHoldBufferRelease g s
  | .arrayCommandStart core => Sys2Proof.Machine.execArrayCommandStart core s
  | .mlatLoadEnd core => Sys2Proof.Machine.execMlatLoadEnd core s
  | .mmaLanding core => Sys2Proof.Machine.execMmaLanding core s
  | .linkFault ch l reason => Sys2Proof.Machine.execLinkFault ch l reason s
  | .closeStart ch => Sys2Proof.Machine.execCloseStart ch s
  | .closeComplete ch => Sys2Proof.Machine.execCloseComplete ch s
  | .engineCommandStart c t => Sys2Proof.Machine.execEngineCommandStart c t s
  | .engineCommandEnd c t lost => Sys2Proof.Machine.execEngineCommandEnd c t lost s
  | .wsweepDone p => Sys2Proof.Machine.execWsweepDone p s
  | .tlbhDone p => Sys2Proof.Machine.execTlbhDone p s
  | .scrubReceipt p => Sys2Proof.Machine.execScrubReceipt p s
  | .keraseComplete id => Sys2Proof.Machine.execKeraseComplete id s
  | .fixedStorePerform c => Sys2Proof.Machine.execFixedStorePerform c s
  | .hbmPatrolError die row r => Sys2Proof.Machine.execHbmPatrolError die row r s
  | .registerWrite off v => Sys2Proof.Machine.execRegisterWrite off v s
  | .partitionConfigWrite p f v => Sys2Proof.Machine.execPartitionConfigWrite p f v s
  | .pasidtNWrite p v => Sys2Proof.Machine.execPasidtNWrite p v s
  | .pwayWrite p v => Sys2Proof.Machine.execPwayWrite p v s
  | .wsweep p v => Sys2Proof.Machine.execWsweep p v s
  | .spbWrite p v => Sys2Proof.Machine.execSpbWrite p v s
  | .functionLevelReset f => Sys2Proof.Machine.execFunctionLevelReset f s
  | .partitionReset p v => Sys2Proof.Machine.execPartitionReset p v s
  | .hactResume p => Sys2Proof.Machine.execHactResume p s
  | .hactKill p => Sys2Proof.Machine.execHactKill p s
  | .hactPass p => Sys2Proof.Machine.execHactPass p s
  | .drel p rcb => Sys2Proof.Machine.execDrel p rcb s
  | .tlbh p v => Sys2Proof.Machine.execTlbh p v s
  | .memoryWindowAccess off wr len => Sys2Proof.Machine.execMemoryWindowAccess off wr len s
  | .scrubRequest req => Sys2Proof.Machine.execScrubRequest req s
  | .kimp blob => Sys2Proof.Machine.execKimp blob s
  | .kerase id => Sys2Proof.Machine.execKerase id s
  | .attest nonce => Sys2Proof.Machine.execAttest nonce s
  | .lflush p => Sys2Proof.Machine.execLflush p s
  | .monitorWrite p n w1 v => Sys2Proof.Machine.execMonitorWrite p n w1 v s
  | .mctpMessage m => Sys2Proof.Machine.execMctpMessage m s
  | .hostLinkDown => Sys2Proof.Machine.execHostLinkDown s
  | .hostLinkUp => Sys2Proof.Machine.execHostLinkUp s

end Sys2Proof.Machine
end

