-- ==== Sys2Proof/Machine/Issue.lean ====
section
/-! DEFINITION. What a step does: a bundle that presents and issues (02 R34 to R38, R48 to R52, 05 R125 to R143, 16 R453), the events
of the part that are due, and the end of a tempo. -/

namespace Sys2Proof.Machine

/-! ## The issue of a bundle -/

/-- The engines that the issuing bundle occupies from its entry slot on; a suppressed one occupies none (R33, R453). -/
def State.occupied (s : State) : BitVec 8 :=
  if !s.executes then 0
  else
    (List.finRange 8).foldl (fun w k =>
      if major (slotWord s.iss.words k).toNat ≠ 0 ∧ s.ic.entrySlot ≤ k then w ||| BitVec.ofNat 8 (2 ^ k.val) else w) 0

/-- The bundle of a secondary context collides with the primary bundle of this tempo (R126, R453). -/
def State.collides (s : State) : Bool :=
  let used := (s.core (coreOf s.iss.ctx)).used
  isSec s.iss.ctx && used.1 == s.tempo && used.2 &&& s.occupied != 0

/-- The slot at the issue point has raised SCORE. -/
def State.raisedScore (s : State) : Bool :=
  s.iss.stop && match s.ic.frz with | some f => f.cause == 0x21 | none => false

/-- Run the instruction of a slot; one that reads a register with an uncorrectable error takes ECC before it commits, behind SCORE and before
the faults of its own operation (R52, R415, R522; log entry 60). -/
def runSlot (k : Fin 8) (i : Instr) (s : State) : Host.Outcome State Fault Refusal :=
  let s1 : State := { s with iss := { s.iss with slot := k } }
  match s1.regBad i, exec i s1 with
  | none, o => o
  | some b, o =>
    match o with
    | .next t => if t.raisedScore then .next t else .next ((s1.healed b).fault (s1.eccFault b 0))
    | o => o

/-- Run the slots of a bundle in ascending order until one faults (R34). -/
def runSlots : List (Fin 8 × Instr) → State → Host.Outcome State Fault Refusal
  | [], s => .next s
  | (k, i) :: rest, s =>
    if s.iss.stop then .next s
    else
      match runSlot k i s with
      | .next t => runSlots rest t
      | o => o

/-- Kept last-result landings enter their way at the distance they had (R407). -/
def Ctx.takeRelast (x : Ctx) (now : Nat) : Ctx :=
  { x with
    pend := x.relast.map (fun l => { l.2 with due := now + l.1 }) ++ x.pend
    relast := [] }

/-- The index after an issued bundle, and the control state that goes with it (R130, R132, R135, R137). `delay` tells that the
bundle was the delay bundle of a taken branch, `skip` the index where a LOOP skips its body. -/
def Ctl.advance (k : Ctl) (delay : Bool) (skip : Option Nat) : Ctl :=
  let p := k.pc.toNat
  let seq (n : Nat) (k : Ctl) : Ctl :=
    { k with pc := BitVec.ofNat 14 n, past := decide (regionOf n ≠ regionOf p) }
  if delay then { k with dly := true, pc := k.pbt }
  else if k.pbv then seq (p + 1) k
  else
    match skip with
    | some n => seq n k
    | none =>
      let r := Ctl.bodyEnd p k.nest k
      seq r.1 r.2

/-- The end of an issued bundle: it has counted, the next one's place and tempo are known (R37, R108, R149, R407). -/
def State.finishBundle (s : State) (delay : Bool) (stall : Nat) : State :=
  s.mapCtx s.iss.ctx fun x =>
    let y := countNfmt s.iss.nfmtOld x
    let ctl := if y.run = .drain then y.ctl else y.ctl.advance delay s.iss.next
    { y with
      counted := false, hold := none, record := .none, present := s.tempo + 1 + stall
      ctl := { ctl with srv := false, sres := 0, first := false } }

/-- What the committed ctl slot of a bundle that is entered behind it still asks for: the modes of a PFX, the skip of a LOOP whose
count is 0, the drain of a TEND (R99, R135, R143, R149, R431). -/
def State.resumeCtl (s : State) : State :=
  if s.ic.entrySlot = 0 ∨ s.executes = false then s
  else
    match s.ctlInstr? with
    | some (.pfx rm sat _) => { s with iss := { s.iss with rm := rm, sat := sat } }
    | some (.loop n b _) =>
      if s.ic.ctl.loops[n].st = .idle then { s with iss := { s.iss with next := some (s.iss.pc.toNat + b.toNat + 1) } } else s
    | some (.tend _) => s.mapCtx s.iss.ctx fun x => { x with run := .drain }
    | _ => s

/-- The chamber from which a bundle issues becomes the active one (R71, R133). While a branch is pending, that of a SWAP stays, which
made the other chamber active when it committed (R142; log entry 102). -/
def Ctl.issueFrom (k : Ctl) (p : Nat) : Ctl :=
  if k.pbv || decide (2 ≤ regionOf p) then k else { k with chamberB := regionOf p == 1 }

/-- The bundle at the issue point issues: its slots run, unless its qualifier suppresses it, and the next bundle's place follows
(R34, R38). -/
def State.issueBundle (s : State) : Host.Outcome State Fault Refusal :=
  let c := s.iss.ctx
  let delay := s.inDelay
  let stall := s.stall
  let s1 := if isSec c then s else s.mapCore (coreOf c) fun k => { k with used := (s.tempo, s.occupied) }
  let s2 := (s1.mapCtx c fun x =>
    { x.takeRelast s.tempo with ctl := x.ctl.issueFrom s.iss.pc.toNat }).resumeCtl
  let s3 : State := { s2 with iss := { s2.iss with before := some s2.ic.ctl } }
  match runSlots (if s.executes then s.instrsFrom s.ic.entrySlot else []) s3 with
  | .next t => .next (if t.iss.stop then t.drawn else (t.finishBundle delay stall).drawn)
  | o => o

/-- A bundle that the merge stage turns away presents again on the next tempo (R453). -/
def State.turnAway (s : State) (mask : Option Word) : State :=
  s.mapCtx s.iss.ctx fun x =>
    { x with
      present := s.tempo + 1
      hold := some (match x.hold with
        | some h => { h with met := true, go := true }
        | none => { since := s.tempo, met := true, go := true, mask := mask, rest := true }) }

/-- The conditions of the bundle at the issue point, that of a barrier apart. -/
def State.restReady (s : State) (since : Nat) : Bool :=
  !s.executes || (s.instrsFrom s.ic.entrySlot).all fun k =>
    match k.2 with
    | .bar .. | .barw .. => true
    | i => s.slotReady since i == .go

/-- The bundle at the issue point, with what its conditions come to: it issues, holds, faults, or is turned away (R125, R453). -/
def State.passHold (s : State) (since : Nat) : Host.Outcome State Fault Refusal :=
  match s.holdReady since with
  | .flaw k f => .next (State.faultPresenting { s with iss := { s.iss with slot := k } } f)
  | .wait =>
    .next (s.mapCtx s.iss.ctx fun x =>
      { x with hold := some (match x.hold with
        | some h => { h with met := false, go := false }
        | none => { since := since, met := false, go := false, mask := s.presentMask, rest := false }) })
  | .go => if s.collides then .next (s.turnAway s.presentMask) else s.issueBundle

/-- The bundle at the PC of context c presents (R34, R125). -/
def State.presentBundle (s : State) (c : CtxId) : Host.Outcome State Fault Refusal :=
  let s0 := s.atBundle c
  match s0.presentFlaw with
  | some (k, f) =>
    let s1 : State := { s0 with iss := { s0.iss with slot := k } }
    .next (State.faultPresenting (match f.place with | some b => s1.healed b | none => s1) f)
  | none =>
    match (s.ctx c).hold with
    | some h => s0.passHold h.since
    | none =>
      match s0.firstFlaw with
      | some (k, f) => .next (State.faultPresenting { s0 with iss := { s0.iss with slot := k } } f)
      | none => s0.beginPresent.passHold s.tempo

/-! ## What is due -/

/-- The contexts, cores, gangs, partitions and queues that hold anything. -/
def State.ctxIds (s : State) : List CtxId := s.ctxs.map fun k => Fin.ofNat 512 k.1
def State.coreIds (s : State) : List CoreId := s.cores.map fun k => Fin.ofNat 256 k.1
def State.gangList (s : State) : List Gang := (s.gangs.map (·.2)).filter fun g => g.alive != 0
def State.partIds (s : State) : List PartId := s.parts.map fun k => Fin.ofNat 32 k.1

/-- Of contexts that do the same in one tempo, members of one gang come in ascending LIDX (R410). -/
def State.pickCtx (s : State) : List CtxId → Option CtxId
  | [] => none
  | c :: rest =>
    some (rest.foldl (fun best d =>
      if (s.ctx best).gang.isSome && (s.ctx d).gang == (s.ctx best).gang && (s.ctx best).ctl.kind != .second
          && (s.ctx d).ctl.kind != .second && decide ((s.ctx d).spr.lidx.toNat < (s.ctx best).spr.lidx.toNat) then d
      else best) c)

/-- A result of context c lands now: while its gang is held only that of an elastic access, unless the context drains for a freeze (R305,
R407, R416). -/
def State.landDue (s : State) (c : CtxId) : Bool :=
  (s.ctx c).pend.any (Landing.dueAt s.tempo (s.paused c))

/-- Link storage of a core is read or written now (R314). -/
def State.lkDue (s : State) (k : CoreId) : Option CtxId :=
  ((s.core k).lk.find? (s.lkNow k)).map (·.ctx)

/-- What happens first in a tempo: fixed accesses perform and results land (R185, R187, R314). -/
def State.performNext (s : State) : Option Instr :=
  match s.ctxIds.find? fun c => s.performDue c with
  | some c => some (.fixedStorePerform c)
  | none =>
    match s.coreIds.findSome? fun k => s.lkDue k with
    | some c => some (.resultLanding c)
    | none => (s.ctxIds.find? fun c => s.landDue c).map .resultLanding

/-- A barrier of a gang releases its waiting members now (R144, R145). -/
def State.releaseDue (s : State) (g : Gang) : Option (Fin 16) :=
  (List.finRange 16).find? fun b =>
    s.tempo == g.barriers[b].done + 32 && (s.liveMembers g).any fun c =>
      s.waitsOn c b && !s.heldCtx c && (s.ctx c).arrivals[b].phase != g.barriers[b].phase &&
        match (s.ctx c).hold with | some h => h.rest && !h.met | none => false

/-- A timed slot, or the lack of one, is delivered to a gang now (R385, R388). -/
def State.deliverNext (s : State) (g : Gang) : Option Nat :=
  (List.range g.kernel.times.length).find? fun e =>
    s.deliverDue g e && (s.timed.any (fun y => y.gang == g.id && y.entry == e)
      || match g.receiver e with | some c => (s.posted? c e).isSome | none => false)

/-- Events of the gangs. -/
def State.gangNext (s : State) : Option Instr :=
  s.gangList.findSome? fun g =>
    if s.holdEndDue g then some (.gangHoldEnd g.id)
    else if g.held.isNone && s.timed.any (fun y => y.gang == g.id && y.waiting) then some (.holdBufferRelease g.id)
    else (s.releaseDue g).map fun b => .barrierRelease g.id b

/-- A timed slot is delivered before anything performs in the tempo (R388). -/
def State.slotNext (s : State) : Option Instr :=
  s.gangList.findSome? fun g => (s.deliverNext g).map fun e => .timedSlotDeliver g.id (e, true)

/-- Timed commands of a context: the next slot leaves, or the command ends (R388). -/
def State.timedNext (s : State) (c : CtxId) : Option Instr :=
  (s.cmdsOf c).findSome? fun m =>
    if (s.sendSlot? c m).isSome then some (.timedSlotSend c m.tag)
    else if s.timedDone c m then some (.engineCommandEnd c m.tag false)
    else none

/-- Events of the contexts, in the order in which a context meets them. -/
def State.ctxNext (s : State) : Option Instr :=
  let cs := s.ctxIds
  match cs.find? fun c => s.resumeDue c with
  | some c => some (.contextResume c)
  | none =>
    match s.pickCtx (cs.filter fun c => s.deferDue c) with
    | some c => some (.deferredCondition c)
    | none =>
      match cs.findSome? fun c => s.timedNext c with
      | some i => some i
      | none =>
        match cs.find? fun c => s.targetDue c with
        | some c => some (.branchTargetPresent c)
        | none =>
          match cs.find? fun c => s.drainDue c with
          | some c => some (.taskDrainEnd c)
          | none =>
            match s.pickCtx (cs.filter fun c => s.expired c) with
            | some c => some (.taskLengthExpiry c)
            | none => (cs.find? fun c => s.heldDue c).map .heldBundleIssue

/-- Events of the cores: the plane array and the engine (R302, R310, R353). -/
def State.coreNext (s : State) : Option Instr :=
  s.coreIds.findSome? fun k =>
    if (s.mmaDone? k).isSome then some (.mmaLanding k)
    else if (s.mlatDone? k).isSome then some (.mlatLoadEnd k)
    else if (s.arrayStart? k).isSome then some (.arrayCommandStart k)
    else none

/-- A command starts on the engine of a core. -/
def State.engineNext (s : State) : Option Instr :=
  (s.cmds.map fun k => coreOf (Fin.ofNat 512 k.1)).findSome? fun k =>
    (s.engineNext? k).map fun x => .engineCommandStart x.1 x.2.tag

/-- Events of the director, the partitions and the package (R421, R457, R460, R482, R484, R520, R525). -/
def State.partNext (s : State) : Option Instr :=
  if s.pkg.bstate = 0 then some (.packageReset (Config.sealValue 5 (s.pkg.staged.getD s.pkg.firmware) % 2 == 1))
  else
    match s.partIds.findSome? fun p => s.queuedPlace? p with
    | some t => some (.secondSpawn t)
    | none =>
      match s.gangList.find? fun g => s.switchDue g with
      | some g => some (.switchOut g.id)
      | none =>
        match s.queues.find? fun q => s.replDue (Fin.ofNat 2048 q.1) with
        | some q => some (.replacementLayerStep (Fin.ofNat 2048 q.1))
        | none =>
          let resorts (p : PartId) : Bool :=
            match (s.part p).post with
            | some x => decide ((s.part p).lastResort x.ft ≤ s.wall) && !(s.inScope p).isEmpty
            | none => false
          match s.partIds.find? resorts with
          | some p => some (.lastResortResign p)
          | none =>
            match s.partIds.find? fun p => s.vacancyDue p with
            | some p => some (.vacancyReceipt p)
            | none =>
              if !s.pkg.rackIn.isEmpty then some (.packetInject 0)
              else if s.ptmDue then some (.ptmSample (Config.freeBits s.draws 1010)) else s.withdrawable.map .demandWithdrawal

/-- The first of several. -/
def firstSome : List (Option Instr) → Option Instr
  | [] => none
  | some i :: _ => some i
  | none :: rest => firstSome rest

/-- The event of the part that comes next in this tempo, once what performs, lands and was set for this tempo is over. -/
def State.eventNext (s : State) : Option Instr :=
  firstSome [s.partNext, s.gangNext, s.coreNext, s.ctxNext, s.engineNext]

/-- A context whose bundle presents in this tempo. -/
def State.presents (s : State) (c : CtxId) : Bool :=
  let x := s.ctx c
  s.mayPresent c && !(x.ctl.pbv && x.ctl.dly) && match x.hold with | some h => h.go | none => true

/-- The context whose bundle presents next: primary contexts come before the others (R19, R453). -/
def State.presentNext (s : State) : Option CtxId :=
  let cs := s.ctxIds.filter fun c => s.presents c
  match s.pickCtx (cs.filter fun c => !isSec c) with
  | some c => some c
  | none => s.pickCtx cs

/-! ## The end of a tempo -/

/-- The descriptor check of the held bundle's CHB has ended: its slots are reserved (R322). -/
def State.checkChb (s : State) (h : Hold) : State :=
  if h.chb.isSome || !s.heldFor h.since || !s.executes then s
  else
    match (s.instrsFrom s.ic.entrySlot).findSome? fun k => match k.2 with | .chb r => some r | _ => none with
    | some r => s.reserveChb r
    | none => s

/-- The conditions of held bundles as they stand at the end of the tempo (R125). -/
def State.testHolds (s : State) : State :=
  s.ctxIds.foldl (fun s c =>
    match (s.ctx c).hold with
    | some h =>
      if (s.ctx c).run != .run || s.heldCtx c || h.go then s
      else
        let t := s.atBundle c
        let ready := t.holdReady h.since != .wait
        let rest := t.restReady h.since
        { (t.checkChb h).mapHold c fun q => { q with met := ready, rest := rest } with iss := s.iss }
    | none => s) s

/-- Slots that reach the stations of held gangs (R390). -/
def State.fillHoldBuffers (s : State) : State :=
  s.gangList.foldl (fun s g =>
    match g.held with
    | some h => if h ≤ s.tempo then s.holdSlots g else s
    | none => s) s

/-- Wall time moves on by one tempo, slewed by at most 1,000 parts in a million of it (R4, R26, R519; log entry 31). -/
def State.advanceWall (s : State) : State :=
  let fs := s.psTempo * 1000
  let most : Int := fs / 1000
  let slew : Int := max (-most) (min most s.pkg.ptm)
  let total := (s.wallFs : Int) + fs + slew
  { s with
    wall := s.wall + (total / 1000000).toNat
    wallFs := (total % 1000000).toNat
    pkg := { s.pkg with ptm := s.pkg.ptm - slew } }

/-- Errors that are corrected in this tempo are counted, on each die in CORR and on the host link by AER; how many there are is open (R511,
R522, R523; log entry 60). -/
def State.countCorrected (s : State) : State :=
  let n (k : Nat) : Nat := Config.freeBits s.draws (2 ^ 80 + 9 * s.tempo + k)
  { s with
    dies := s.dies.map fun d =>
      if d.2.inService then (d.1, { d.2 with corr := BitVec.ofNat 16 (min 0xFFFF (d.2.corr.toNat + n (d.1 % 8))) }) else d
    pkg := if s.pkg.linkUp then { s.pkg with aerCorrected := s.pkg.aerCorrected + n 8 } else s.pkg }

/-- The end of a tempo (R4, R20, R24). -/
def State.tick (s : State) : State :=
  let t := s.unpark.captureOperands.testHolds.fillHoldBuffers.divideBanks.countCorrected.advanceWall
  { t with tempo := t.tempo + 1 }

/-! ## Placing one instruction (log entry 32) -/

/-- A bundle with one word in its slot, the rest empty. -/
def bundleOf (k : Fin 8) (w : Nat) : Bundle := BitVec.ofNat 256 (w % 2 ^ 32 * 2 ^ (32 * k.val))

/-- An elastic kernel of one bundle. -/
def fetchKernel : Kernel :=
  { addr := 0, tlen := none, pinv := false, guard := false, single := false, chb := false, entry := 0, mdist := 0, extents := [1],
    order := [0], safePoints := [], times := [], subs := [] }

/-- A gang of context 0 alone. -/
def fetchGang (now : Nat) : Gang :=
  { id := 0, region := 0, part := 0, asid := 0, kernel := fetchKernel,
    dom := { hent := 0, sent := 0, bench := 0, rimg := 0, owner := 0, asid := 0 }, members := [0],
    alive := 1, start := now, k := 0, held := none,
    drainHold := false, barriers := Vector.replicate 16 { phase := false, count := 0, expected := 1, done := 0 }, slices := [1],
    tasksEnded := 0, kill := none, sliceStart := now, taskTempo := 0, waitStart := false, target := none, adjourn := false,
    switch := false, resign := false, writing := false }

/-- Context 0 runs at bundle 0 of chamber A, which holds the word in its slot. -/
def fetchSetup (s : State) (w : Nat) : State :=
  let x := s.ctx 0
  let y : Ctx :=
    { x with
      run := .run, gang := some 0, forCtx := none, present := s.tempo, hold := none, counted := false, pend := [], acc := [], defer := [],
      record := .none, frz := none
      ctl := { x.ctl with pc := 0, chamberB := false, kind := .primary, pbv := false, dly := false, srv := false, sres := 0, past := false,
                          first := false }
      spr := { x.spr with start := s.tempo } }
  let s1 := (s.setCtx 0 y).mapCore 0 fun k =>
    { k with code := insertAt k.code 0 (bundleOf ((tableSlot w).getD 0) w), chA := { k.chA with valid := true, filled := max 1 k.chA.filled } }
  { s1.setGang 0 (fetchGang s.tempo) with agenda := [], pkg := { s1.pkg with bstate := 2 } }

/-! ## A step -/

/-- What a step does: an event set for this tempo, with the agenda left after it; an event of the part; a bundle that presents; or
the end of the tempo. -/
inductive Action
  | agenda (i : Instr) (rest : List (Nat × Instr))
  | event (i : Instr)
  | present (c : CtxId)
  | tick
  deriving DecidableEq, Repr

/-- The first event of the agenda, when its tempo has come. -/
def State.agendaNext (s : State) : Option (Instr × List (Nat × Instr)) :=
  match s.agenda with
  | (t, i) :: rest => if t ≤ s.tempo then some (i, rest) else none
  | [] => none

/-- The order of one tempo: timed slots that are delivered, what performs and lands, what was set for it, what else is due, the bundles
that present, its end (log entry 2). -/
def State.nextAction (s : State) : Action :=
  match firstSome [s.slotNext, s.performNext] with
  | some i => .event i
  | none =>
    match s.agendaNext with
    | some (i, rest) => .agenda i rest
    | none =>
      match s.eventNext with
      | some i => .event i
      | none =>
        match s.presentNext with
        | some c => .present c
        | none => .tick

/-- What the action does. -/
def State.act (s : State) : Action → Host.Outcome State Fault Refusal
  | .agenda i rest => exec i { s with agenda := rest }
  | .event i => exec i s
  | .present c => s.presentBundle c
  | .tick => .next s.tick

end Sys2Proof.Machine
end

