-- ==== Sys2Proof/Machine/Step.lean ====
section
/-! DEFINITION. One step of the part, and how a table word is laid where the next step fetches it. -/

namespace Sys2Proof.Machine

/-- One step: the next action of the present tempo. -/
def step (s : State) : Host.Outcome State Fault Refusal := s.act s.nextAction

/-- `s` with an instruction where the next step fetches it: in its slot of bundle 0 of chamber A of core 0, whose primary context
runs an elastic gang of one and presents now, in full service, with nothing left in the agenda. A program comes into a chamber by
a fill only, which the director starts for an admitted region; this stands for those steps (log entry 32). -/
def State.withFetchWord (s : State) (nbits w : Nat) : State :=
  fetchSetup s (if nbits = 32 then w else 0)

end Sys2Proof.Machine
end

