-- ==== Sys2Proof/Machine/Registers.lean ====
section
/-! DEFINITION. What the host reads in the control window (19 R513 to R518, R520, R522, R524, 16 R438, 17 R475, R476, R479, 18 R486, R498,
R500). No read of it changes the machine. -/

namespace Sys2Proof.Machine

/-- A bit as a number at a place. -/
def bitAt (b : Bool) (n : Nat) : Nat := b.toNat * 2 ^ n

/-- A queue block: QCFG, QSTAT, QREPG, QREPA and QERR (R438, R513). -/
def State.readQueueReg (s : State) (q : QueueId) (reg : Nat) : Nat :=
  let x := s.queue q
  match reg with
  | 0x00 => x.part.val * 2 ^ 16 + bitAt x.serv 2 + bitAt x.stop 1 + bitAt x.en 0
  | 0x08 =>
    x.qgen.toNat * 2 ^ 32 + (match x.repl with | some y => y.layer % 256 | none => 0xFF) * 2 ^ 16 + x.fifo.length
  | 0x10 => x.qrepg.toNat
  | 0x18 => x.qrepa.toNat
  | 0x20 => x.qerr.toNat
  | _ => 0

/-- A function block: VFQMAP0 to VFQMAP15, FLRRL and FLRSTAT (R512, R515). -/
def State.readFuncReg (s : State) (f : FuncId) (reg : Nat) : Nat :=
  let x := s.func f
  if reg < 0x80 then (if reg % 8 = 0 then (x.vfqmap[(Fin.ofNat 16 (reg / 8)).val]).toNat else 0)
  else if reg = 0x80 then x.flrrl.toNat
  else if reg = 0x88 then bitAt x.busy 8 + x.step.val * 16 + bitAt x.ready 0
  else 0

/-- The configuration fields of a partition (R486), at 8-byte steps from the start of its block (R514). -/
def Part.readConfig (x : Part) (reg : Nat) : Nat :=
  match reg with
  | 0x00 => x.pclus.toNat
  | 0x48 => x.psrow.toNat
  | 0x50 => x.pway.toNat
  | 0x58 => x.phbm.toNat
  | 0x60 => x.pring.toNat
  | 0x68 => x.pkeys.toNat
  | 0x70 => x.pasidtBase.toNat
  | 0x78 => x.pasidtN.toNat
  | 0x80 => x.pfrz.toNat
  | 0x88 => x.prkey.toNat
  | r => if 8 ≤ r ∧ r ≤ 0x40 ∧ r % 8 = 0 then (x.pmem[(Fin.ofNat 8 (r / 8 - 1)).val]).toNat else 0

/-- A partition block (R475, R476, R479, R486, R498, R500, R514 to R517). -/
def State.readPartReg (s : State) (p : PartId) (reg : Nat) : Nat :=
  let x := s.part p
  match reg with
  | 0x0090 => x.pbench
  | 0x0098 => bitAt x.wsweepDone 1
  | 0x00A0 => x.spb
  | 0x00A8 => x.tdrn
  | 0x00B0 => x.tscr
  | 0x00B8 => x.marg
  | 0x00C0 => x.ckbw
  | 0x00C8 => s.floorNs p
  | 0x00D0 => x.rcpta.toNat
  | 0x00D8 => bitAt x.prstDone 1
  | 0x1040 => x.ftstat.toNat
  | 0x8108 => x.logb.toNat
  | 0x8110 => x.logs.toNat
  | 0x8118 => x.logw.toNat
  | 0x8120 => x.logr.toNat
  | 0x8128 => x.lost.toNat
  | 0x9000 => x.hacta.toNat
  | 0x9008 => bitAt x.hactRef 8
  | 0x9010 => x.hkill.toNat
  | 0x9020 => x.tlbh.toNat % 2 ^ 16 + bitAt x.tlbhDone 63
  | r =>
    if r < 0x90 then x.readConfig r
    else if 0x2000 ≤ r ∧ r < 0x6000 ∧ r % 8 = 0 then
      match x.evicts[(r - 0x2000) / 64]? with
      | some e => numOf (((s.evictBytes e).drop (r % 64)).take 8)
      | none => 0
    else if 0x8000 ≤ r ∧ r < 0x8100 ∧ r % 8 = 0 then
      let n : Fin 16 := Fin.ofNat 16 ((r - 0x8000) / 16)
      (if r % 16 = 8 then x.mon1[n.val] else x.mon0[n.val]).toNat
    else 0

/-- A die block: the sump registers of its station and HLTH (R397, R522). -/
def State.readDieReg (s : State) (d : DieId) (reg : Nat) : Nat :=
  let x := s.die d
  if reg < 0x80 then (if reg % 8 = 0 then (x.sump[(Fin.ofNat 16 (reg / 8)).val]).toNat else 0)
  else if reg = 0x100 then
    x.corr.toNat * 2 ^ 48 + x.soft.toNat * 2 ^ 32 + x.rets.toNat * 2 ^ 24 + x.retn.toNat * 2 ^ 16 + x.spare.toNat * 2 ^ 8 + x.harv
  else 0

/-- A set of dies as a mask. -/
def State.dieMask (s : State) (up : Die → Bool) : Nat :=
  (List.finRange 8).foldl (fun n d => n + bitAt (up (s.die d)) d.val) 0

/-- BSTAT (R520). -/
def State.bstat (s : State) : Nat :=
  s.dieMask (·.inService) * 2 ^ 40 + s.dieMask (·.stackUp) * 2 ^ 32 + s.pkg.brup.toNat * 2 ^ 28 + bitAt s.pkg.wtv 3
    + bitAt s.pkg.trained 2 + s.pkg.bstate.val

/-- THR (R524, R525): SRC holds the demands in force. -/
def State.thr (s : State) : Nat :=
  let x := s.pkg
  (x.tj % 256) * 2 ^ 24 + (x.pwr % 4096) * 2 ^ 12 + x.hfac.val * 2 ^ 8
    + bitAt (x.thermal != 0) 4 + bitAt (x.power != 0) 5 + bitAt (x.hfac != 0) 6 + bitAt (x.remoteFac != 0) 7 + x.fac.val

/-- The package controller; the mailboxes of SCRQ and KIMP read the status of their last
command (R496, R503, R513; log entry 94), and that of ATTEST the certificate chain (R509; log entry 129). -/
def State.readPkgReg (s : State) (reg : Nat) : Nat :=
  match reg with
  | 0x0000 => s.bstat
  | 0x0010 => s.pkg.evt.toNat
  | 0x0018 => s.thr
  | 0x0020 => s.pkg.pcap.toNat
  | 0x0028 => s.pkg.mwkey.toNat
  | 0x1000 => s.pkg.scrqStatus
  | 0x2000 => s.pkg.kimpStatus
  | r => if 0x4000 ≤ r ∧ r < 0x5000 ∧ r % 8 = 0 then numOf ((s.certChain.drop (r - 0x4000)).take 8) else 0

/-- What a read of 8 bytes of the control window returns: reserved offsets, write-only registers and queue port pages read 0 (R439, R513),
and before service only the package controller answers (R521). -/
def State.readRegister (s : State) (off : BitVec 26) : Option Word :=
  let o := off.toNat
  if 0x2000000 ≤ o ∧ o < 0x2010000 then some (BitVec.ofNat 64 (s.readPkgReg (o - 0x2000000)))
  else if s.pkg.bstate = 0 ∨ s.pkg.bstate = 3 then none
  else if 0x800000 ≤ o ∧ o < 0x820000 then some (BitVec.ofNat 64 (s.readQueueReg (Fin.ofNat 2048 ((o - 0x800000) / 64)) (o % 64)))
  else if 0xA00000 ≤ o ∧ o < 0xA00000 + 4096 * 513 then
    some (BitVec.ofNat 64 (s.readFuncReg (Fin.ofNat 513 ((o - 0xA00000) / 4096)) (o % 4096)))
  else if 0x1000000 ≤ o ∧ o < 0x1800000 then
    some (BitVec.ofNat 64 (s.readPartReg (Fin.ofNat 32 ((o - 0x1000000) / 0x40000)) (o % 0x40000)))
  else if 0x1800000 ≤ o ∧ o < 0x1880000 then
    some (BitVec.ofNat 64 (s.readDieReg (Fin.ofNat 8 ((o - 0x1800000) / 0x10000)) (o % 0x10000)))
  else some 0

end Sys2Proof.Machine
end

