-- ==== Sys2Proof/Safety.lean ====
section
/-! DEFINITION. What the statements call safe, and the terms they are written in: a step that goes on, a slot that commits, the form
that every state keeps, the state in which results are on their way, and the results of the scalar operations in the numbers of
06 R171 to R177. -/

namespace Sys2Proof.Machine

/-- A step goes on: neither a fault of the machine nor a refusal. -/
def GoesOn (o : Host.Outcome State Fault Refusal) : Prop := ∃ t, o = .next t

/-- The instruction at the issue point commits, from `s` to `t`: its meaning answers `t`, and its slot has not faulted (02 R34). -/
def Commits (i : Instr) (s t : State) : Prop := exec i s = .next t ∧ t.iss.stop = false

/-- The slot at the issue point faults: its context is frozen with cause and detail, nothing of the bundle from the slot on has
committed, and the rest of the bundle does not run (15 R406, R412). -/
def Faults (i : Instr) (s : State) (cause detail : Nat) : Prop :=
  ∃ t, exec i s = .next t ∧ t.iss.stop = true ∧ (t.ctx s.iss.ctx).run = .frozen ∧
    ∃ f, (t.ctx s.iss.ctx).frz = some f ∧ f.cause = cause ∧ f.detail = detail

/-- No other context froze in this tempo: the freezes of one gang in one tempo share out their serials by LIDX (R410). -/
def State.frozeAlone (s : State) (c : CtxId) : Prop := ∀ d : CtxId, d ≠ c → ∀ f, (s.ctx d).frz = some f → f.at_ ≠ s.tempo

/-- The form that every state keeps: memory is canonical. -/
def State.Inv (s : State) : Prop := s.mem.wf = true

/-! ## The issuing context changed alone -/

/-- The state with only the issuing context changed. -/
def State.withCtx (s : State) (x : Ctx) : State := { s with ctxs := insertAt s.ctxs s.iss.ctx.val x }

/-- Only results of the issuing context have been set to land, `lat` tempo from now, in this order (R42, R49). -/
def State.landing (s : State) (lat : Nat) (ws : List LandWhat) : State :=
  s.withCtx { s.ic with
    pend := s.ic.pend ++ ws.map fun w => { due := s.tempo + lat, issued := s.tempo, slot := s.iss.slot, what := w } }

/-- Only the control state of the issuing context has changed. -/
def State.withCtl (s : State) (k : Ctl) : State := s.withCtx { s.ic with ctl := k }

/-- The state that the meaning of the instruction in slot k is given: the bundle at the issue point takes its merge slot, kept
last-result landings enter their way, its chamber becomes the active one, a committed ctl slot that it is entered behind still has its
effect, and control state is read as before slot 0 (R34, R71, R407, R431, R453). -/
def State.runPoint (s : State) (k : Fin 8) : State :=
  let c := s.iss.ctx
  let s1 := if isSec c then s else s.mapCore (coreOf c) fun x => { x with used := (s.tempo, s.occupied) }
  let s2 := (s1.mapCtx c fun x => { x.takeRelast s.tempo with ctl := x.ctl.issueFrom s.iss.pc.toNat }).resumeCtl
  { s2 with iss := { s2.iss with before := some s2.ic.ctl, slot := k } }

/-- What lands in a register of the context itself, apart from completion tags and the effects of handler forms. -/
def LandWhat.register : LandWhat → Bool
  | .s .. | .v .. | .p .. | .spr .. | .stg .. | .fps _ | .amax .. => true
  | _ => false

/-! ## The scalar operations in numbers (R171 to R177) -/

/-- The lowest i below 64 whose bit is set, or 64. -/
def lowestBit (w : Word) : Nat := ((List.range 64).find? fun i => w.toNat.testBit i).getD 64

/-- Bits 16q+15 to 16q, or in general len bits from pos on, of x replaced by the low bits of y. -/
def replaceBits (x y pos len : Nat) : Nat :=
  x - (x / 2 ^ pos % 2 ^ len) * 2 ^ pos + (y % 2 ^ len) * 2 ^ pos

/-- Latency, destination and value modulo 2^64 of a scalar operation, from its operands as the slot reads them; none for the other
instructions. -/
def State.scalarRule (s : State) : Instr → Option (Nat × SReg × Int)
  | .add d a b => some (1, d, (s.rdS 0 a).toNat + (s.rdS 1 b).toNat)
  | .sub d a b => some (1, d, (s.rdS 0 a).toNat - (s.rdS 1 b).toNat)
  | .and d a b => some (1, d, ((s.rdS 0 a).toNat &&& (s.rdS 1 b).toNat : Nat))
  | .or d a b => some (1, d, ((s.rdS 0 a).toNat ||| (s.rdS 1 b).toNat : Nat))
  | .xor d a b => some (1, d, ((s.rdS 0 a).toNat ^^^ (s.rdS 1 b).toNat : Nat))
  | .andn d a b => some (1, d, ((s.rdS 0 a).toNat &&& (2 ^ 64 - 1 - (s.rdS 1 b).toNat) : Nat))
  | .shl d a b => some (1, d, ((s.rdS 0 a).toNat * 2 ^ ((s.rdS 1 b).toNat % 64) : Nat))
  | .shr d a b => some (1, d, ((s.rdS 0 a).toNat / 2 ^ ((s.rdS 1 b).toNat % 64) : Nat))
  | .sar d a b => some (1, d, (s.rdS 0 a).toInt / (2 ^ ((s.rdS 1 b).toNat % 64) : Nat))
  | .rotl d a b =>
    let n := (s.rdS 1 b).toNat % 64
    some (1, d, ((s.rdS 0 a).toNat * 2 ^ n + (s.rdS 0 a).toNat / 2 ^ (64 - n) : Nat))
  | .min d a b => some (1, d, min (s.rdS 0 a).toInt (s.rdS 1 b).toInt)
  | .max d a b => some (1, d, max (s.rdS 0 a).toInt (s.rdS 1 b).toInt)
  | .minu d a b => some (1, d, (min (s.rdS 0 a).toNat (s.rdS 1 b).toNat : Nat))
  | .maxu d a b => some (1, d, (max (s.rdS 0 a).toNat (s.rdS 1 b).toNat : Nat))
  | .seq d a b => some (1, d, if (s.rdS 0 a).toNat = (s.rdS 1 b).toNat then 1 else 0)
  | .sne d a b => some (1, d, if (s.rdS 0 a).toNat = (s.rdS 1 b).toNat then 0 else 1)
  | .slt d a b => some (1, d, if (s.rdS 0 a).toInt < (s.rdS 1 b).toInt then 1 else 0)
  | .sltu d a b => some (1, d, if (s.rdS 0 a).toNat < (s.rdS 1 b).toNat then 1 else 0)
  | .sle d a b => some (1, d, if (s.rdS 0 a).toInt ≤ (s.rdS 1 b).toInt then 1 else 0)
  | .clz d a => some (1, d, if (s.rdS 0 a).toNat = 0 then 64 else 63 - Nat.log2 (s.rdS 0 a).toNat)
  | .ctz d a => some (1, d, lowestBit (s.rdS 0 a))
  | .popc d a => some (1, d, (List.range 64).countP fun i => (s.rdS 0 a).toNat.testBit i)
  | .movo d a => some (1, d, (s.rdS 0 a).toNat)
  | .ffrdy d a => some (1, d, lowestBit (s.rdS 0 a &&& s.ic.spr.tags))
  | .mul d a b => some (3, d, ((s.rdS 0 a).toNat * (s.rdS 1 b).toNat : Nat))
  | .mulh d a b => some (3, d, (s.rdS 0 a).toInt * (s.rdS 1 b).toInt / (2 ^ 64 : Nat))
  | .mulhu d a b => some (3, d, ((s.rdS 0 a).toNat * (s.rdS 1 b).toNat / 2 ^ 64 : Nat))
  | .divu d a b =>
    some (24, d, if (s.rdS 1 b).toNat = 0 then 0xFFFFFFFFFFFFFFFF else ((s.rdS 0 a).toNat / (s.rdS 1 b).toNat : Nat))
  | .remu d a b =>
    some (24, d, if (s.rdS 1 b).toNat = 0 then (s.rdS 0 a).toNat else ((s.rdS 0 a).toNat % (s.rdS 1 b).toNat : Nat))
  | .sel d a b c => some (1, d, if (s.rdS 2 c).toNat = 0 then (s.rdS 1 b).toNat else (s.rdS 0 a).toNat)
  | .addsc d a b sh => some (1, d, ((s.rdS 0 a).toNat + (s.rdS 1 b).toNat * 2 ^ sh.val : Nat))
  | .addi d a imm => some (1, d, (s.rdS 0 a).toNat + imm.toInt)
  | .andImm d a imm => some (1, d, ((s.rdS 0 a).toNat &&& (BitVec.ofInt 64 imm.toInt).toNat : Nat))
  | .orImm d a imm => some (1, d, ((s.rdS 0 a).toNat ||| (BitVec.ofInt 64 imm.toInt).toNat : Nat))
  | .xorImm d a imm => some (1, d, ((s.rdS 0 a).toNat ^^^ (BitVec.ofInt 64 imm.toInt).toNat : Nat))
  | .andnImm d a imm => some (1, d, ((s.rdS 0 a).toNat &&& (2 ^ 64 - 1 - (BitVec.ofInt 64 imm.toInt).toNat) : Nat))
  | .shlImm d a n => some (1, d, ((s.rdS 0 a).toNat * 2 ^ n.val : Nat))
  | .shrImm d a n => some (1, d, ((s.rdS 0 a).toNat / 2 ^ n.val : Nat))
  | .sarImm d a n => some (1, d, (s.rdS 0 a).toInt / (2 ^ n.val : Nat))
  | .rotlImm d a n => some (1, d, ((s.rdS 0 a).toNat * 2 ^ n.val + (s.rdS 0 a).toNat / 2 ^ (64 - n.val) : Nat))
  | .li d imm => some (1, d, imm.toInt)
  | .lui d q imm => some (1, d, replaceBits (s.rdS 0 d).toNat imm.toNat (16 * q.val) 16)
  | .bext d a pos lenM1 => some (1, d, ((s.rdS 0 a).toNat / 2 ^ pos.val % 2 ^ (lenM1.val + 1) : Nat))
  | .bins d a pos lenM1 => some (1, d, replaceBits (s.rdS 0 d).toNat (s.rdS 1 a).toNat pos.val (lenM1.val + 1))
  | _ => none

/-- Latency of the forms of the scalar and vector slots that are neither handler forms nor TLBIs (06 R171 to R178, 09 R249, 10 R276). -/
def latencyOf : Instr → Option Nat
  | .add .. | .sub .. | .and .. | .or .. | .xor .. | .andn .. | .shl .. | .shr .. | .sar .. | .rotl .. | .min .. | .max .. | .minu ..
  | .maxu .. | .seq .. | .sne .. | .slt .. | .sltu .. | .sle .. | .clz .. | .ctz .. | .popc .. | .movo .. | .ffrdy .. | .sel .. | .addsc ..
  | .addi .. | .andImm .. | .orImm .. | .xorImm .. | .andnImm .. | .shlImm .. | .shrImm .. | .sarImm .. | .rotlImm .. | .li .. | .lui ..
  | .bext .. | .bins .. | .stg .. => some 1
  | .mul .. | .mulh .. | .mulhu .. => some 3
  | .divu .. | .remu .. => some 24
  | .movs .. | .movt .. => some 2
  | .vadd .. | .vsub .. | .vmin .. | .vmax .. | .vabs .. | .vneg .. | .vand .. | .vor .. | .vxor .. | .vshl .. | .vshr .. | .vsar ..
  | .vaddw .. | .vcmp .. | .vsel .. | .vmov .. | .vbcst .. | .vperm .. | .vshuf .. | .vrot .. | .vamax .. | .pand .. | .por .. | .pxor ..
  | .pnot .. | .pcnt .. => some 2
  | .vcvt .. | .vpack .. | .vunpk .. | .vpln .. | .vunpl .. => some 3
  | .vmul .. | .vfma .. | .vfms .. | .vfnma .. | .vmulw .. | .vdot4 .. | .vred .. | .vscan .. => some 4
  | .vrcpa .. | .vrsqa .. | .vexpa .. | .vdraw .. => some 6
  | .vrcp .. | .vrsq .. | .vsqrt .. | .vexp2 .. | .vlog2 .. | .vdiv .. => some 12
  | _ => none

/-- The types whose elements a form reads or writes as numbers (04 R104). -/
def numTypesOf : Instr → List VType
  | .vadd _ _ _ _ t | .vsub _ _ _ _ t | .vmul _ _ _ _ t | .vfma _ _ _ _ t | .vfms _ _ _ _ t | .vfnma _ _ _ _ t | .vdot4 _ _ _ _ t
  | .vmin _ _ _ _ t | .vmax _ _ _ _ t | .vabs _ _ _ t | .vneg _ _ _ t | .vshl _ _ _ _ t | .vshr _ _ _ _ t | .vsar _ _ _ _ t
  | .vaddw _ _ _ _ t | .vmulw _ _ _ _ t | .vcmp _ _ _ _ _ t | .vred _ _ _ _ t | .vscan _ _ _ _ t => [t]
  | .vcvt _ _ st _ dt | .vpack _ _ st _ dt | .vunpk _ _ st _ dt => [st, dt]
  | _ => []

/-! ## The core accesses (R181, R198 to R206, R210) -/

/-- Only an access of the issuing context has been committed, to perform later (R185, R187). -/
def State.committing (s : State) (a : Access) : State := s.withCtx { s.ic with acc := s.ic.acc ++ [a] }

/-- What a core access asks for: its address, a multiple of its bytes where it does not fault, the tempo from performing in the core
scratchpad to its landing, its tag, and its operation at a memory key. -/
structure MemRule where
  addr : Nat
  bytes : Nat
  lat : Nat
  tag : Option (Fin 64)
  op : Nat → AccOp

/-- base + off × unit, modulo 2^64 (R181). -/
def addressOf (base : Word) (off : Int) (unit : Nat) : Nat := ((base.toNat + off * unit) % 2 ^ 64).toNat

/-- The atomic forms: an operation on a word of `ty` at a base address, with a value and, for ACAS, the expected value. -/
def atomRule (base : Word) (o : AOp) (ty : AType) (x expected : Word) (d : SReg) (t : Option (Fin 64)) : MemRule :=
  { addr := base.toNat, bytes := ty.bytes, lat := 2, tag := t, op := fun k => .atom k o ty x expected d }

/-- The loads and stores of one register, the atomics and the block-tag forms; none for the other instructions. -/
def State.memRule (s : State) : Instr → Option MemRule
  | .ld v base z x off =>
    some { addr := addressOf (s.rdS 0 base) off.toInt z.bytes, bytes := z.bytes, lat := 2, tag := none,
           op := fun k => .load k z.bytes x v }
  | .st v base z off =>
    some { addr := addressOf (s.rdS 1 base) off.toInt z.bytes, bytes := z.bytes, lat := 2, tag := none,
           op := fun k => .store k z.bytes (s.rdS 0 v).toNat }
  | .lde v base z x t =>
    some { addr := (s.rdS 0 base).toNat, bytes := z.bytes, lat := 2, tag := some t, op := fun k => .load k z.bytes x v }
  | .ste v base z t =>
    some { addr := (s.rdS 1 base).toNat, bytes := z.bytes, lat := 2, tag := some t,
           op := fun k => .store k z.bytes (s.rdS 0 v).toNat }
  | .vld v base off =>
    some { addr := addressOf (s.rdS 0 base) off.toInt 512, bytes := 512, lat := 2, tag := none, op := fun k => .vload k v }
  | .tagr d base off =>
    some { addr := addressOf (s.rdS 0 base) off.toInt 64, bytes := 64, lat := 4, tag := none, op := fun k => .tagRead k d }
  | .tagw v base off =>
    some { addr := addressOf (s.rdS 1 base) off.toInt 64, bytes := 64, lat := 4, tag := none,
           op := fun k => .tagWrite k ((s.rdS 0 v).truncate 16) }
  | .aadd d base v ty => some (atomRule (s.rdS 0 base) .add ty (s.rdS 1 v) 0 d none)
  | .amin d base v ty => some (atomRule (s.rdS 0 base) .min ty (s.rdS 1 v) 0 d none)
  | .amax d base v ty => some (atomRule (s.rdS 0 base) .max ty (s.rdS 1 v) 0 d none)
  | .axch d base v ty => some (atomRule (s.rdS 0 base) .xch ty (s.rdS 1 v) 0 d none)
  | .aand d base v ty => some (atomRule (s.rdS 0 base) .and ty (s.rdS 1 v) 0 d none)
  | .aor d base v ty => some (atomRule (s.rdS 0 base) .or ty (s.rdS 1 v) 0 d none)
  | .acas d base v ty => some (atomRule (s.rdS 1 base) .cas ty (s.rdS 2 v) (s.rdS 0 d) d none)
  | .aaddE d base v t ty => some (atomRule (s.rdS 0 base) .add ty (s.rdS 1 v) 0 d (some t))
  | .aminE d base v t ty => some (atomRule (s.rdS 0 base) .min ty (s.rdS 1 v) 0 d (some t))
  | .amaxE d base v t ty => some (atomRule (s.rdS 0 base) .max ty (s.rdS 1 v) 0 d (some t))
  | .axchE d base v t ty => some (atomRule (s.rdS 0 base) .xch ty (s.rdS 1 v) 0 d (some t))
  | .aandE d base v t ty => some (atomRule (s.rdS 0 base) .and ty (s.rdS 1 v) 0 d (some t))
  | .aorE d base v t ty => some (atomRule (s.rdS 0 base) .or ty (s.rdS 1 v) 0 d (some t))
  | .acasE d base v t ty => some (atomRule (s.rdS 1 base) .cas ty (s.rdS 2 v) (s.rdS 0 d) d (some t))
  | _ => none

/-- What a fixed-latency access that performs now sets to land (R185, R187). -/
def State.loadLanding (s : State) (a : Access) (w : LandWhat) : Landing :=
  { due := s.tempo + a.lat, issued := a.issued, slot := 5, what := w }

/-- An elastic form may be committed: no command holds its tag, and in a fixed-length kernel fewer than 128 are in flight (R196,
R350). -/
def State.elasticFree (s : State) (t : Option (Fin 64)) : Prop :=
  match t with
  | none => True
  | some t => s.tagHeld s.iss.ctx t = false ∧ (s.fixedOf s.iss.ctx = none ∨ s.ic.elasticCount < 128)

/-- The elastic access e is the one thing of its context that is in flight: it neither has stopped nor is held in a home bank, its request
is not on the ring, and no result lands in this tempo (R193 to R195). -/
def State.setsOut (s : State) (c : CtxId) (e : Elastic) : Prop :=
  (s.ctx c).elas = [e] ∧ e.stopped = false ∧ e.banked = false ∧ e.sent = false ∧ (s.ctx c).acc = [] ∧ (s.ctx c).pend = [] ∧
  (s.ctx c).done = [] ∧ (s.ctx c).wrote.1 ≠ s.tempo

/-- Where it has to walk, its walk crosses no segment that is retired or closed to new traffic (R10, R384, R399). -/
def State.walkOpen (s : State) (c : CtxId) (e : Elastic) : Prop :=
  e.walks = true → s.walkDead (coreOf c) (s.ctx c).part (s.ctx c).spr.asid e.va.toNat = false ∧
    s.walkBlocked (coreOf c) (s.ctx c).part (s.ctx c).spr.asid e.va.toNat = false

/-- The home point of n bytes is at the context's own die and takes an access now: the host link is up where it is needed, the key of the
page is loaded, no unit that serves the bytes is under test, and a write finds room in its queue (R242, R436, R495, R523). -/
def State.atHome (s : State) (c : CtxId) (t : Tgt) (n : Nat) (wr : Bool) : Prop :=
  dieOfTgt t = dieOf (coreOf c) ∧ (t.host = true → s.pkg.linkUp = true) ∧ s.keyLost t = false ∧ s.untestable t.key n = false ∧
  (wr = true → s.queueFull (s.ctx c).part t = false)

/-- The n bytes there can be read and written as they stand: no uncorrectable error, not mapped out, and in device memory written last under
the page's key and watched by no monitor (R437, R495, R499). -/
def State.plainAt (s : State) (c : CtxId) (t : Tgt) (n : Nat) : Prop :=
  s.eccAt t.key (t.key + n - 1) = none ∧ s.mappedOut t.key = false ∧
  (t.dev = true → s.blockKeyOf t.key = t.knum ∧ ∀ m : Fin 16, (s.part (s.ctx c).part).mon0[m].getLsbD 0 = false)

/-- The bytes of these ranges stand in sound storage: no block holds an uncorrectable error, and none is mapped out (R197, R437). -/
def State.sound (s : State) (l : List (Nat × Nat)) : Prop :=
  s.eccIn l = none ∧ ∀ r ∈ l, ∀ x, r.1 ≤ x → x ≤ r.2 → s.mappedOut x = false

/-- The address of a gathered or scattered element: base + index × bytes, modulo 2^64 (R202). -/
def elementAt (base : Word) (idx : VWord) (n j : Nat) : Nat := (base.toNat + lane idx.toNat 32 j * n) % 2 ^ 64

/-- The byte ranges of the elements that a gather or scatter touches (R202, R233). -/
def elementSpans (base : Word) (idx : VWord) (p : PWord) (n : Nat) : List (Nat × Nat) :=
  ((List.range 128).filter fun j => p.getLsbD j).map fun j => (elementAt base idx n j, elementAt base idx n j + n - 1)

/-- What stops a gather or scatter: a base outside the core scratchpad, alignment, an element beyond the window (R182, R200, R202). -/
def GatherFaults (i : Instr) (s : State) (base : Word) (idx : VWord) (p : PWord) (n : Nat) : Prop :=
  let b := base.toNat
  (2 ^ 56 ≤ b → Faults i s 0x10 1) ∧
  ((0x400000 ≤ b ∧ b < 0x4000000) ∨ (0xC000000 ≤ b ∧ b < 2 ^ 32) → Faults i s 0x10 2) ∧
  ((0x4000000 ≤ b ∧ b < 0xC000000) ∨ (2 ^ 32 ≤ b ∧ b < 2 ^ 56) → Faults i s 0x10 5) ∧
  (b < 0x400000 → b % n ≠ 0 → Faults i s 0x13 1) ∧
  (b < 0x400000 → b % n = 0 → ∀ j, j < 128 → p.getLsbD j = true → 0x3FFFFF < elementAt base idx n j → Faults i s 0x10 4)

/-! ## The vector operations (R244 to R274) -/

/-- Element j of a vector operand under a type. -/
def State.elem (s : State) (pos : Nat) (t : VType) (r : VReg) (j : Nat) : Nat := lane (s.rdV pos t.bits r).toNat t.bits j

/-- Elements of N4 are numbers of at most 4 bits (R104, R274). -/
def State.fmtOk (s : State) (t : VType) : Prop := t = .n4 → (NarrowFmt.of s.ic.nfmtVNow).width ≤ 4

/-- The floating-point value of an element. -/
def fval (t : VType) (x : Nat) : FVal := (FloatFmt.of t).decode x

/-- The order of two values that are no NaN, as exact numbers with the infinities at its ends; −0 equals +0 (R260). -/
def FVal.below : FVal → FVal → Prop
  | .inf m, .inf n => m = true ∧ n = false
  | .inf m, .fin .. => m = true
  | .fin .., .inf n => n = false
  | .fin n1 m1 e1, .fin n2 m2 e2 =>
    (if n1 then -1 else 1 : Int) * m1 * (2 ^ (e1 - min e1 e2).toNat : Nat)
      < (if n2 then -1 else 1 : Int) * m2 * (2 ^ (e2 - min e1 e2).toNat : Nat)
  | _, _ => False

/-- A condition of VCMP on two values, as `below` orders them (R260). -/
def condHolds (c : Cond) (below above : Prop) : Prop :=
  match c with
  | .eq => ¬below ∧ ¬above | .ne => below ∨ above | .lt => below | .le => ¬above | .gt => above | .ge => ¬below | .un => False

/-- A result by its type: the exact integer written modulo the number's width, or the floating-point result rounded by RNE with its
flags (R103, R104, R251). -/
def State.numOut (s : State) (t : VType) (z : Int) (v : FVal × Nat) : Nat × Nat :=
  if t.isFloat then floatOut t s.iss.sat v else (writeNum s.nf t z, 0)

/-- The instruction sets a vector result and its flags to land, and after them `more`, and changes nothing else: element j of the n
elements is that of f where the predicate is set, else that of `other`, bits above them are 0, and the flags are those of the active
elements (R102, R245, R249). -/
def VectorResult (i : Instr) (s : State) (lat : Nat) (d : VReg) (bits n : Nat) (p : PWord) (f : Nat → Nat × Nat)
    (other : Nat → Nat) (more : List LandWhat) : Prop :=
  ∃ (r : VWord) (fl : BitVec 7), exec i s = .next (s.landing lat ([.v [(d, r)] s.vProd, .fps fl] ++ more)) ∧
    (∀ j, j < n → lane r.toNat bits j = if p.getLsbD j then (f j).1 else other j) ∧
    (∀ k, bits * n ≤ k → r.getLsbD k = false) ∧
    (∀ k, k < 7 → (fl.getLsbD k = true ↔ ∃ j, j < n ∧ p.getLsbD j = true ∧ (f j).2.testBit k = true))

/-- The same for a group of k registers, by logical elements (R248). -/
def GroupResult (i : Instr) (s : State) (lat : Nat) (d : VReg) (k bits n : Nat) (p : PWord) (f : Nat → Nat × Nat) : Prop :=
  ∃ (r : List (VReg × VWord)) (fl : BitVec 7), exec i s = .next (s.landing lat [.v r s.vProd, .fps fl]) ∧
    r.map (·.1) = groupRegs d k ∧
    (∀ j, j < n → groupLane (r.map (·.2)) bits j = if p.getLsbD j then (f j).1 else 0) ∧
    (∀ k, k < 7 → (fl.getLsbD k = true ↔ ∃ j, j < n ∧ p.getLsbD j = true ∧ (f j).2.testBit k = true))

/-- combine(S) of R265 over the active elements in ascending order, with its flags. -/
def combineRule (nf : NarrowFmt) (sat : SatMode) (t : VType) (op : RedOp) : List Nat → Nat × Nat
  | [] => (0, 0)
  | x :: rest =>
    let l := x :: rest
    let bits (g : Nat → Nat → Nat) : Nat := if t.isNarrow then writeNum nf t (rest.foldl g x : Nat) else rest.foldl g x
    match op with
    | .add =>
      if t.isFloat = false then (writeNum nf t (l.map (readNum nf t)).sum, 0)
      else if l.any (fun y => fval t y == .inf false) && l.any (fun y => fval t y == .inf true) then ((FloatFmt.of t).nan, flagNV)
      else if l.any fun y => (fval t y).isNan then ((FloatFmt.of t).nan, 0)
      else if l.any fun y => fval t y == .inf false then floatOut t sat (.inf false, 0)
      else if l.any fun y => fval t y == .inf true then floatOut t sat (.inf true, 0)
      else floatOut t sat (rest.foldl (fun v y => (fAdd v (fval t y)).1) (fval t x), 0)
    | .min => (rest.foldl (minMax2 nf t false) (minMax2 nf t false x x), 0)
    | .max => (rest.foldl (minMax2 nf t true) (minMax2 nf t true x x), 0)
    | .and => (bits (· &&& ·), 0)
    | .or => (bits (· ||| ·), 0)
    | .xor => (bits (· ^^^ ·), 0)

/-- The active elements below n, in ascending order. -/
def activeElems (p : PWord) (x : Nat → Nat) (n : Nat) : List Nat := ((List.range n).filter fun j => p.getLsbD j).map x

/-- An AMAX update of the active elements below n: the largest magnitude among those that are no NaN, if there is one, and whether one is
a NaN (R287, R288). -/
def AmaxUpdate (t : VType) (p : PWord) (n : Nat) (x : Nat → Nat) (c : Option (BitVec 32)) (nan : Bool) : Prop :=
  (nan = true ↔ ∃ j, j < n ∧ p.getLsbD j = true ∧ (amaxEl t (x j)).2 = true) ∧
  (∀ j v, j < n → p.getLsbD j = true → (amaxEl t (x j)).1 = some v → ∃ w, c = some w ∧ BitVec.ofNat 32 v ≤ w) ∧
  ∀ w, c = some w → ∃ j v, j < n ∧ p.getLsbD j = true ∧ (amaxEl t (x j)).1 = some v ∧ w = BitVec.ofNat 32 v

/-! ## Capabilities, commands and the plane array -/

/-- A capability is valid: the named context is frozen with the named serial, under these check bits (R425). -/
def State.validCap (s : State) (k : Cap) : Prop :=
  ∃ f, (s.ctx k.target).frz = some f ∧ f.serial = k.serial ∧ f.cap = some k.check ∧ (s.ctx k.target).part = k.part

/-- A context is frozen with cause and detail. -/
def FrozenWith (s : State) (c : CtxId) (cause detail : Nat) : Prop :=
  (s.ctx c).run = .frozen ∧ ∃ f, (s.ctx c).frz = some f ∧ f.cause = cause ∧ f.detail = detail

/-- Command m waits on the earlier command e: a destination of one meets the source of the other, or their destinations meet (R355,
R394). -/
def Waits (m e : Cmd) : Prop :=
  let w (a : Cmd) (f : Option Footprint) : Prop := overlapOpt a.dst f = true ∨ overlapOpt a.also f = true
  w m e.src ∨ w e m.dst ∨ w e m.also ∨ w e m.src

/-- The instruction enters one command in the footprint table of its context and changes nothing else: it holds its tag, with the
staging values as read, its footprints, AT, the bundle's modes, and an edge to every earlier command that it waits on (R348, R354,
R355). -/
def CommandEnters (i : Instr) (s : State) (tag : Fin 64) (kind : CmdKind) (ops : List Word) (src dst also : Option Footprint)
    (at_ : Option Word) : Prop :=
  ∃ m : Cmd, exec i s = .next { s with
      cmds := insertAt s.cmds s.iss.ctx.val (s.cmdsOf s.iss.ctx ++ [m]), fresh := s.fresh + 1 } ∧
    m.id = s.fresh ∧ m.tag = tag ∧ m.kind = kind ∧ m.ops = ops ∧ m.src = src ∧ m.dst = dst ∧ m.also = also ∧
    m.issued = s.tempo ∧ m.started = false ∧ m.stopped = false ∧ m.rm = s.iss.rm ∧ m.sat = s.iss.sat ∧
    m.notBefore = (match at_ with | some w => w.toNat % 2 ^ 32 | none => 0) ∧
    ∀ n, n ∈ m.edges ↔ ∃ e ∈ s.cmdsOf s.iss.ctx, e.id = n ∧ Waits m e

/-- A command for the engine may be committed: its tag is free, its destination meets no guarded operand span, a primary context of a
fixed-length kernel has a place in its queue, and AT, used by such a context alone, lies 2 tempo ahead (R308, R348, R350, R353). -/
def State.xeFree (s : State) (t : Fin 64) (dst : Option Footprint) (at_ : Option Word) : Prop :=
  s.tagBusy s.iss.ctx t = false ∧ s.spanRace dst = false ∧
  (s.timedPrimary s.iss.ctx = true → s.engineWaiting s.iss.ctx < 16) ∧
  ∀ w, at_ = some w → s.timedPrimary s.iss.ctx = true ∧ s.ttempo s.iss.ctx + 2 ≤ w.toNat % 2 ^ 32

/-- An operand of the plane array may be read: base and stride are multiples of 64 and the range ends in the core scratchpad (R296).
-/
def sideOk (w : Word) (k : Nat) (two : Bool) : Prop :=
  spanBase w % 64 = 0 ∧ spanStride w % 64 = 0 ∧ (spanOf w k two).2 ≤ 0x3FFFFF

/-- Forms that only slot sa takes (R60). -/
def saOnly : Instr → Bool
  | .frd .. | .fwr .. | .fres _ | .fresPc .. | .fkill .. | .fpassSup .. | .fpassHost .. | .fstat .. | .hmov .. | .hmovMove ..
  | .hmovClear _ | .tlbiAll .. | .tlbiAsid .. | .tlbiPage .. => true
  | _ => false

/-! ## What the director does -/

/-- The event is in the agenda, due now or later. -/
def State.pending (s : State) (now : Nat) (i : Instr) : Prop := ∃ due, now ≤ due ∧ (due, i) ∈ s.agenda

/-- What an adjourn saves of a stopped gang: its stop is its last parking, and of its chains those that the item list names stay
(R464, R469, R470). -/
def State.adjournSaved (s : State) (x : Gang) : Saved :=
  let all := { s.saveGang x (x.target.getD 0) with stop := x.stopped.1 }
  { all with chains := all.namedChains }

/-- The part with the adjourn area of a stopped gang written, none where the area does not translate (R469). -/
def State.adjournOut (s : State) (x : Gang) (r : Region) : Option State :=
  let bytes := s.areaBytes (s.adjournSaved x) x.stopped.2
  if s.areaOk r.part r.asid r.eff.adja bytes.length then s.dirWrite r.part r.asid r.eff.adja.toNat bytes else none

/-- Command `tag` of a context has ended: it has left the footprint table, its tag is set and its status is given (R349, R351). -/
def Ended (s : State) (c : CtxId) (tag : Fin 64) (status : Nat) : Prop :=
  s.cmd? c tag = none ∧ (s.ctx c).spr.tags.getLsbD tag.val = true ∧ (s.ctx c).spr.xst[tag] = BitVec.ofNat 8 status

/-- The factor of R25 and R525: that of the greatest of the four demands. -/
def Pkg.lowestDemand (x : Pkg) : Nat := max (max x.thermal.val x.power.val) (max (min 2 x.hfac.val) x.remoteFac.val)

end Sys2Proof.Machine
end

