-- ==== Sys2Proof/WellFormed.lean ====
section
/-! DEFINITION. Well-formed instructions: no condition of 02 R51 refuses them, and no field of the word is lost. -/

namespace Sys2Proof

/-- Bits that the word of an instruction does not hold are as the decoder reads them: a sign-extension bit on a
64-bit access is reserved (R62). -/
def Instr.fieldsOk : Instr → Bool
  | .ld _ _ z x _ | .lde _ _ z x _ => !(z == .d && x)
  | _ => true

/-- The instruction has a word, and the decoder raises no ILLEGAL for it (R51). -/
def Instr.wellFormed (i : Instr) : Bool :=
  (encodeNat i).isSome && i.fieldsOk && i.flaw.isNone

end Sys2Proof
end

