-- ==== Sys2Proof/Certificates/Slice0/Obligations.lean ====
section
/-! DEFINITION. The statements for the provers. -/

open Sys2Proof Sys2Proof.Machine

/-! ## Encodings -/

/-- 02 R31, R32, R51 to R68: the word of a well-formed instruction decodes, in each slot whose map holds it, to the instruction with
every operand. -/
def Obligations.DecodeOfEncode : Prop :=
  ∀ (i : Instr) (k : Fin 8) (w : SlotWord), i.wellFormed = true → i.homeSlot = some k → encode i = some w →
    decodeSlot k w = .ok (some i) ∧
    (k = 1 → saOnly i = false → decodeSlot 2 w = .ok (some i)) ∧
    (k = 3 → decodeSlot 4 w = .ok (some i))

/-- 02 R51: a word that a slot accepts is the one word of its instruction: no bit of an accepted word is ignored. -/
def Obligations.EncodeOfDecode : Prop :=
  ∀ (k : Fin 8) (w : SlotWord) (i : Instr), decodeSlot k w = .ok (some i) →
    i.wellFormed = true ∧ encode i = some w ∧
      (i.homeSlot = some k ∨ (i.homeSlot = some 1 ∧ k = 2 ∧ saOnly i = false) ∨ (i.homeSlot = some 3 ∧ k = 4))

/-- Words written out from the encodings of 02 and 06, in their slots. -/
def Obligations.WordsOfTheManual : Prop :=
  decodeSlot 1 0x401FFFFE = .ok (some (.li (.s 1) 0xFFFFE)) ∧
  decodeSlot 1 0x441CBEEF = .ok (some (.lui (.s 1) 3 0xBEEF)) ∧
  decodeSlot 1 0x4830701C = .ok (some (.bext (.s 3) (.s 1) 48 7)) ∧
  decodeSlot 2 0x20207FFF = .ok (some (.addi (.s 2) (.s 1) 0x3FFF)) ∧
  decodeSlot 6 0x40447000 = .ok (some (.lkr 4 2 7)) ∧
  decodeSlot 6 0x48040000 = .ok (some (.lkz 2)) ∧
  decodeSlot 1 0 = .ok none ∧
  decodeSlot 0 0 = .ok (some (.nop { iq := .always, sc := 0 }))

/-! ## The machine -/

/-- 19 R520, R515, 18 R486, 01 R20: what reset leaves, where the manual gives the value: the part is in state 0, no cluster is
configured, the fields of a partition have their reset values, and a quarter of each shared bank is slice cache. What a context holds
before its first task, its special registers with the values that 06 R161 gives a member's first task and its loop levels idle, is the
model's choice (log entry 4). -/
def Obligations.ResetValues : Prop :=
  State.reset.pkg.bstate = 0 ∧ State.reset.pkg.trained = false ∧ State.reset.pkg.wtv = false ∧ State.reset.pkg.brup = 0 ∧
  (∀ p : PartId,
    (State.reset.part p).pclus = 0 ∧ (∀ k : Fin 8, (State.reset.part p).pmem[k] = 0) ∧ (State.reset.part p).psrow = 0 ∧
    (State.reset.part p).pway = 0 ∧ (State.reset.part p).phbm = 1 ∧ (State.reset.part p).pring = 0x100 ∧
    (State.reset.part p).pkeys = 0 ∧ (State.reset.part p).pasidtBase = 0 ∧ (State.reset.part p).pasidtN = 0 ∧
    (State.reset.part p).pfrz = 0 ∧ (State.reset.part p).prkey = 0 ∧ (State.reset.part p).pbench = 0 ∧
    (State.reset.part p).wsweepDone = true ∧ (State.reset.part p).spb = 131072 ∧ (State.reset.part p).rcpta = 0 ∧
    (State.reset.part p).prstDone = true ∧ (State.reset.part p).hacta = 0 ∧ (State.reset.part p).hactRef = false ∧
    (State.reset.part p).hkill = 0) ∧
  (∀ f : FuncId, (State.reset.func f).flrrl = 0 ∧ (State.reset.func f).ready = true ∧ (State.reset.func f).busy = false ∧
    (State.reset.func f).step = 0) ∧
  (∀ d : DieId, (State.reset.die d).inService = false ∧ (State.reset.die d).stackUp = false ∧ (State.reset.die d).cacheSteps = 2) ∧
  (∀ c : CtxId, (State.reset.ctx c).run = .free ∧ (∀ n : Fin 6, (State.reset.ctx c).ctl.loops[n].st = .idle) ∧
    (State.reset.ctx c).spr.tags = 0 ∧ (State.reset.ctx c).spr.nfmtV = 0x18 ∧ (State.reset.ctx c).spr.nfmtM = 0 ∧
    (State.reset.ctx c).spr.amax = 0 ∧ (State.reset.ctx c).spr.fps = 0)

/-- Memory is canonical at reset; the model's own form of memory, log entry 5. -/
def Obligations.ResetInv : Prop := State.reset.Inv

/-- The model's form of memory (log entry 5) is kept by every step, whatever instruction or event it runs. -/
def Obligations.StepKeepsMemoryCanonical : Prop :=
  ∀ s t : State, s.Inv → step s = .next t → t.Inv

/-- 00 R4, R7, 15 R406, 01 R24: the part never stops: a fault freezes a context and the part goes on, so every step answers a next
state; the end of a tempo moves the tempo by one, and no bundle that presents or issues moves it. -/
def Obligations.StepGoesOn : Prop :=
  (∀ s : State, GoesOn (step s)) ∧
  ∀ s t : State, step s = .next t →
    (s.nextAction = .tick → t.tempo = s.tempo + 1) ∧ (∀ c, s.nextAction = .present c → t.tempo = s.tempo)

/-- 02 R34, R38: when a context's bundle presents and is accepted, the step runs the meanings of its decoded instructions in ascending
slot order, from the entry slot on and until one faults, and then the end of the bundle; where i in slot k is its one instruction
beside a NOP of slot 0, and no register that i reads holds an uncorrectable error, the step is the meaning of i at the issue point, and
then the end of the bundle. The free-value counter moves by one. -/
def Obligations.StepRunsTheDecodedInstruction : Prop :=
  ∀ (s : State) (c : CtxId), s.nextAction = .present c → (s.ctx c).hold = none →
    (s.atBundle c).presentFlaw = none → (s.atBundle c).firstFlaw = none →
    let b := (s.atBundle c).beginPresent
    let finish (o : Host.Outcome State Fault Refusal) : Host.Outcome State Fault Refusal :=
      match o with
      | .next t => .next (if t.iss.stop then t.drawn else (t.finishBundle b.inDelay b.stall).drawn)
      | o => o
    b.executes = true → b.holdReady s.tempo = .go → b.collides = false →
    step s = finish (runSlots (b.instrsFrom b.ic.entrySlot) (b.runPoint b.iss.slot)) ∧
    ∀ (k : Fin 8) (i : Instr), b.instrsFrom b.ic.entrySlot = [(k, i)] ∨ (∃ q, b.instrsFrom b.ic.entrySlot = [(0, .nop q), (k, i)]) →
      (b.runPoint k).regBad i = none → step s = finish (exec i (b.runPoint k))

/-! ## Scalar operations -/

/-- 06 R159, R171 to R177: an operation of the scalar slots sets its result, in the numbers of the manual, to land in its destination
and in the slot's last-result pair after its latency, and changes nothing else. -/
def Obligations.ScalarResult : Prop :=
  ∀ (i : Instr) (s : State) (lat : Nat) (d : SReg) (v : Int),
    s.scalarRule i = some (lat, d, v) → i.flaw = none → s.scoreHit i lat = false →
    exec i s = .next (s.landing lat [.s d s.sProd (BitVec.ofInt 64 v)])

/-- 06 R159, R161, R162, R167, R168: MOVS of every special register sets its value to land in d, and in the slot's last-result pair, 2
tempo later, and changes nothing else; CSW and LIX read as they stood before slot 0 of the bundle, with SRV and SRES 0, and NFMT.V and
NFMT.M the value in effect. FREC outside a second raises PRIV, detail 0x01, and PCID in a placement-invariant kernel PLACE. That CSW and
LIX leave out what slot 0 of their own bundle changed is the model's reading (log entry 84); the clauses say it where that slot changed
nothing. -/
def Obligations.MovsReads : Prop :=
  (∀ (s : State) (d : SReg) (r : Spr), s.scoreHit (.movs d r) 2 = false →
    (r = .frec → s.ic.ctl.kind = .second) → (r = .pcid → s.pinvOf s.iss.ctx = false) →
    ∃ v : Word, exec (.movs d r) s = .next (s.landing 2 [.s d s.sProd v]) ∧
      (r = .tempo → v = BitVec.ofNat 64 s.tempo) ∧
      (r = .ttempo → v = BitVec.ofNat 64 (s.ttempo s.iss.ctx)) ∧
      (r = .lidx → v = s.ic.spr.lidx.zeroExtend 64) ∧ (r = .gsize → v = s.ic.spr.gsize.zeroExtend 64) ∧
      (∀ i, r = .tile i → v = s.ic.spr.tile[i].zeroExtend 64) ∧ (r = .taskn → v = s.ic.spr.taskn) ∧
      (r = .phase → v = BitVec.ofNat 64 ((s.ttempo s.iss.ctx + s.ic.spr.lidx.toNat) % 32)) ∧
      (r = .pcid → v = BitVec.ofNat 64 (s.iss.ctx.val / 64 * 64 + (s.core (coreOf s.iss.ctx)).phys.val)) ∧
      (r = .tags → v = s.ic.spr.tags) ∧ (∀ t, r = .xst t → v = s.ic.spr.xst[t].zeroExtend 64) ∧
      (r = .csw → s.iss.before = some s.ic.ctl → v = ({ s.ic.ctl with srv := false, sres := 0 } : Ctl).csw) ∧
      (r = .amax → v = s.ic.spr.amax.zeroExtend 64) ∧ (r = .fps → v = s.ic.spr.fps.zeroExtend 64) ∧
      (∀ n, r = .lix n → s.iss.before = some s.ic.ctl → v = s.ic.ctl.lix[n]) ∧
      (∀ n, r = .lct n → v = s.ic.ctl.lct[n]) ∧ (∀ n, r = .lsd n → v = s.ic.ctl.lsd[n]) ∧
      (r = .nfmtV → v = s.ic.nfmtVNow.zeroExtend 64) ∧ (r = .nfmtM → v = s.ic.nfmtMNow.zeroExtend 64) ∧
      (r = .asid → v = s.ic.spr.asid.zeroExtend 64) ∧ (r = .gen → v = s.ic.spr.gen.zeroExtend 64) ∧
      (∀ t, r = .frec → s.ic.forCtx = some t → v = BitVec.ofNat 64 (s.framePA t))) ∧
  (∀ (s : State) (d : SReg), s.ic.ctl.kind ≠ .second → Faults (.movs d .frec) s 0x03 1) ∧
  (∀ (s : State) (d : SReg), s.scoreHit (.movs d .pcid) 2 = false → s.pinvOf s.iss.ctx = true → Faults (.movs d .pcid) s 0x60 0)

/-- 06 R159, R163, R178, 04 R105, R108: MOVT sets the register's write to land 2 tempo later; a write of NFMT.V that may be set, or of
NFMT.M, pends for the third bundle after; STG writes its staging register 1 tempo later. -/
def Obligations.MovtAndStg : Prop :=
  (∀ (s : State) (a : SReg) (r : Spr), s.scoreHit (.movt a r) 2 = false → r ≠ .nfmtV → r ≠ .nfmtM →
    exec (.movt a r) s = .next (s.landing 2 [.spr r (s.rdS 0 a)])) ∧
  (∀ (s : State) (a : SReg), s.scoreHit (.movt a .nfmtV) 2 = false →
    2 ≤ (s.rdS 0 a).toNat % 16 → (s.rdS 0 a).toNat % 16 ≤ 8 →
    ((s.rdS 0 a).getLsbD 5 = true → (s.rdS 0 a).getLsbD 4 = true) →
    exec (.movt a .nfmtV) s = .next (s.withCtx { s.ic with spr := { s.ic.spr with
      nfmtPend := s.ic.spr.nfmtPend ++ [{ toM := false, value := (s.rdS 0 a).truncate 6, left := 3 }] } })) ∧
  (∀ (s : State) (a : SReg), s.scoreHit (.movt a .nfmtV) 2 = false →
    ((s.rdS 0 a).toNat % 16 < 2 ∨ 8 < (s.rdS 0 a).toNat % 16 ∨
      ((s.rdS 0 a).getLsbD 5 = true ∧ (s.rdS 0 a).getLsbD 4 = false)) →
    Faults (.movt a .nfmtV) s 0x15 1) ∧
  (∀ (s : State) (a : SReg), s.scoreHit (.movt a .nfmtM) 2 = false →
    exec (.movt a .nfmtM) s = .next (s.withCtx { s.ic with spr := { s.ic.spr with
      nfmtPend := s.ic.spr.nfmtPend ++
        [{ toM := true, value := BitVec.ofNat 6 ((s.rdS 0 a).toNat % 8), left := 3 }] } })) ∧
  (∀ (s : State) (a : SReg) (g : Fin 24), s.scoreHit (.stg a g) 1 = false →
    exec (.stg a g) s = .next (s.landing 1 [.stg g (s.rdS 0 a)]))

/-- 02 R42, R49, 04 R102, 06 R163 to R165, R178, 09 R249, 10 R288, 11 R295: what lands in a context that is not paused and whose core has
no link storage on its way, when one result is due. A scalar or vector result is in its registers and in the last-result pair that
takes it, which keeps the one before; a predicate other than m0 has its bits; a staging register has its fields; a write of TAGS or FPS
clears the bits written as 1, one of AMAX, CSW, LCT or LSD replaces the register's own fields; flags are ORed into FPS; an AMAX
candidate above the magnitude that stands there, or above a NaN, replaces it. The other register files, last-result pairs and special
registers, the control state, memory and the other contexts are unchanged. -/
def Obligations.LandingWritesItsRegister : Prop :=
  ∀ (s : State) (c : CtxId) (l : Landing), (s.ctx c).pend = [l] → l.due ≤ s.tempo → s.paused c = false → l.what.register = true →
    (s.core (coreOf c)).lk = [] →
    let x := s.ctx c
    ∃ t, exec (.resultLanding c) s = .next t ∧ t.mem = s.mem ∧ (∀ c' : CtxId, c' ≠ c → t.ctx c' = s.ctx c') ∧
      let y := t.ctx c
      y = { x with pend := [], regs := y.regs, spr := y.spr, ctl := y.ctl, wrote := y.wrote } ∧
      (∀ d into v, l.what = .s d into v →
        y.regs = { x.regs with s := y.regs.s, so := y.regs.so, lastS := y.regs.lastS } ∧ y.spr = x.spr ∧ y.ctl = x.ctl ∧
        (∀ r, sIsReg r = true → y.regs.getS r = if r = d then v else x.regs.getS r) ∧
        ∀ p, y.regs.getS (.last p false) = (if into = some p then v else x.regs.getS (.last p false)) ∧
          y.regs.getS (.last p true) = x.regs.getS (.last p (decide (into ≠ some p)))) ∧
      (∀ ds into, l.what = .v ds into →
        y.regs = { x.regs with v := y.regs.v, vo := y.regs.vo, lastV := y.regs.lastV } ∧ y.spr = x.spr ∧ y.ctl = x.ctl ∧
        (∀ r, vIsReg r = true → (ds.map (·.1)).Nodup →
          (∀ v, (r, v) ∈ ds → y.regs.getV 8 r = v) ∧ ((∀ v, (r, v) ∉ ds) → y.regs.getV 8 r = x.regs.getV 8 r)) ∧
        ∀ p, (∀ d rest, ds = d :: rest → into = some p →
            y.regs.getV 8 (.last p false) = d.2 ∧ y.regs.getV 8 (.last p true) = x.regs.getV 8 (.last p false)) ∧
          (ds = [] ∨ into ≠ some p → ∀ old, y.regs.getV 8 (.last p old) = x.regs.getV 8 (.last p old))) ∧
      (∀ n v, l.what = .p n v → y.regs = { x.regs with p := y.regs.p } ∧ y.spr = x.spr ∧ y.ctl = x.ctl ∧
        ∀ m : Fin 8, y.regs.getP m = if m = n ∧ n ≠ 0 then v else x.regs.getP m) ∧
      (∀ g v, l.what = .stg g v → y.regs = { x.regs with g := y.regs.g } ∧ y.spr = x.spr ∧ y.ctl = x.ctl ∧
        ∀ m : Fin 24, y.regs.g[m] = if m = g then (if g.val < 16 then v else stgMask g v) else x.regs.g[m]) ∧
      (∀ flags, l.what = .fps flags → y.regs = x.regs ∧ y.ctl = x.ctl ∧ y.spr = { x.spr with fps := x.spr.fps ||| flags }) ∧
      (∀ cand nan, l.what = .amax cand nan → y.regs = x.regs ∧ y.ctl = x.ctl ∧
        y.spr = { x.spr with amax := y.spr.amax, fps := y.spr.fps } ∧
        (∀ k, k < 7 → (y.spr.fps.getLsbD k = true ↔ x.spr.fps.getLsbD k = true ∨ (k = 6 ∧ nan = true))) ∧
        (cand = none → y.spr.amax = x.spr.amax) ∧
        ∀ v, cand = some v →
          let mag := x.spr.amax.toNat % 2 ^ 31
          y.spr.amax = if 0x7F800000 < mag ∨ mag < v.toNat then v else x.spr.amax) ∧
      (∀ r v, l.what = .spr r v → y.regs = x.regs ∧
        (r = .tags → y.ctl = x.ctl ∧ y.spr = { x.spr with tags := x.spr.tags &&& ~~~v }) ∧
        (r = .fps → y.ctl = x.ctl ∧ y.spr = { x.spr with fps := x.spr.fps &&& ~~~(v.truncate 7) }) ∧
        (r = .amax → y.ctl = x.ctl ∧ y.spr = { x.spr with amax := v.truncate 32 }) ∧
        (∀ n, r = .lct n → y.spr = x.spr ∧ y.ctl = { x.ctl with lct := x.ctl.lct.set n v }) ∧
        (∀ n, r = .lsd n → y.spr = x.spr ∧ y.ctl = { x.ctl with lsd := x.ctl.lsd.set n v }) ∧
        (r = .csw → y.spr = x.spr ∧ y.ctl = { x.ctl with schk := v.getLsbD 4 }))

/-! ## The ctl slot -/

/-- 05 R128, R132, R133, R138: BR, BRP and JMP. A branch that is taken, to an index that the context may enter and that the loop rule
allows, leaves its target and drain bit pending; one that is not taken changes nothing. -/
def Obligations.BranchesPend : Prop :=
  (∀ (s : State) (cond : SReg) (ifz d : Bool) (off : BitVec 12) (q : CtlQ),
    s.scoreHit (.br cond ifz off d q) 1 = false →
    let target := relTarget s.iss.pc.toNat off
    ((s.rdS 0 cond = 0 ↔ ifz = true) → s.mayEnter target = true → s.loopFlaw target true = false →
      exec (.br cond ifz off d q) s =
        .next (s.withCtl { s.ic.ctl with pbv := true, pbd := d, pbt := BitVec.ofNat 14 target, dly := false })) ∧
    (¬(s.rdS 0 cond = 0 ↔ ifz = true) → exec (.br cond ifz off d q) s = .next s)) ∧
  (∀ (s : State) (m : Fin 8) (ifnone d : Bool) (esz : ESize) (off : BitVec 12) (q : CtlQ),
    s.scoreHit (.brp m ifnone esz off d q) 1 = false →
    let target := relTarget s.iss.pc.toNat off
    let n := 4096 / ESize.bits esz
    ((∀ j, j < n → (s.rdP 0 m).getLsbD j = !ifnone) → s.mayEnter target = true → s.loopFlaw target true = false →
      exec (.brp m ifnone esz off d q) s =
        .next (s.withCtl { s.ic.ctl with pbv := true, pbd := d, pbt := BitVec.ofNat 14 target, dly := false })) ∧
    ((∀ j, j < n → (s.rdP 0 m).getLsbD j = ifnone) → exec (.brp m ifnone esz off d q) s = .next s)) ∧
  (∀ (s : State) (target : BitVec 14) (d : Bool) (q : CtlQ),
    s.mayEnter target.toNat = true → s.loopFlaw target.toNat true = false →
    exec (.jmp target d q) s =
      .next (s.withCtl { s.ic.ctl with pbv := true, pbd := d, pbt := target, dly := false }))

/-- 05 R128, R129, R133, R134, R138: a branch that is taken to an index that its context may not enter raises ILLSEQ, detail 0x04, CALL on
a full return stack detail 0x02, RET on an empty one detail 0x03, a taken branch against the loop rule detail 0x08; BRP on mixed
elements raises NONUNI. Which detail comes first where CALL or RET earns several is the model's choice (log entry 104). -/
def Obligations.BranchFaults : Prop :=
  (∀ (s : State) (cond : SReg) (ifz d : Bool) (off : BitVec 12) (q : CtlQ), s.scoreHit (.br cond ifz off d q) 1 = false →
    (s.rdS 0 cond = 0 ↔ ifz = true) →
    (s.mayEnter (relTarget s.iss.pc.toNat off) = false → Faults (.br cond ifz off d q) s 0x02 4) ∧
    (s.mayEnter (relTarget s.iss.pc.toNat off) = true → s.loopFlaw (relTarget s.iss.pc.toNat off) true = true →
      Faults (.br cond ifz off d q) s 0x02 8)) ∧
  (∀ (s : State) (d : Bool) (q : CtlQ) (j : Fin 8), s.ic.ctl.depth.val = j.val + 1 →
    (s.mayEnter (s.ic.ctl.rstk[j]).toNat = false → Faults (.ret d q) s 0x02 4) ∧
    (s.mayEnter (s.ic.ctl.rstk[j]).toNat = true → s.loopFlaw (s.ic.ctl.rstk[j]).toNat false = true → Faults (.ret d q) s 0x02 8)) ∧
  (∀ (s : State) (target : BitVec 14) (d : Bool) (q : CtlQ), s.mayEnter target.toNat = true → s.ic.ctl.depth.val < 8 →
    s.loopFlaw target.toNat false = true → Faults (.call target d q) s 0x02 8) ∧
  (∀ (s : State) (target : BitVec 14) (d : Bool) (q : CtlQ), s.mayEnter target.toNat = false →
    Faults (.jmp target d q) s 0x02 4 ∧ Faults (.call target d q) s 0x02 4) ∧
  (∀ (s : State) (target : BitVec 14) (d : Bool) (q : CtlQ), s.mayEnter target.toNat = true →
    s.loopFlaw target.toNat true = true → Faults (.jmp target d q) s 0x02 8) ∧
  (∀ (s : State) (target : BitVec 14) (d : Bool) (q : CtlQ), s.mayEnter target.toNat = true → s.ic.ctl.depth.val = 8 →
    Faults (.call target d q) s 0x02 2) ∧
  (∀ (s : State) (d : Bool) (q : CtlQ), s.ic.ctl.depth.val = 0 → Faults (.ret d q) s 0x02 3) ∧
  (∀ (s : State) (m : Fin 8) (ifnone d : Bool) (esz : ESize) (off : BitVec 12) (q : CtlQ) (i j : Nat),
    s.scoreHit (.brp m ifnone esz off d q) 1 = false →
    i < 4096 / ESize.bits esz → j < 4096 / ESize.bits esz → (s.rdP 0 m).getLsbD i = true → (s.rdP 0 m).getLsbD j = false →
    Faults (.brp m ifnone esz off d q) s 0x22 0)

/-- 05 R132, R134: CALL pushes the index after its delay bundle and RET pops one; the target pends. -/
def Obligations.CallAndReturn : Prop :=
  (∀ (s : State) (target : BitVec 14) (d : Bool) (q : CtlQ),
    s.mayEnter target.toNat = true → s.loopFlaw target.toNat false = false → s.ic.ctl.depth.val < 8 →
    ∃ k : Ctl, exec (.call target d q) s = .next (s.withCtl k) ∧
      k = { s.ic.ctl with rstk := k.rstk, depth := k.depth, pbv := true, pbd := d, pbt := target, dly := false } ∧
      k.depth.val = s.ic.ctl.depth.val + 1 ∧
      ∀ j : Fin 8, k.rstk[j] = if j.val = s.ic.ctl.depth.val then BitVec.ofNat 64 (s.iss.pc.toNat + 2) else s.ic.ctl.rstk[j]) ∧
  (∀ (s : State) (d : Bool) (q : CtlQ) (j : Fin 8), s.ic.ctl.depth.val = j.val + 1 →
    s.mayEnter (s.ic.ctl.rstk[j]).toNat = true → s.loopFlaw (s.ic.ctl.rstk[j]).toNat false = false →
    ∃ k : Ctl, exec (.ret d q) s = .next (s.withCtl k) ∧
      k = { s.ic.ctl with depth := k.depth, pbv := true, pbd := d, pbt := (s.ic.ctl.rstk[j]).truncate 14, dly := false } ∧
      k.depth.val = j.val)

/-- 05 R135, R136: LSET arms a level from LCTn and LSDn and clears LIXn; LOOP makes an armed level active over the b bundles after it, or
skips them when the count is 0; LBRK makes the level and every level that became active after it idle. LSET of an active level or with
a count of 2^32 or more, LOOP of a level that is not armed, or whose body lies in no region or in two or ends outside the innermost body, and
LBRK of a level that is not active raise ILLSEQ, detail 0x07. -/
def Obligations.LoopLevels : Prop :=
  (∀ (s : State) (n : Fin 6) (q : CtlQ), s.ic.ctl.loops[n].st ≠ .active → s.ic.ctl.lct[n].toNat < 2 ^ 32 →
    exec (.lset n q) s = .next (s.withCtl { s.ic.ctl with
      lix := s.ic.ctl.lix.set n 0,
      loops := s.ic.ctl.loops.set n
        { s.ic.ctl.loops[n] with st := .armed, count := s.ic.ctl.lct[n], stride := s.ic.ctl.lsd[n] } })) ∧
  (∀ (s : State) (n : Fin 6) (b : BitVec 12) (q : CtlQ), s.ic.ctl.loops[n].st = .armed →
    regionOf (s.iss.pc.toNat + 1) = regionOf (s.iss.pc.toNat + b.toNat) → s.iss.pc.toNat + 1 < 8320 →
    (∀ m rest, s.ic.ctl.nest = m :: rest → s.iss.pc.toNat + b.toNat ≤ s.ic.ctl.loops[m].last.toNat) →
    (s.ic.ctl.loops[n].count ≠ 0 →
      exec (.loop n b q) s = .next (s.withCtl { s.ic.ctl with
        nest := n :: s.ic.ctl.nest,
        loops := s.ic.ctl.loops.set n
          { s.ic.ctl.loops[n] with
            st := .active, iter := 0, first := BitVec.ofNat 64 (s.iss.pc.toNat + 1),
            last := BitVec.ofNat 64 (s.iss.pc.toNat + b.toNat), depth := BitVec.ofNat 64 s.ic.ctl.depth.val } })) ∧
    (s.ic.ctl.loops[n].count = 0 →
      ∃ t, exec (.loop n b q) s = .next t ∧ t.iss = { s.iss with next := some (s.iss.pc.toNat + b.toNat + 1) } ∧
        t.ic = { s.ic with ctl := { s.ic.ctl with loops := s.ic.ctl.loops.set n { s.ic.ctl.loops[n] with st := .idle } } } ∧
        t.mem = s.mem)) ∧
  (∀ (s : State) (n : Fin 6) (q : CtlQ) (inner outer : List (Fin 6)), s.ic.ctl.loops[n].st = .active →
    s.ic.ctl.nest = inner ++ n :: outer → n ∉ inner →
    ∃ k : Ctl, exec (.lbrk n q) s = .next (s.withCtl k) ∧ k = { s.ic.ctl with nest := outer, loops := k.loops } ∧
      ∀ m : Fin 6, k.loops[m] =
        if m = n ∨ m ∈ inner then { s.ic.ctl.loops[m] with st := .idle } else s.ic.ctl.loops[m]) ∧
  (∀ (s : State) (n : Fin 6) (q : CtlQ), s.ic.ctl.loops[n].st ≠ .active → Faults (.lbrk n q) s 0x02 7) ∧
  (∀ (s : State) (n : Fin 6) (b : BitVec 12) (q : CtlQ),
    (s.ic.ctl.loops[n].st ≠ .armed ∨ regionOf (s.iss.pc.toNat + 1) ≠ regionOf (s.iss.pc.toNat + b.toNat) ∨ 8320 ≤ s.iss.pc.toNat + 1 ∨
      ∃ m rest, s.ic.ctl.nest = m :: rest ∧ s.ic.ctl.loops[m].last.toNat < s.iss.pc.toNat + b.toNat) →
    Faults (.loop n b q) s 0x02 7) ∧
  (∀ (s : State) (n : Fin 6) (q : CtlQ), (s.ic.ctl.loops[n].st = .active ∨ 2 ^ 32 ≤ s.ic.ctl.lct[n].toNat) →
    Faults (.lset n q) s 0x02 7)

/-- 05 R130, R132, R137: the index after an issued bundle: the pending target after a delay bundle, the delay bundle after a branch,
the start of the body at a body end with iterations left, with LIXn moved by its stride, else the bundle after it. Levels that end at one
bundle are tested from the innermost out: each whose last iteration is done adds its stride to its LIXn and becomes idle, until one has
iterations left or ends elsewhere. -/
def Obligations.NextIndex : Prop :=
  (∀ (k : Ctl) (skip : Option Nat), (k.advance true skip).pc = k.pbt ∧ (k.advance true skip).dly = true) ∧
  (∀ (k : Ctl) (skip : Option Nat), k.pbv = true → (k.advance false skip).pc = BitVec.ofNat 14 (k.pc.toNat + 1) ∧
    (k.advance false skip).loops = k.loops ∧ (k.advance false skip).lix = k.lix) ∧
  (∀ (k : Ctl) (n : Nat), k.pbv = false → (k.advance false (some n)).pc = BitVec.ofNat 14 n) ∧
  (∀ k : Ctl, k.pbv = false → (∀ n rest, k.nest = n :: rest →
      ¬(k.loops[n].last.toNat = k.pc.toNat ∧ k.loops[n].depth.toNat = k.depth.val)) →
    (k.advance false none).pc = BitVec.ofNat 14 (k.pc.toNat + 1) ∧ (k.advance false none).loops = k.loops ∧
    (k.advance false none).lix = k.lix ∧ (k.advance false none).nest = k.nest) ∧
  (∀ (k : Ctl) (n : Fin 6) (outer : List (Fin 6)), k.pbv = false → k.nest = n :: outer →
    k.loops[n].last.toNat = k.pc.toNat → k.loops[n].depth.toNat = k.depth.val →
    (k.loops[n].iter + 1).toNat < k.loops[n].count.toNat →
    (k.advance false none).pc = BitVec.ofNat 14 k.loops[n].first.toNat ∧ (k.advance false none).nest = k.nest ∧
    (k.advance false none).lix = k.lix.set n (k.lix[n] + k.loops[n].stride) ∧
    (k.advance false none).loops = k.loops.set n { k.loops[n] with iter := k.loops[n].iter + 1 }) ∧
  (∀ (k : Ctl) (ended rest : List (Fin 6)), k.pbv = false → k.nest = ended ++ rest → k.nest.Nodup →
    let ends (n : Fin 6) : Prop := k.loops[n].last.toNat = k.pc.toNat ∧ k.loops[n].depth.toNat = k.depth.val
    let r := k.advance false none
    let same (m : Fin 6) : Prop := r.lix[m] = k.lix[m] ∧ r.loops[m] = k.loops[m]
    (∀ n ∈ ended, ends n ∧ k.loops[n].count.toNat ≤ (k.loops[n].iter + 1).toNat) →
    (∀ n outer, rest = n :: outer → ends n → (k.loops[n].iter + 1).toNat < k.loops[n].count.toNat) →
    r.nest = rest ∧
    (∀ n ∈ ended, r.lix[n] = k.lix[n] + k.loops[n].stride ∧
      r.loops[n] = { k.loops[n] with iter := k.loops[n].iter + 1, st := .idle }) ∧
    ((∀ n outer, rest = n :: outer → ¬ends n) →
      r.pc = BitVec.ofNat 14 (k.pc.toNat + 1) ∧ ∀ m, m ∉ ended → same m) ∧
    (∀ n outer, rest = n :: outer → ends n →
      r.pc = BitVec.ofNat 14 k.loops[n].first.toNat ∧ r.lix[n] = k.lix[n] + k.loops[n].stride ∧
      r.loops[n] = { k.loops[n] with iter := k.loops[n].iter + 1 } ∧ ∀ m, m ∉ ended → m ≠ n → same m))

/-- 02 R35, 04 R99, 05 R141 to R143: NOP changes nothing; PFX sets the modes of its own bundle; IFENCE makes every chamber valid whose latest
fill ended OK, and takes the working template table of the latest such fill; SWAP of a primary enters the idle chamber at its recorded
entry; an active loop level, or an idle chamber that is not valid, raises ILLSEQ, detail 0x05, a secondary context CTXCLASS, and a second
ILLSEQ, detail 0x04. -/
def Obligations.ChambersAndModes : Prop :=
  (∀ (s : State) (q : CtlQ), exec (.nop q) s = .next s) ∧
  (∀ (s : State) (rm : Rm) (sat : SatMode) (q : CtlQ),
    exec (.pfx rm sat q) s = .next { s with iss := { s.iss with rm := rm, sat := sat } }) ∧
  (∀ (s : State) (q : CtlQ),
    ∃ t, exec (.ifence q) s = .next t ∧ t.ctxs = s.ctxs ∧ t.mem = s.mem ∧
      (∀ b : Bool, ((t.core (coreOf s.iss.ctx)).chamber b).valid =
        (((s.core (coreOf s.iss.ctx)).chamber b).valid || ((s.core (coreOf s.iss.ctx)).chamber b).ok)) ∧
      (t.core (coreOf s.iss.ctx)).code = (s.core (coreOf s.iss.ctx)).code ∧
      (t.core (coreOf s.iss.ctx)).working = [] ∧
      ((s.core (coreOf s.iss.ctx)).working = [] → (t.core (coreOf s.iss.ctx)).templates = (s.core (coreOf s.iss.ctx)).templates) ∧
      ∀ b table rest, (s.core (coreOf s.iss.ctx)).working = (b, table) :: rest → (t.core (coreOf s.iss.ctx)).templates = table) ∧
  (∀ (s : State) (d : Bool) (q : CtlQ), s.ic.ctl.kind = .primary → s.ic.ctl.nest = [] →
    ((s.core (coreOf s.iss.ctx)).chamber (!s.ic.ctl.chamberB)).valid = true →
    exec (.swap d q) s = .next (s.withCtl { s.ic.ctl with
      pbv := true, pbd := d, dly := false, chamberB := !s.ic.ctl.chamberB,
      pbt := BitVec.ofNat 14 ((if s.ic.ctl.chamberB then 0 else 4096)
        + ((s.core (coreOf s.iss.ctx)).chamber (!s.ic.ctl.chamberB)).entry) })) ∧
  (∀ (s : State) (d : Bool) (q : CtlQ), s.ic.ctl.kind = .primary →
    ((s.core (coreOf s.iss.ctx)).chamber (!s.ic.ctl.chamberB)).valid = false → Faults (.swap d q) s 0x02 5) ∧
  (∀ (s : State) (d : Bool) (q : CtlQ), s.ic.ctl.kind = .primary → s.ic.ctl.nest ≠ [] → Faults (.swap d q) s 0x02 5) ∧
  (∀ (s : State) (d : Bool) (q : CtlQ), s.ic.ctl.kind = .secondary → Faults (.swap d q) s 0x04 0) ∧
  (∀ (s : State) (d : Bool) (q : CtlQ), s.ic.ctl.kind = .second → Faults (.swap d q) s 0x02 4)

/-- 05 R144, R146: a presenting BAR or BARA arrives: the member's arrived bit and phase are recorded and the count rises, and the last
arrival flips the phase, clears the count and records the tempo; BARA then issues at once, BAR and BARW clear the arrived bit when
their wait has ended; a second raises CTXCLASS. A bundle that arrives at a barrier whose phase its member has arrived in, or waits at one
where it has not arrived, takes ILLSEQ, detail 0x09, when it presents, with no arrival and no register changed. -/
def Obligations.Barriers : Prop :=
  (∀ (s : State) (b : Fin 16) (q : CtlQ), s.executes = true →
    s.instrsFrom s.ic.entrySlot = [(0, .bara b q)] ∨ s.instrsFrom s.ic.entrySlot = [(0, .bar b q)] →
    s.beginPresent = s.arriveAt b) ∧
  (∀ (s : State) (b : Fin 16) (g : Gang) (n : Nat), s.ic.gang = some n → s.gang? n = some g → g.id = n →
    ∃ g' : Gang, (s.arriveAt b).gang? n = some g' ∧ g'.members = g.members ∧
      (s.arriveAt b).ic.arrivals[b] = { arrived := true, phase := g.barriers[b].phase } ∧
      (g.barriers[b].count + 1 = g.barriers[b].expected →
        g'.barriers[b] = { g.barriers[b] with phase := !g.barriers[b].phase, count := 0, done := s.tempo }) ∧
      (g.barriers[b].count + 1 ≠ g.barriers[b].expected →
        g'.barriers[b] = { g.barriers[b] with count := g.barriers[b].count + 1 }) ∧
      ∀ b' : Fin 16, b' ≠ b → g'.barriers[b'] = g.barriers[b']) ∧
  (∀ (s : State) (b : Fin 16) (q : CtlQ), s.inGang = true → exec (.bara b q) s = .next s) ∧
  (∀ (s : State) (b : Fin 16) (q : CtlQ), s.inGang = true →
    exec (.bar b q) s = .next (s.withCtx { s.ic with
      arrivals := s.ic.arrivals.set b { s.ic.arrivals[b] with arrived := false } }) ∧
    exec (.barw b q) s = .next (s.withCtx { s.ic with
      arrivals := s.ic.arrivals.set b { s.ic.arrivals[b] with arrived := false } })) ∧
  (∀ (s : State) (b : Fin 16) (q : CtlQ), s.ic.ctl.kind = .second →
    Faults (.bar b q) s 0x04 0 ∧ Faults (.bara b q) s 0x04 0 ∧ Faults (.barw b q) s 0x04 0) ∧
  (∀ (s : State) (c : CtxId) (b : Fin 16) (q : CtlQ) (g : Gang) (i : Instr) (rest : List (Fin 8 × Instr)),
    s.nextAction = .present c → (s.ctx c).hold = none → s.gangOf c = some g →
    let u := s.atBundle c
    u.presentFlaw = none → u.executes = true → u.inDelay = false → u.instrsFrom u.ic.entrySlot = (0, i) :: rest →
    (((i = .bar b q ∨ i = .bara b q) ∧ (s.ctx c).arrivals[b] = { arrived := true, phase := g.barriers[b].phase }) ∨
      (i = .barw b q ∧ (s.ctx c).arrivals[b].arrived = false)) →
    ∃ t, step s = .next t ∧ FrozenWith t c 0x02 9 ∧ (t.ctx c).regs = (s.ctx c).regs ∧ (t.ctx c).arrivals = (s.ctx c).arrivals)

/-- 05 R147, R148: a tag wait lets its bundle issue, with nothing changed, when some tag (WTANY) or every tag (WTALL) of its mask is
set; one that can no longer end raises ILLSEQ, detail 0x0A. -/
def Obligations.TagWaits : Prop :=
  (∀ (s : State) (m : SReg) (q : CtlQ) (n : Nat), s.scoreHit (.wtany m q) 1 = false →
    s.ic.spr.tags &&& s.waitMask m ≠ 0 →
    s.slotReady n (.wtany m q) = .go ∧ exec (.wtany m q) s = .next s) ∧
  (∀ (s : State) (m : SReg) (q : CtlQ) (n : Nat), s.scoreHit (.wtall m q) 1 = false →
    s.ic.spr.tags &&& s.waitMask m = s.waitMask m →
    s.slotReady n (.wtall m q) = .go ∧ exec (.wtall m q) s = .next s) ∧
  (∀ (s : State) (m : SReg) (q : CtlQ), s.scoreHit (.wtany m q) 1 = false →
    (s.ic.spr.tags ||| s.tagsInFlight s.iss.ctx) &&& s.waitMask m = 0 → Faults (.wtany m q) s 0x02 0x0A) ∧
  (∀ (s : State) (m : SReg) (q : CtlQ), s.scoreHit (.wtall m q) 1 = false →
    (s.ic.spr.tags ||| s.tagsInFlight s.iss.ctx) &&& s.waitMask m ≠ s.waitMask m → Faults (.wtall m q) s 0x02 0x0A)

/-- 05 R149, R153, 11 R311, 17 R467: TEND with no active level and an empty return stack makes the context drain, its levels idle;
SAFE alone in its bundle marks the safe point and makes a primary's latch invalid, and under an adjourn order of an elastic gang the
first member to reach one parks and sets the target. -/
def Obligations.TaskEndsAndSafePoints : Prop :=
  (∀ (s : State) (q : CtlQ), s.ic.ctl.nest = [] → s.ic.ctl.depth = 0 →
    exec (.tend q) s = .next (s.withCtx { s.ic with
      run := .drain, ctl := { s.ic.ctl with loops := s.ic.ctl.loops.map fun l => { l with st := .idle } } })) ∧
  (∀ (s : State) (q : CtlQ), s.ic.ctl.nest ≠ [] ∨ s.ic.ctl.depth ≠ 0 → Faults (.tend q) s 0x02 0x0B) ∧
  (∀ (s : State) (id : BitVec 16) (q : CtlQ) (g : Gang), ctlAlone s.iss.words = true → s.gangOf s.iss.ctx = some g →
    g.adjourn = false → s.ic.ctl.kind = .primary →
    ∃ t, exec (.safe id q) s = .next t ∧ t.ic = { s.ic with mark := s.tempo } ∧
      (t.core (coreOf s.iss.ctx)).latch.valid = false ∧ t.mem = s.mem ∧ t.gangs = s.gangs) ∧
  (∀ (s : State) (id : BitVec 16) (q : CtlQ) (g : Gang), ctlAlone s.iss.words = true →
    s.ic.gang = some g.id → s.gang? g.id = some g →
    g.adjourn = true → g.writing = false → g.kernel.tlen = none → g.target = none → s.ic.ctl.kind = .primary →
    ∃ t, exec (.safe id q) s = .next t ∧ t.ic.run = .parked ∧ t.ic.mark = s.tempo ∧ t.ic.regs = s.ic.regs ∧
      ∃ g', t.gang? g.id = some g' ∧ g'.target = some id) ∧
  (∀ (s : State) (id : BitVec 16) (q : CtlQ), ctlAlone s.iss.words = false → Faults (.safe id q) s 0x02 0x0D)

/-! ## Taking a fault -/

/-- 15 R406, R407, R410, R412, R416: what taking a fault does to the issuing context, where no other context froze in the same tempo: it
is frozen with cause, detail, address and the partition's next serial, SRV is set and SRES names the slot of re-entry, its registers stay, and the rest of the bundle does not
run; a fixed-length gang is held from the next tempo unless it is already; memory changes only in the context's freeze frame. 05 R155:
TRAP and BRK take their fault at slot 0 with SRES 1: cause 0x50 or 0x51 and the code as detail. The place of that frame in the freeze area is the model's choice (log entry 11). -/
def Obligations.FaultFreezesItsContext : Prop :=
  (∀ (s : State) (f : FaultInfo) (sres : Fin 8), s.Inv → s.frozeAlone s.iss.ctx →
    let t := s.faultAt f sres
    let c := s.iss.ctx
    t.iss = { s.iss with stop := true } ∧ (t.ctx c).run = .frozen ∧ (t.ctx c).regs = s.ic.regs ∧
    (t.ctx c).ctl = { s.ic.ctl with srv := true, sres := sres } ∧ (t.ctx c).hold = none ∧
    (t.part s.ic.part).serial = (s.part s.ic.part).serial + 1 ∧
    (∃ fr, (t.ctx c).frz = some fr ∧ fr.serial = (s.part s.ic.part).serial + 1 ∧ fr.cause = f.cause ∧ fr.detail = f.detail ∧
      fr.slot = s.iss.slot ∧ fr.faddr = f.faddr ∧ fr.at_ = s.tempo ∧ fr.cap = none ∧ fr.written = false) ∧
    (∀ c' : CtxId, c' ≠ c → t.ctx c' = s.ctx c') ∧
    (∀ (n : Nat) (g : Gang), s.ic.gang = some n → s.gang? n = some g → g.kernel.tlen ≠ none → s.ic.ctl.kind ≠ .second →
      ∃ g', t.gang? n = some g' ∧ g'.held = some (g.held.getD (s.tempo + 1))) ∧
    (∀ a : Nat, a < s.frameKey c ∨ s.frameKey c + 16384 ≤ a → readByte t.mem a = readByte s.mem a)) ∧
  (∀ (s : State) (code : BitVec 16) (q : CtlQ), s.frozeAlone s.iss.ctx →
    (∃ t, exec (.trap code q) s = .next t ∧ t.iss.stop = true ∧ t.ic.run = .frozen ∧
      t.ic.ctl = { s.ic.ctl with srv := true, sres := 1 } ∧ t.ic.regs = s.ic.regs ∧
      ∃ fr, t.ic.frz = some fr ∧ fr.cause = 0x50 ∧ fr.detail = code.toNat ∧ fr.serial = (s.part s.ic.part).serial + 1) ∧
    (∃ t, exec (.brk code q) s = .next t ∧ t.iss.stop = true ∧ t.ic.run = .frozen ∧
      t.ic.ctl = { s.ic.ctl with srv := true, sres := 1 } ∧ t.ic.regs = s.ic.regs ∧
      ∃ fr, t.ic.frz = some fr ∧ fr.cause = 0x51 ∧ fr.detail = code.toNat ∧ fr.serial = (s.part s.ic.part).serial + 1))

/-! ## Core accesses -/

/-- 07 R181, R185, R198 to R206, R210, 08 R224: a load, store, atomic or tag form, fixed or elastic, whose address lies in the core
scratchpad, is aligned and meets no race, commits an access that performs 2 tempo later at that address, and changes nothing else. -/
def Obligations.ScratchpadAccessCommits : Prop :=
  ∀ (i : Instr) (s : State) (r : MemRule), s.memRule i = some r → r.addr < 0x400000 → r.addr % r.bytes = 0 →
    s.scoreHit i (s.ic.tagLands (s.tempo + 2 + r.lat) r.tag - s.tempo) = false →
    s.racesOf s.iss.ctx (.scratch (coreOf s.iss.ctx)) (r.op 0).kind [(r.addr, r.addr + r.bytes - 1)] = none →
    s.elasticFree r.tag →
    ∃ ops : List Word, exec i s = .next (s.committing
      { due := s.tempo + 2, lat := r.lat, issued := s.tempo, banks := 0, sub := 0, tag := r.tag,
        op := r.op (keyScratch (coreOf s.iss.ctx) r.addr), pc := s.iss.pc, va := BitVec.ofNat 64 r.addr, ops := ops, discard := false })

/-- 07 R181, R186, R187: the same forms in the window of shared scratch, within the rows of the context's share: the access performs at
the first tempo that is at least 6 after issue, at which the core's rotation phase is the sub-bank of the address, and that lies
after every earlier access of the context that needs one of its banks. -/
def Obligations.SharedAccessCommits : Prop :=
  ∀ (i : Instr) (s : State) (r : MemRule) (o : Nat), s.memRule i = some r → r.addr = 0x4000000 + o → o < 0x8000000 →
    r.addr % r.bytes = 0 → o / 16384 < (s.rowsOf s.iss.ctx).2 →
    let p := s.planShared s.iss.ctx o r.bytes
    s.scoreHit i (s.ic.tagLands (p + 4) r.tag - s.tempo) = false →
    s.racesOf s.iss.ctx (.shared (coreOf s.iss.ctx)) (r.op 0).kind [(r.addr, r.addr + r.bytes - 1)] = none →
    s.elasticFree r.tag →
    (∃ ops : List Word, exec i s = .next (s.committing
      { due := p, lat := 4, issued := s.tempo, banks := banksOf o r.bytes, sub := subBankOf o, tag := r.tag,
        op := r.op (s.sharedKey s.iss.ctx (coreOf s.iss.ctx) o), pc := s.iss.pc, va := BitVec.ofNat 64 r.addr, ops := ops, discard := false })) ∧
    s.tempo + 6 ≤ p ∧ (p + s.iss.ctx.val / 2 % 32) % 32 = o / 512 % 32 ∧
    (∀ a ∈ s.ic.acc, a.banks &&& banksOf o r.bytes ≠ 0 → a.due < p) ∧
    (∀ q, s.tempo + 6 ≤ q → q < p → (q + s.iss.ctx.val / 2 % 32) % 32 = o / 512 % 32 →
      ∃ a ∈ s.ic.acc, a.banks &&& banksOf o r.bytes ≠ 0 ∧ q ≤ a.due)

/-- 07 R182, R193, R196: the elastic loads, stores and atomics in the translated space: the access joins those in flight with its
tag and virtual address, and its completion follows; memory and registers stay. -/
def Obligations.TranslatedAccessIsSent : Prop :=
  ∀ (i : Instr) (s : State) (r : MemRule) (t : Fin 64), s.memRule i = some r → r.tag = some t →
    2 ^ 32 ≤ r.addr → r.addr < 2 ^ 56 → r.addr % r.bytes = 0 → s.scoreHit i elasticLat = false →
    s.racesOf s.iss.ctx (.virt s.ic.spr.asid) (r.op 0).kind [(r.addr, r.addr + r.bytes - 1)] = none →
    s.elasticFree (some t) →
    ∃ u e, exec i s = .next u ∧ u.ic = { s.ic with elas := s.ic.elas ++ [e] } ∧ u.mem = s.mem ∧
      e.id = s.fresh ∧ e.tag = t ∧ e.va.toNat = r.addr ∧ e.bytes = r.bytes ∧ e.op = r.op r.addr ∧ e.stopped = false ∧
      e.issued = s.tempo ∧
      ∃ due, s.tempo < due ∧ (due, Instr.elasticAccessComplete s.iss.ctx s.fresh false) ∈ u.agenda

/-- 07 R207, R208: AORD in the translated space or in shared scratch joins the accesses in flight, and its contribution's arrival
follows; in the core scratchpad it raises ADDR, detail 0x05. -/
def Obligations.OrderedAtomicIsSent : Prop :=
  (∀ (s : State) (q base v : SReg) (t : Fin 64) (fl : Bool),
    let a := (s.rdS 1 base).toNat
    ((2 ^ 32 ≤ a ∧ a < 2 ^ 56 ∧
        s.racesOf s.iss.ctx (.virt s.ic.spr.asid) { rd := false, wr := true } [(a, a + (if fl then 4 else 8) - 1)] = none) ∨
      (0x4000000 ≤ a ∧ a < 0xC000000 ∧ (a - 0x4000000) / 16384 < (s.rowsOf s.iss.ctx).2 ∧
        s.racesOf s.iss.ctx (.shared (coreOf s.iss.ctx)) { rd := false, wr := true }
          [(a, a + (if fl then 4 else 8) - 1)] = none)) →
    a % (if fl then 4 else 8) = 0 → s.scoreHit (.aord q base v t fl) elasticLat = false → s.elasticFree (some t) →
    ∃ u e, exec (.aord q base v t fl) s = .next u ∧ u.ic = { s.ic with elas := s.ic.elas ++ [e] } ∧ u.mem = s.mem ∧
      e.tag = t ∧ e.va = s.rdS 1 base ∧
      e.op = .aord a fl ((s.rdS 0 q).truncate 32) ((s.rdS 0 q >>> 32).truncate 32) (s.rdS 2 v) ∧
      ∃ due, s.tempo < due ∧ (due, Instr.orderedAtomicArrival s.iss.ctx s.fresh) ∈ u.agenda) ∧
  (∀ (s : State) (q base v : SReg) (t : Fin 64) (fl : Bool), (s.rdS 1 base).toNat < 0x400000 →
    s.scoreHit (.aord q base v t fl) elasticLat = false → Faults (.aord q base v t fl) s 0x10 5)

/-- 07 R181, R182, R186, R200 to R202: an address above 56 bits raises ADDR, detail 0x01, one in a reserved window detail 0x02, a
fixed-latency form in the translated space detail 0x03, an address beyond the context's rows of shared scratch detail 0x04; an address
that is no multiple of the access's bytes raises ALIGN. VST, VGTH and VSCT do the same; for VGTH and VSCT a base outside the core
scratchpad is detail 0x05, an element beyond it detail 0x04. 08 R233: what races with a command takes the fault of that race. -/
def Obligations.AccessFaults : Prop :=
  (∀ (i : Instr) (s : State) (r : MemRule), s.memRule i = some r →
    s.scoreHit i (if r.tag.isSome then elasticLat else r.lat + 2) = false →
    (2 ^ 56 ≤ r.addr → Faults i s 0x10 1) ∧
    (0x400000 ≤ r.addr → r.addr < 0x4000000 → Faults i s 0x10 2) ∧
    (0xC000000 ≤ r.addr → r.addr < 2 ^ 32 → Faults i s 0x10 2) ∧
    (2 ^ 32 ≤ r.addr → r.addr < 2 ^ 56 → r.tag = none → Faults i s 0x10 3) ∧
    (0x4000000 ≤ r.addr → r.addr < 0xC000000 → r.addr % r.bytes = 0 →
      (s.rowsOf s.iss.ctx).2 ≤ (r.addr - 0x4000000) / 16384 → Faults i s 0x10 4) ∧
    (r.addr < 0x400000 ∨ (0x4000000 ≤ r.addr ∧ r.addr < 0xC000000) ∨
        (2 ^ 32 ≤ r.addr ∧ r.addr < 2 ^ 56 ∧ r.tag.isSome = true) →
      r.addr % r.bytes ≠ 0 → Faults i s 0x13 1)) ∧
  (∀ (i : Instr) (s : State) (r : MemRule) (f : FaultInfo), s.memRule i = some r → r.addr < 0x400000 → r.addr % r.bytes = 0 →
    s.scoreHit i (s.ic.tagLands (s.tempo + 2 + r.lat) r.tag - s.tempo) = false →
    (∀ t, r.tag = some t → s.tagHeld s.iss.ctx t = false) →
    s.racesOf s.iss.ctx (.scratch (coreOf s.iss.ctx)) (r.op 0).kind [(r.addr, r.addr + r.bytes - 1)] = some f →
    Faults i s f.cause f.detail) ∧
  (∀ (s : State) (v : VReg) (base : SReg) (m : Fin 8) (e : ESize) (off : BitVec 9),
    let a := addressOf (s.rdS 1 base) off.toInt 512
    let i : Instr := .vst v base m e off
    s.scoreHit i 4 = false →
    (2 ^ 56 ≤ a → Faults i s 0x10 1) ∧
    ((0x400000 ≤ a ∧ a < 0x4000000) ∨ (0xC000000 ≤ a ∧ a < 2 ^ 32) → Faults i s 0x10 2) ∧
    (2 ^ 32 ≤ a → a < 2 ^ 56 → Faults i s 0x10 3) ∧
    (0x4000000 ≤ a → a < 0xC000000 → a % 512 = 0 → (s.rowsOf s.iss.ctx).2 ≤ (a - 0x4000000) / 16384 → Faults i s 0x10 4) ∧
    (a < 0x400000 ∨ (0x4000000 ≤ a ∧ a < 0xC000000) → a % 512 ≠ 0 → Faults i s 0x13 1) ∧
    ∀ f, a < 0x400000 → a % 512 = 0 →
      s.racesOf s.iss.ctx (.scratch (coreOf s.iss.ctx)) { rd := false, wr := true }
        (maskSpans a (predMask (ESize.bits e) (s.rdP 2 m))) = some f → Faults i s f.cause f.detail) ∧
  (∀ (s : State) (v x : VReg) (base : SReg) (m : Fin 8) (e : ESize), e ≠ .b4 →
    let n := ESize.bits e / 8
    let inside (b : Word) (idx : VWord) (p : PWord) : Prop := b.toNat < 0x400000 ∧ b.toNat % n = 0 ∧
      ∀ j, j < 128 → p.getLsbD j = true → elementAt b idx n j ≤ 0x3FFFFF
    (s.scoreHit (.vgth v base x m e) 6 = false →
      let idx := s.rdV 1 (ESize.bits e) x
      GatherFaults (.vgth v base x m e) s (s.rdS 0 base) idx (s.rdP 2 m) n ∧
      ∀ f, inside (s.rdS 0 base) idx (s.rdP 2 m) →
        s.racesOf s.iss.ctx (.scratch (coreOf s.iss.ctx)) { rd := true, wr := false }
          (elementSpans (s.rdS 0 base) idx (s.rdP 2 m) n) = some f → Faults (.vgth v base x m e) s f.cause f.detail) ∧
    (s.scoreHit (.vsct v base x m e) 6 = false →
      let idx := s.rdV 2 (ESize.bits e) x
      GatherFaults (.vsct v base x m e) s (s.rdS 1 base) idx (s.rdP 3 m) n ∧
      ∀ f, inside (s.rdS 1 base) idx (s.rdP 3 m) →
        s.racesOf s.iss.ctx (.scratch (coreOf s.iss.ctx)) { rd := false, wr := true }
          (elementSpans (s.rdS 1 base) idx (s.rdP 3 m) n) = some f → Faults (.vsct v base x m e) s f.cause f.detail))

/-- 07 R187, R201 to R203, 08 R233: VST, in the core scratchpad and in shared scratch, stores the bits that the predicate selects, element
by element; VGTH and VSCT in the core scratchpad address element j of 128 by base + index × element bytes, where the predicate selects it.
Each commits where none of its bytes races with a command. -/
def Obligations.VectorAccessCommits : Prop :=
  (∀ (s : State) (v : VReg) (base : SReg) (m : Fin 8) (e : ESize) (off : BitVec 9),
    let a := addressOf (s.rdS 1 base) off.toInt 512
    let spans := maskSpans a (predMask (ESize.bits e) (s.rdP 2 m))
    let stored (due lat : Nat) (banks : BitVec 32) (sub key : Nat) : Prop :=
      ∃ mask : VWord, exec (.vst v base m e off) s = .next (s.committing
          { due := due, lat := lat, issued := s.tempo, banks := banks, sub := sub, tag := none,
            op := .vstore key (s.rdV 0 (ESize.bits e) v) mask, pc := s.iss.pc,
            va := BitVec.ofNat 64 a, ops := [], discard := false }) ∧
        ∀ b, b < 4096 → mask.getLsbD b = (s.rdP 2 m).getLsbD (b / ESize.bits e)
    a % 512 = 0 →
    (a < 0x400000 → s.scoreHit (.vst v base m e off) 4 = false →
      s.racesOf s.iss.ctx (.scratch (coreOf s.iss.ctx)) { rd := false, wr := true } spans = none →
      stored (s.tempo + 2) 2 0 0 (keyScratch (coreOf s.iss.ctx) a)) ∧
    ∀ o, a = 0x4000000 + o → o < 0x8000000 → o / 16384 < (s.rowsOf s.iss.ctx).2 →
      let p := s.planShared s.iss.ctx o 512
      s.scoreHit (.vst v base m e off) (p + 4 - s.tempo) = false →
      s.racesOf s.iss.ctx (.shared (coreOf s.iss.ctx)) { rd := false, wr := true } spans = none →
      stored p 4 (banksOf o 512) (subBankOf o) (s.sharedKey s.iss.ctx (coreOf s.iss.ctx) o)) ∧
  (∀ (s : State) (v i : VReg) (base : SReg) (m : Fin 8) (e : ESize),
    let n := ESize.bits e / 8
    let b := (s.rdS 0 base).toNat
    let at_ (j : Nat) := elementAt (s.rdS 0 base) (s.rdV 1 (ESize.bits e) i) n j
    e ≠ .b4 → b < 0x400000 → b % n = 0 → s.scoreHit (.vgth v base i m e) 6 = false →
    (∀ j, j < 128 → (s.rdP 2 m).getLsbD j = true → at_ j ≤ 0x3FFFFF) →
    s.racesOf s.iss.ctx (.scratch (coreOf s.iss.ctx)) { rd := true, wr := false }
      (elementSpans (s.rdS 0 base) (s.rdV 1 (ESize.bits e) i) (s.rdP 2 m) n) = none →
    ∃ keys : List (Option Nat), exec (.vgth v base i m e) s = .next (s.committing
        { due := s.tempo + 2, lat := 4, issued := s.tempo, banks := 0, sub := 0, tag := none, op := .gather n keys v,
          pc := s.iss.pc, va := s.rdS 0 base, ops := [],
          discard := false }) ∧
      keys.length = 128 ∧
      ∀ j, j < 128 → keys[j]? =
        some (if (s.rdP 2 m).getLsbD j then some (keyScratch (coreOf s.iss.ctx) (at_ j)) else none)) ∧
  (∀ (s : State) (v i : VReg) (base : SReg) (m : Fin 8) (e : ESize),
    let n := ESize.bits e / 8
    let b := (s.rdS 1 base).toNat
    let at_ (j : Nat) := elementAt (s.rdS 1 base) (s.rdV 2 (ESize.bits e) i) n j
    e ≠ .b4 → b < 0x400000 → b % n = 0 → s.scoreHit (.vsct v base i m e) 6 = false →
    (∀ j, j < 128 → (s.rdP 3 m).getLsbD j = true → at_ j ≤ 0x3FFFFF) →
    s.racesOf s.iss.ctx (.scratch (coreOf s.iss.ctx)) { rd := false, wr := true }
      (elementSpans (s.rdS 1 base) (s.rdV 2 (ESize.bits e) i) (s.rdP 3 m) n) = none →
    ∃ items : List (Nat × Nat), exec (.vsct v base i m e) s = .next (s.committing
        { due := s.tempo + 2, lat := 4, issued := s.tempo, banks := 0, sub := 0, tag := none, op := .scatter n items,
          pc := s.iss.pc, va := s.rdS 1 base, ops := [],
          discard := false }) ∧
      items = ((List.range 128).filter fun j => (s.rdP 3 m).getLsbD j).map fun j =>
        (keyScratch (coreOf s.iss.ctx) (at_ j), lane (s.rdV 0 (ESize.bits e) v).toNat (ESize.bits e) j))

/-- 07 R185, R187, R199, R202, R203, R205, 08 R222: the one access of a running context performs at its tempo, while no bank that it needs
is under test or mapped out: a store writes the bytes at its key and no other, a load leaves memory as it is and sets its value,
extended, to land, an atomic does both, a vector store changes the bits of its mask, a gather collects its elements and a scatter stores
them, the last that meets a byte winning, and a tag write sets the block's tag. 07 R197: one that meets a block with an uncorrectable
error leaves memory as it is and a deferred ECC condition, and a load lands 0. 08 R224: an elastic load, store or atomic in a local
window does the same and ends under its tag, while its gang is held too (15 R407). -/
def Obligations.AccessPerforms : Prop :=
  (∀ (s : State) (c : CtxId) (a : Access), s.Inv → (s.ctx c).acc = [a] → a.due = s.tempo → s.heldCtx c = false → a.tag = none →
    a.discard = false → (s.ctx c).frz = none → s.testedBanks c = 0 →
    (s.core (coreOf c)).ports.1 < s.tempo → s.sound a.op.touched →
    ∃ t, exec (.fixedStorePerform c) s = .next t ∧ (t.ctx c).acc = [] ∧ (t.ctx c).regs = (s.ctx c).regs ∧
      (∀ k n v, a.op = .store k n v → readN t.mem k n = v % 256 ^ n ∧ t.tags = s.tags ∧ (t.ctx c).pend = (s.ctx c).pend ∧
        ∀ x, x < k ∨ k + n ≤ x → readByte t.mem x = readByte s.mem x) ∧
      (∀ k n sx d, a.op = .load k n sx d → t.mem = s.mem ∧ t.tags = s.tags ∧
        (t.ctx c).pend = (s.ctx c).pend ++ [s.loadLanding a (.s d (some .ld)
          (if sx then (BitVec.ofNat (8 * n) (readN s.mem k n)).signExtend 64 else BitVec.ofNat 64 (readN s.mem k n)))]) ∧
      (∀ k o ty x ex d, a.op = .atom k o ty x ex d →
        readN t.mem k ty.bytes = atomApply o ty (readN s.mem k ty.bytes) x.toNat ex.toNat % 256 ^ ty.bytes ∧
        (∀ y, y < k ∨ k + ty.bytes ≤ y → readByte t.mem y = readByte s.mem y) ∧
        (t.ctx c).pend = (s.ctx c).pend ++ [s.loadLanding a (.s d (some .ld) (atomResult ty (readN s.mem k ty.bytes)))]) ∧
      (∀ k d, a.op = .vload k d → t.mem = s.mem ∧
        (t.ctx c).pend = (s.ctx c).pend ++ [s.loadLanding a (.v [(d, BitVec.ofNat 4096 (readN s.mem k 512))] (some .ld))]) ∧
      (∀ k v mask, a.op = .vstore k v mask →
        (∀ j b, j < 512 → b < 8 → (readByte t.mem (k + j)).getLsbD b =
          if mask.getLsbD (8 * j + b) then v.getLsbD (8 * j + b) else (readByte s.mem (k + j)).getLsbD b) ∧
        ∀ x, x < k ∨ k + 512 ≤ x → readByte t.mem x = readByte s.mem x) ∧
      (∀ e keys d, a.op = .gather e keys d → 8 * e * keys.length ≤ 4096 → t.mem = s.mem ∧
        ∃ v : VWord, (t.ctx c).pend = (s.ctx c).pend ++ [s.loadLanding a (.v [(d, v)] (some .ld))] ∧
          (∀ j, j < keys.length → lane v.toNat (8 * e) j =
            match keys[j]? with | some (some k) => readN s.mem k e | _ => 0) ∧
          ∀ k, 8 * e * keys.length ≤ k → v.getLsbD k = false) ∧
      (∀ e items, a.op = .scatter e items → (t.ctx c).pend = (s.ctx c).pend ∧
        ∀ x, readByte t.mem x =
          match items.reverse.find? fun i => decide (i.1 ≤ x) && decide (x < i.1 + e) with
          | some i => BitVec.ofNat 8 (i.2 / 256 ^ (x - i.1))
          | none => readByte s.mem x) ∧
      (∀ b v, a.op = .tagWrite b v → b % 64 = 0 → t.mem = s.mem ∧ t.tagOf b = v) ∧
      (∀ b d, a.op = .tagRead b d → b % 64 = 0 → t.mem = s.mem ∧
        (t.ctx c).pend = (s.ctx c).pend ++ [s.loadLanding a (.s d none ((s.tagOf b).zeroExtend 64))])) ∧
  (∀ (s : State) (c : CtxId) (a : Access) (b : Nat), (s.ctx c).acc = [a] → a.due = s.tempo → s.heldCtx c = false → a.tag = none →
    a.discard = false → s.testedBanks c = 0 →
    (s.core (coreOf c)).ports.1 < s.tempo → s.eccIn a.op.touched = some b → (s.ctx c).frz = none →
    ∃ t d, exec (.fixedStorePerform c) s = .next t ∧ t.mem = s.mem ∧ t.tags = s.tags ∧ (t.ctx c).acc = [] ∧
      (t.ctx c).regs = (s.ctx c).regs ∧ (t.ctx c).defer = (s.ctx c).defer ++ [d] ∧ d.cause = 0x40 ∧ d.detail = eccDetail b ∧
      (∀ k n v, a.op = .store k n v → (t.ctx c).pend = (s.ctx c).pend) ∧
      (∀ k n sx x, a.op = .load k n sx x → (t.ctx c).pend = (s.ctx c).pend ++ [s.loadLanding a (.s x (some .ld) 0)])) ∧
  (∀ (s : State) (c : CtxId) (a : Access) (tag : Fin 64), s.Inv → (s.ctx c).acc = [a] → a.due = s.tempo → a.tag = some tag →
    a.discard = false → (s.ctx c).frz = none → s.testedBanks c = 0 → (s.core (coreOf c)).ports.1 < s.tempo → s.sound a.op.touched →
    ∃ t, exec (.fixedStorePerform c) s = .next t ∧ (t.ctx c).acc = [] ∧ (t.ctx c).regs = (s.ctx c).regs ∧
      (∀ k n sx d, a.op = .load k n sx d → t.mem = s.mem ∧
        (t.ctx c).pend = (s.ctx c).pend ++ [s.loadLanding a (.tag tag (some d)
          (if sx then (BitVec.ofNat (8 * n) (readN s.mem k n)).signExtend 64 else BitVec.ofNat 64 (readN s.mem k n)))]) ∧
      (∀ k n v, a.op = .store k n v → readN t.mem k n = v % 256 ^ n ∧
        (∀ x, x < k ∨ k + n ≤ x → readByte t.mem x = readByte s.mem x) ∧
        (t.ctx c).pend = (s.ctx c).pend ++ [s.loadLanding a (.tag tag none 0)]) ∧
      ∀ k o ty x ex d, a.op = .atom k o ty x ex d →
        readN t.mem k ty.bytes = atomApply o ty (readN s.mem k ty.bytes) x.toNat ex.toNat % 256 ^ ty.bytes ∧
        (∀ y, y < k ∨ k + ty.bytes ≤ y → readByte t.mem y = readByte s.mem y) ∧
        (t.ctx c).pend = (s.ctx c).pend ++ [s.loadLanding a (.tag tag (some d) (atomResult ty (readN s.mem k ty.bytes)))])

/-- 07 R205: what an atomic leaves in its word and what it returns, for words of 64 bits, and the sign extension of 32-bit ones. -/
def Obligations.AtomicOperations : Prop :=
  ∀ old x ex : Word,
    atomApply .add .i64 old.toNat x.toNat ex.toNat = (old + x).toNat ∧
    atomApply .xch .i64 old.toNat x.toNat ex.toNat = x.toNat ∧
    atomApply .and .i64 old.toNat x.toNat ex.toNat = (old &&& x).toNat ∧
    atomApply .or .i64 old.toNat x.toNat ex.toNat = (old ||| x).toNat ∧
    (atomApply .min .i64 old.toNat x.toNat ex.toNat : Int) = (if x.toInt < old.toInt then x else old).toNat ∧
    (atomApply .max .i64 old.toNat x.toNat ex.toNat : Int) = (if old.toInt < x.toInt then x else old).toNat ∧
    atomApply .cas .i64 old.toNat x.toNat ex.toNat = (if old = ex then x else old).toNat ∧
    atomResult .i64 old.toNat = old ∧
    (∀ w : BitVec 32, atomResult .i32 w.toNat = w.signExtend 64) ∧
    (∀ w : BitVec 32, atomApply .add .i32 w.toNat x.toNat ex.toNat = (w + x.truncate 32).toNat)

/-- 07 R209, R219, 08 R234 to R236: a fence lets its bundle issue when its set has reached its state; of CORE, CLUS or DIE scope it then
changes nothing, of PKG and SYS scope it completes the TLBIs of the context on the other cores. A TLBI drops the entries that it names
from its core's TLB, and stays with the context for that fence when its scope is wider; ALL needs a second, ASID of another address
space too, else they raise PRIV, detail 0x01. -/
def Obligations.FencesAndTlbis : Prop :=
  (∀ (s : State) (sc : FScope) (k : FKind) (n : Nat), s.fenceMet s.iss.ctx sc k = true → s.slotReady n (.fence sc k) = .go) ∧
  (∀ (s : State) (k : FKind), exec (.fence .core k) s = .next s ∧ exec (.fence .clus k) s = .next s ∧
    exec (.fence .die k) s = .next s ∧
    (s.ic.acc = [] → s.ic.elas = [] → s.fenceMet s.iss.ctx .die k = true)) ∧
  (∀ (s : State) (sc : FScope) (k : FKind), ∃ t, exec (.fence sc k) s = .next t ∧ t.mem = s.mem ∧ t.ic.regs = s.ic.regs ∧
    (sc = .pkg ∨ sc = .sys → t.ic.tlbi = [] ∧
      ∀ (w : TlbiWhat) (sc' : TlbScope), (w, sc') ∈ s.ic.tlbi → ∀ core : CoreId, (s.part s.ic.part).hasCore core = true →
        (sc' = .part ∨ dieOf core = dieOf (coreOf s.iss.ctx)) → ∀ e ∈ (t.core core).tlb, e.stale s.ic.part w = false)) ∧
  (∀ (s : State) (a : SReg) (sc : TlbScope), s.ic.ctl.kind = .second → s.scoreHit (.tlbiAll a sc) 1 = false →
    ∃ t, exec (.tlbiAll a sc) s = .next t ∧ (∀ e ∈ (t.core (coreOf s.iss.ctx)).tlb, e.part ≠ s.ic.part) ∧
      t.ic.tlbi = (if sc = .core then s.ic.tlbi else s.ic.tlbi ++ [(.all, sc)]) ∧ t.mem = s.mem) ∧
  (∀ (s : State) (a : SReg) (sc : TlbScope), s.ic.ctl.kind ≠ .second → Faults (.tlbiAll a sc) s 0x03 1) ∧
  (∀ (s : State) (a : SReg) (sc : TlbScope), s.scoreHit (.tlbiAsid a sc) 1 = false →
    (s.ic.ctl.kind = .second ∨ (s.rdS 0 a).truncate 14 = s.ic.spr.asid) →
    ∃ t, exec (.tlbiAsid a sc) s = .next t ∧
      (∀ e, e ∈ (t.core (coreOf s.iss.ctx)).tlb ↔
        e ∈ (s.core (coreOf s.iss.ctx)).tlb ∧ ¬(e.part = s.ic.part ∧ e.asid = (s.rdS 0 a).truncate 14)) ∧
      t.ic.tlbi = (if sc = .core then s.ic.tlbi else s.ic.tlbi ++ [(.asid ((s.rdS 0 a).truncate 14), sc)]) ∧ t.mem = s.mem) ∧
  (∀ (s : State) (a : SReg) (sc : TlbScope), s.scoreHit (.tlbiAsid a sc) 1 = false → s.ic.ctl.kind ≠ .second →
    (s.rdS 0 a).truncate 14 ≠ s.ic.spr.asid → Faults (.tlbiAsid a sc) s 0x03 1) ∧
  (∀ (s : State) (a : SReg) (sc : TlbScope), s.scoreHit (.tlbiPage a sc) 1 = false →
    ∃ t, exec (.tlbiPage a sc) s = .next t ∧
      (∀ e, e ∈ (t.core (coreOf s.iss.ctx)).tlb ↔
        e ∈ (s.core (coreOf s.iss.ctx)).tlb ∧ e.hits s.ic.part s.ic.spr.asid (s.rdS 0 a).toNat = false) ∧
      t.ic.tlbi = (if sc = .core then s.ic.tlbi else s.ic.tlbi ++ [(.page s.ic.spr.asid (s.rdS 0 a), sc)]) ∧ t.mem = s.mem)

/-! ## Vector operations -/

/-- 04 R94 to R96, R103 to R106, 09 R251: a container of a plain integer type holds its two's complement or unsigned value; one of a
narrow type holds its low WIDTH bits, filled by sign or zeros, and with SUBST the most negative code reads as the number above it;
writing a number keeps it modulo 2 to the width. Rounding gives back, with no flag, every finite value that a float format holds,
whatever the rounding and saturation modes, and a NaN as the format's one NaN. -/
def Obligations.NumbersInContainers : Prop :=
  (∀ (nf : NarrowFmt) (t : VType) (x : Nat), t.isInt = true → x < 2 ^ t.bits →
    readNum nf t x = (if t.isSigned ∧ 2 ^ (t.bits - 1) ≤ x then (x : Int) - (2 ^ t.bits : Nat) else x) ∧
    ∀ z : Int, (writeNum nf t z : Int) = z % (2 ^ t.bits : Nat)) ∧
  (∀ (nf : NarrowFmt) (t : VType) (z : Int), t.isNarrow = true → 1 ≤ nf.width → nf.width ≤ t.bits →
    writeNum nf t z < 2 ^ t.bits ∧ ((writeNum nf t z : Int) - z) % (2 ^ nf.width : Nat) = 0 ∧
    (nf.sgn = false → (writeNum nf t z : Int) = z % (2 ^ nf.width : Nat)) ∧
    (nf.sgn = true → -(2 ^ (nf.width - 1) : Nat) ≤ z → z < (2 ^ (nf.width - 1) : Nat) →
      readNum nf t (writeNum nf t z) = if nf.subst = true ∧ z = -(2 ^ (nf.width - 1) : Nat) then z + 1 else z)) ∧
  (∀ (t : VType) (rm : Rm) (sat : SatMode) (x : Nat), t.isFloat = true → x < 2 ^ t.bits →
    (∀ n m e, (FloatFmt.of t).decode x = .fin n m e → (FloatFmt.of t).deliver rm sat (.fin n m e) = (x, 0)) ∧
    ((FloatFmt.of t).decode x = .nan → (FloatFmt.of t).deliver rm sat .nan = ((FloatFmt.of t).nan, 0)))

/-- 09 R245, R251, R254, 10 R276, R277: VADD, VSUB, VMUL, VMIN, VMAX, VABS, VNEG and VDIV by element. -/
def Obligations.VectorArithmetic : Prop :=
  ∀ (s : State) (d a b : VReg) (m : Fin 8) (t : VType), s.fmtOk t →
    let x := s.elem 0 t a
    let y := s.elem 1 t b
    let zero : Nat → Nat := fun _ => 0
    (s.scoreHit (.vadd d a b m t) 2 = false →
      VectorResult (.vadd d a b m t) s 2 d t.bits t.count (s.rdP 2 m)
        (fun j => s.numOut t (readNum s.nf t (x j) + readNum s.nf t (y j)) (fAdd (fval t (x j)) (fval t (y j)))) zero []) ∧
    (s.scoreHit (.vsub d a b m t) 2 = false →
      VectorResult (.vsub d a b m t) s 2 d t.bits t.count (s.rdP 2 m)
        (fun j => s.numOut t (readNum s.nf t (x j) - readNum s.nf t (y j)) (fAdd (fval t (x j)) (fval t (y j)).negate)) zero []) ∧
    (s.scoreHit (.vmul d a b m t) 4 = false →
      VectorResult (.vmul d a b m t) s 4 d t.bits t.count (s.rdP 2 m)
        (fun j => s.numOut t (readNum s.nf t (x j) * readNum s.nf t (y j)) (fMul (fval t (x j)) (fval t (y j)))) zero []) ∧
    (t.isFloat = false → s.scoreHit (.vmin d a b m t) 2 = false →
      VectorResult (.vmin d a b m t) s 2 d t.bits t.count (s.rdP 2 m)
        (fun j => (writeNum s.nf t (min (readNum s.nf t (x j)) (readNum s.nf t (y j))), 0)) zero []) ∧
    (t.isFloat = false → s.scoreHit (.vmax d a b m t) 2 = false →
      VectorResult (.vmax d a b m t) s 2 d t.bits t.count (s.rdP 2 m)
        (fun j => (writeNum s.nf t (max (readNum s.nf t (x j)) (readNum s.nf t (y j))), 0)) zero []) ∧
    (t.isFloat = true → s.scoreHit (.vmin d a b m t) 2 = false →
      VectorResult (.vmin d a b m t) s 2 d t.bits t.count (s.rdP 2 m)
        (fun j => ((FloatFmt.of t).minMax false (x j) (y j), 0)) zero []) ∧
    (t.isFloat = true → s.scoreHit (.vmax d a b m t) 2 = false →
      VectorResult (.vmax d a b m t) s 2 d t.bits t.count (s.rdP 2 m)
        (fun j => ((FloatFmt.of t).minMax true (x j) (y j), 0)) zero []) ∧
    (t.isFloat = false → s.scoreHit (.vabs d a m t) 2 = false →
      VectorResult (.vabs d a m t) s 2 d t.bits t.count (s.rdP 1 m)
        (fun j => (writeNum s.nf t (if readNum s.nf t (x j) < 0 then -readNum s.nf t (x j) else readNum s.nf t (x j)), 0)) zero []) ∧
    (t.isFloat = false → s.scoreHit (.vneg d a m t) 2 = false →
      VectorResult (.vneg d a m t) s 2 d t.bits t.count (s.rdP 1 m)
        (fun j => (writeNum s.nf t (-readNum s.nf t (x j)), 0)) zero []) ∧
    (t.isFloat = true → s.scoreHit (.vabs d a m t) 2 = false →
      VectorResult (.vabs d a m t) s 2 d t.bits t.count (s.rdP 1 m)
        (fun j => (if (fval t (x j)).isNan then (FloatFmt.of t).nan else x j % 2 ^ (t.bits - 1), 0)) zero []) ∧
    (t.isFloat = true → s.scoreHit (.vneg d a m t) 2 = false →
      VectorResult (.vneg d a m t) s 2 d t.bits t.count (s.rdP 1 m)
        (fun j => (if (fval t (x j)).isNan then (FloatFmt.of t).nan else x j ^^^ 2 ^ (t.bits - 1), 0)) zero []) ∧
    (t = .fp32 → s.scoreHit (.vdiv d a b m) 12 = false →
      VectorResult (.vdiv d a b m) s 12 d 32 128 (s.rdP 2 m)
        (fun j => floatOut .fp32 s.iss.sat (fDiv (fval .fp32 (x j)) (fval .fp32 (y j)))) zero [])

/-- 09 R245, R255, R257: VFMA, VFMS, VFNMA and VDOT4 read their destination, and an inactive element of it stays. -/
def Obligations.VectorFused : Prop :=
  ∀ (s : State) (d a b : VReg) (m : Fin 8) (t : VType), s.fmtOk t →
    let z := s.elem 0 t d
    let x := s.elem 1 t a
    let y := s.elem 2 t b
    let n := readNum s.nf t
    let f := fval t
    (s.scoreHit (.vfma d a b m t) 4 = false →
      VectorResult (.vfma d a b m t) s 4 d t.bits t.count (s.rdP 3 m)
        (fun j => s.numOut t (n (x j) * n (y j) + n (z j)) (fFma (f (x j)) (f (y j)) (f (z j)))) z []) ∧
    (s.scoreHit (.vfms d a b m t) 4 = false →
      VectorResult (.vfms d a b m t) s 4 d t.bits t.count (s.rdP 3 m)
        (fun j => s.numOut t (n (x j) * n (y j) - n (z j)) (fFma (f (x j)) (f (y j)) (f (z j)).negate)) z []) ∧
    (s.scoreHit (.vfnma d a b m t) 4 = false →
      VectorResult (.vfnma d a b m t) s 4 d t.bits t.count (s.rdP 3 m)
        (fun j => s.numOut t (n (z j) - n (x j) * n (y j)) (fFma (f (x j)).negate (f (y j)) (f (z j)))) z []) ∧
    (t.bits = 8 → t.isFloat = false → s.scoreHit (.vdot4 d a b m t) 4 = false →
      VectorResult (.vdot4 d a b m t) s 4 d 32 128 (s.rdP 3 m)
        (fun j => ((((s.elem 0 .u32 d j : Int) + n (x (4 * j)) * n (y (4 * j)) + n (x (4 * j + 1)) * n (y (4 * j + 1))
          + n (x (4 * j + 2)) * n (y (4 * j + 2)) + n (x (4 * j + 3)) * n (y (4 * j + 3))) % (2 ^ 32 : Nat)).toNat, 0))
        (s.elem 0 .u32 d) []) ∧
    (t.bits = 8 → t.isFloat = true → s.scoreHit (.vdot4 d a b m t) 4 = false →
      VectorResult (.vdot4 d a b m t) s 4 d 32 128 (s.rdP 3 m)
        (fun j => dot4El s.nf s.iss.sat t (fun k => x (4 * j + k)) (fun k => y (4 * j + k)) (s.elem 0 .u32 d j))
        (s.elem 0 .u32 d) [])

/-- 09 R258 to R261: VAND, VOR and VXOR on containers, VSHL, VSHR and VSAR on numbers by a count in the container, VSEL, VMOV and
VBCST. -/
def Obligations.VectorLogicAndMoves : Prop :=
  ∀ (s : State) (d a b : VReg) (r : SReg) (m : Fin 8) (t : VType),
    let x := s.elem 0 t a
    let y := s.elem 1 t b
    let w := numWidth s.nf t
    let zero : Nat → Nat := fun _ => 0
    (s.scoreHit (.vand d a b m t) 2 = false →
      VectorResult (.vand d a b m t) s 2 d t.bits t.count (s.rdP 2 m) (fun j => (x j &&& y j, 0)) zero []) ∧
    (s.scoreHit (.vor d a b m t) 2 = false →
      VectorResult (.vor d a b m t) s 2 d t.bits t.count (s.rdP 2 m) (fun j => (x j ||| y j, 0)) zero []) ∧
    (s.scoreHit (.vxor d a b m t) 2 = false →
      VectorResult (.vxor d a b m t) s 2 d t.bits t.count (s.rdP 2 m) (fun j => (x j ^^^ y j, 0)) zero []) ∧
    (s.fmtOk t → t.isFloat = false → s.scoreHit (.vshl d a b m t) 2 = false →
      VectorResult (.vshl d a b m t) s 2 d t.bits t.count (s.rdP 2 m)
        (fun j => (if w ≤ y j then 0 else writeNum s.nf t (x j * 2 ^ y j : Nat), 0)) zero []) ∧
    (s.fmtOk t → t.isFloat = false → s.scoreHit (.vshr d a b m t) 2 = false →
      VectorResult (.vshr d a b m t) s 2 d t.bits t.count (s.rdP 2 m)
        (fun j => (if w ≤ y j then 0 else writeNum s.nf t (x j % 2 ^ w / 2 ^ y j : Nat), 0)) zero []) ∧
    (s.fmtOk t → t.isFloat = false → s.scoreHit (.vsar d a b m t) 2 = false →
      VectorResult (.vsar d a b m t) s 2 d t.bits t.count (s.rdP 2 m)
        (fun j => (writeNum s.nf t (signedOf w (x j) / (2 ^ min (y j) w : Nat)), 0)) zero []) ∧
    (s.scoreHit (.vsel d a b m t) 2 = false →
      VectorResult (.vsel d a b m t) s 2 d t.bits t.count (s.rdP 2 m) (fun j => (x j, 0)) y []) ∧
    (s.scoreHit (.vmov d a m t) 2 = false →
      VectorResult (.vmov d a m t) s 2 d t.bits t.count (s.rdP 1 m) (fun j => (x j, 0)) zero []) ∧
    (s.scoreHit (.vbcst d r m t) 2 = false →
      VectorResult (.vbcst d r m t) s 2 d t.bits t.count (s.rdP 1 m) (fun _ => ((s.rdS 0 r).toNat % 2 ^ t.bits, 0)) zero [])

/-- 09 R260, R272, R273, R246: VCMP sets bit j of its predicate where element j is active and the condition holds, and no other: integers
compare by their type's numbers, floating-point values as exact numbers, with a NaN operand NE and UN alone hold, and NV is set where an
active one meets an ordered condition; PAND, POR,
PXOR and PNOT work on all bits; PCNT counts the bits of the type's elements. -/
def Obligations.PredicateResults : Prop :=
  (∀ (s : State) (c : Cond) (p m : Fin 8) (a b : VReg) (t : VType), s.fmtOk t → s.scoreHit (.vcmp c p a b m t) 2 = false →
    ∃ (r : PWord) (fl : BitVec 7), exec (.vcmp c p a b m t) s = .next (s.landing 2 [.p p r, .fps fl]) ∧
      (∀ j, t.count ≤ j → r.getLsbD j = false) ∧
      (t.isFloat = false → fl = 0 ∧ ∀ j, j < t.count →
        (r.getLsbD j = true ↔ (s.rdP 2 m).getLsbD j = true ∧
          (let u := readNum s.nf t (s.elem 0 t a j)
           let v := readNum s.nf t (s.elem 1 t b j)
           match c with
           | .eq => u = v | .ne => u ≠ v | .lt => u < v | .le => u ≤ v | .gt => v < u | .ge => v ≤ u | .un => False))) ∧
      (t.isFloat = true → ∀ j, j < t.count →
        (((fval t (s.elem 0 t a j)).isNan = true ∨ (fval t (s.elem 1 t b j)).isNan = true) →
          (r.getLsbD j = true ↔ (s.rdP 2 m).getLsbD j = true ∧ (c = .ne ∨ c = .un))) ∧
        (((fval t (s.elem 0 t a j)).isNan = false ∧ (fval t (s.elem 1 t b j)).isNan = false) →
          (r.getLsbD j = true ↔ (s.rdP 2 m).getLsbD j = true ∧
            condHolds c ((fval t (s.elem 0 t a j)).below (fval t (s.elem 1 t b j)))
              ((fval t (s.elem 1 t b j)).below (fval t (s.elem 0 t a j)))))) ∧
      (t.isFloat = true → (∀ k, k ≠ 4 → fl.getLsbD k = false) ∧ (fl.getLsbD 4 = true ↔ (c = .lt ∨ c = .le ∨ c = .gt ∨ c = .ge) ∧ ∃ j, j < t.count ∧
        (s.rdP 2 m).getLsbD j = true ∧
        ((fval t (s.elem 0 t a j)).isNan = true ∨ (fval t (s.elem 1 t b j)).isNan = true)))) ∧
  (∀ (s : State) (pd pa pb : Fin 8),
    (s.scoreHit (.pand pd pa pb) 2 = false → exec (.pand pd pa pb) s = .next (s.landing 2 [.p pd (s.rdP 0 pa &&& s.rdP 1 pb)])) ∧
    (s.scoreHit (.por pd pa pb) 2 = false → exec (.por pd pa pb) s = .next (s.landing 2 [.p pd (s.rdP 0 pa ||| s.rdP 1 pb)])) ∧
    (s.scoreHit (.pxor pd pa pb) 2 = false → exec (.pxor pd pa pb) s = .next (s.landing 2 [.p pd (s.rdP 0 pa ^^^ s.rdP 1 pb)])) ∧
    (s.scoreHit (.pnot pd pa) 2 = false → exec (.pnot pd pa) s = .next (s.landing 2 [.p pd (~~~s.rdP 0 pa)]))) ∧
  (∀ (s : State) (d : SReg) (pa : Fin 8) (t : VType), s.scoreHit (.pcnt d pa t) 2 = false →
    exec (.pcnt d pa t) s = .next (s.landing 2 [.s d none
      (BitVec.ofNat 64 ((List.range t.count).countP fun j => (s.rdP 0 pa).getLsbD j))]))

/-- 09 R262 to R264: VPERM, VSHUF and VROT move elements by position. -/
def Obligations.VectorPermutations : Prop :=
  ∀ (s : State) (d a b : VReg) (r : SReg) (m : Fin 8) (t : VType) (p : Shuf),
    let x := s.elem 0 t a
    let y := s.elem 1 t b
    let n := t.count
    let zero : Nat → Nat := fun _ => 0
    (t.bits ≠ 4 → s.scoreHit (.vperm d a b m t) 2 = false →
      VectorResult (.vperm d a b m t) s 2 d t.bits n (s.rdP 2 m)
        (fun j => (x (if t.bits = 8 then 256 * (j / 256) + y j else y j % n), 0)) zero []) ∧
    ((.vshuf d a p m t : Instr).flaw = none → s.scoreHit (.vshuf d a p m t) 2 = false →
      VectorResult (.vshuf d a p m t) s 2 d t.bits n (s.rdP 1 m)
        (fun j => (x (match p with
          | .dup0 => 0
          | .rev => n - 1 - j
          | .evod => if j < n / 2 then 2 * j else 2 * (j - n / 2) + 1
          | .zip => if j % 2 = 0 then j / 2 else n / 2 + j / 2
          | .bfly c => if j / 2 ^ c.val % 2 = 0 then j + 2 ^ c.val else j - 2 ^ c.val), 0)) zero []) ∧
    (s.scoreHit (.vrot d a r m t) 2 = false →
      VectorResult (.vrot d a r m t) s 2 d t.bits n (s.rdP 2 m) (fun j => (x ((j + (s.rdS 1 r).toNat % n) % n), 0)) zero [])

/-- 09 R265: VRED puts combine over the active elements into element 0, VSCAN into each active element combine over those up to it; the
other elements become 0. -/
def Obligations.VectorReductions : Prop :=
  ∀ (s : State) (d a : VReg) (op : RedOp) (m : Fin 8) (t : VType), s.fmtOk t → (.vred d a op m t : Instr).flaw = none →
    let comb (n : Nat) := combineRule s.nf s.iss.sat t op (activeElems (s.rdP 1 m) (s.elem 0 t a) n)
    (s.scoreHit (.vred d a op m t) 4 = false →
      ∃ r : VWord, exec (.vred d a op m t) s =
          .next (s.landing 4 [.v [(d, r)] s.vProd, .fps (BitVec.ofNat 7 (comb t.count).2)]) ∧
        r.toNat = (comb t.count).1) ∧
    (s.scoreHit (.vscan d a op m t) 4 = false →
      VectorResult (.vscan d a op m t) s 4 d t.bits t.count (s.rdP 1 m) (fun j => comb (j + 1)) (fun _ => 0) [])

/-- 09 R248, R256, R266 to R268, 10 R288: VCVT and VPACK convert their active source elements under the bundle's rounding and
saturation, and a floating-point source also updates AMAX and NANSEEN from its active elements; VUNPK converts exactly, VADDW and VMULW compute in the wider type; a
group's logical element i stands in register i mod k. -/
def Obligations.VectorConversions : Prop :=
  (∀ (s : State) (d a : VReg) (st : VType) (m : Fin 8) (dt : VType), s.fmtOk st → s.fmtOk dt → s.scoreHit (.vcvt d a st m dt) 3 = false →
    ∃ more : List LandWhat, (st.isFloat = false → more = []) ∧
      (st.isFloat = true → ∃ c nan, more = [.amax c nan] ∧
        AmaxUpdate st (s.rdP 1 m) (min st.count dt.count) (s.elem 0 st a) c nan) ∧
      VectorResult (.vcvt d a st m dt) s 3 d dt.bits (min st.count dt.count) (s.rdP 1 m)
        (fun j => convEl s.nf s.iss.rm s.iss.sat st dt (s.elem 0 st a j)) (fun _ => 0) more) ∧
  (∀ (s : State) (d a : VReg) (st : VType) (m : Fin 8) (dt : VType), s.fmtOk st → s.fmtOk dt →
    (.vpack d a st m dt : Instr).flaw = none → s.scoreHit (.vpack d a st m dt) 3 = false →
    let k := st.bits / dt.bits
    let x (i : Nat) := lane (s.rdV (i % k) st.bits ((groupRegs a k).getD (i % k) .zero)).toNat st.bits (i / k)
    ∃ more : List LandWhat, (st.isFloat = false → more = []) ∧
      (st.isFloat = true → ∃ c nan, more = [.amax c nan] ∧ AmaxUpdate st (s.rdP k m) dt.count x c nan) ∧
      VectorResult (.vpack d a st m dt) s 3 d dt.bits dt.count (s.rdP k m)
        (fun i => convEl s.nf s.iss.rm s.iss.sat st dt (x i)) (fun _ => 0) more) ∧
  (∀ (s : State) (d a : VReg) (st : VType) (m : Fin 8) (dt : VType), s.fmtOk st → s.fmtOk dt →
    (.vunpk d a st m dt : Instr).flaw = none → s.scoreHit (.vunpk d a st m dt) 3 = false →
    GroupResult (.vunpk d a st m dt) s 3 d (dt.bits / st.bits) dt.bits st.count (s.rdP 1 m)
      (fun j => ((convEl s.nf .rne .dflt st dt (s.elem 0 st a j)).1, 0))) ∧
  (∀ (s : State) (d a b : VReg) (m : Fin 8) (t : VType), s.fmtOk t → (.vaddw d a b m t : Instr).flaw = none →
    let x := s.elem 0 t a
    let y := s.elem 1 t b
    let w := (widenType s.nf t).bits
    (s.scoreHit (.vaddw d a b m t) 2 = false →
      GroupResult (.vaddw d a b m t) s 2 d (w / t.bits) w t.count (s.rdP 2 m)
        (fun j => if t.isFloat then floatOut .fp32 s.iss.sat (fAdd (fval t (x j)) (fval t (y j)))
          else (((readNum s.nf t (x j) + readNum s.nf t (y j)) % (2 ^ w : Nat)).toNat, 0))) ∧
    (s.scoreHit (.vmulw d a b m t) 4 = false →
      GroupResult (.vmulw d a b m t) s 4 d (w / t.bits) w t.count (s.rdP 2 m)
        (fun j => if t.isFloat then floatOut .fp32 s.iss.sat (fMul (fval t (x j)) (fval t (y j)))
          else (((readNum s.nf t (x j) * readNum s.nf t (y j)) % (2 ^ w : Nat)).toNat, 0))))

/-- 04 R112, 09 R270, R271: VPLN puts bit P−1−n of the code of element 64g + j at bit j of plane word n of group g, and 0 in the planes
beyond P; VUNPL gathers the P bits of each active element's code from the planes. That VUNPL on N8 extends the code by the signedness of
NFMT.V is the model's reading (log entry 15). -/
def Obligations.BitPlanes : Prop :=
  (∀ (s : State) (d a : VReg) (pM1 : Fin 16) (m : Fin 8) (t : VType), (.vpln d a pM1 m t : Instr).flaw = none →
    (t = .n8 → pM1.val + 1 ≤ s.nf.width) → s.scoreHit (.vpln d a pM1 m t) 3 = false →
    ∃ r : VWord, exec (.vpln d a pM1 m t) s = .next (s.landing 3 [.v [(d, r)] s.vProd]) ∧
      ∀ g n j, g < 64 / t.bits → n < t.bits → j < 64 →
        r.getLsbD (64 * (g * t.bits + n) + j) =
          (decide (n ≤ pM1.val) && (s.rdP 1 m).getLsbD (64 * g + j) && (s.elem 0 t a (64 * g + j)).testBit (pM1.val - n))) ∧
  (∀ (s : State) (d a : VReg) (pM1 : Fin 16) (m : Fin 8) (t : VType), (.vunpl d a pM1 m t : Instr).flaw = none →
    (t = .n8 → pM1.val + 1 ≤ s.nf.width) → s.scoreHit (.vunpl d a pM1 m t) 3 = false →
    ∃ q : Nat → Nat,
      (∀ g j n, g < 64 / t.bits → j < 64 → n ≤ pM1.val →
        (q (64 * g + j)).testBit (pM1.val - n) = (s.rdV 0 t.bits a).getLsbD (64 * (g * t.bits + n) + j)) ∧
      (∀ e, q e < 2 ^ (pM1.val + 1)) ∧
      VectorResult (.vunpl d a pM1 m t) s 3 d t.bits t.count (s.rdP 1 m)
        (fun e => (writeNum s.nf t (if numSigned s.nf t then signedOf (pM1.val + 1) (q e) else q e), 0)) (fun _ => 0) [])

/-- 10 R276 to R283: the special functions by element: correctly rounded VRCP, VRSQ, VSQRT, VEXP2 and VLOG2 after 12 tempo, the defined
approximations VRCPA, VRSQA and VEXPA after 6. -/
def Obligations.VectorFunctions : Prop :=
  ∀ (s : State) (d a : VReg) (m : Fin 8),
    let x := s.elem 0 .fp32 a
    let res (i : Instr) (lat : Nat) (f : Nat → Nat × Nat) : Prop :=
      s.scoreHit i lat = false → VectorResult i s lat d 32 128 (s.rdP 1 m) (fun j => f (x j)) (fun _ => 0) []
    let exact (f : FVal → FVal × Nat) (v : Nat) : Nat × Nat := floatOut .fp32 s.iss.sat (f (fval .fp32 v))
    res (.vrcp d a m) 12 (exact fun v => fDiv (.fin false 1 0) v) ∧ res (.vrsq d a m) 12 (exact fRsqrt) ∧
    res (.vsqrt d a m) 12 (exact fSqrt) ∧ res (.vexp2 d a m) 12 (exact fExp2) ∧ res (.vlog2 d a m) 12 (exact fLog2) ∧
    res (.vrcpa d a m) 6 (apRcp s.iss.sat) ∧ res (.vrsqa d a m) 6 (apRsq s.iss.sat) ∧ res (.vexpa d a m) 6 (apExp s.iss.sat)

/-- 10 R284, R285, R287: VDRAW gives each active element the draw of its 64-bit counter under the key; VAMAX finds the largest
magnitude of the active elements that are no NaN, and whether one is a NaN. -/
def Obligations.DrawsAndMagnitudes : Prop :=
  (∀ (s : State) (d a : VReg) (r : SReg) (m : Fin 8), (.vdraw d a r m : Instr).flaw = none → s.scoreHit (.vdraw d a r m) 6 = false →
    ∃ v : VWord, exec (.vdraw d a r m) s = .next (s.landing 6 [.v [(d, v)] s.vProd]) ∧
      ∀ j, j < 128 → lane v.toNat 32 j =
        if (s.rdP 3 m).getLsbD j then
          draw (s.rdS 2 r) (BitVec.ofNat 64 (lane (s.rdV 0 32 ((groupRegs a 2).getD 0 .zero)).toNat 32 j
            + 2 ^ 32 * lane (s.rdV 1 32 ((groupRegs a 2).getD 1 .zero)).toNat 32 j))
        else 0) ∧
  (∀ (s : State) (a : VReg) (m : Fin 8) (t : VType), s.scoreHit (.vamax a m t) 2 = false →
    ∃ (c : Option (BitVec 32)) (nan : Bool), exec (.vamax a m t) s = .next (s.landing 2 [.amax c nan]) ∧
      AmaxUpdate t (s.rdP 1 m) t.count (s.elem 0 t a) c nan)

/-- 02 R34, 06 R159, 07 R185, R193, 09 R249: what an instruction leaves when its slot commits. One of sa or sb that both take, or of a
vector slot: everything but the landings and pending writes of NFMT of its own context. One of the mem slot: every byte of memory,
every tag and register, every other context; of its own context only the accesses in flight and the open TLBIs change. A TLBI (07 R219):
everything but its own open TLBIs, the TLB of its core and that of its die. -/
def Obligations.SlotFrames : Prop :=
  (∀ (i : Instr) (s t : State), i.homeSlot = some 1 → saOnly i = false → Commits i s t →
    ∃ (pend : List Landing) (nf : List NfmtWrite),
      t = s.withCtx { s.ic with pend := pend, spr := { s.ic.spr with nfmtPend := nf } }) ∧
  (∀ (i : Instr) (s t : State), i.homeSlot = some 3 → Commits i s t → ∃ pend, t = s.withCtx { s.ic with pend := pend }) ∧
  (∀ (i : Instr) (s t : State), i.homeSlot = some 5 → Commits i s t →
    t.mem = s.mem ∧ t.tags = s.tags ∧ t.gangs = s.gangs ∧ t.chains = s.chains ∧ t.parts = s.parts ∧ t.cmds = s.cmds ∧
    t.regions = s.regions ∧ t.queues = s.queues ∧ t.pkg = s.pkg ∧ t.packets = s.packets ∧ t.iss = s.iss ∧
    (∀ c : CtxId, c ≠ s.iss.ctx → t.ctx c = s.ctx c) ∧
    ∃ acc elas tlbi, t.ic = { s.ic with acc := acc, elas := elas, tlbi := tlbi }) ∧
  (∀ (i : Instr) (s t : State) (a : SReg) (sc : TlbScope), i = .tlbiAll a sc ∨ i = .tlbiAsid a sc ∨ i = .tlbiPage a sc → Commits i s t →
    t = { s with ctxs := t.ctxs, cores := t.cores, dies := t.dies } ∧
    (∀ c : CtxId, c ≠ s.iss.ctx → t.ctx c = s.ctx c) ∧ t.ic = { s.ic with tlbi := t.ic.tlbi } ∧
    (∀ k : CoreId, t.core k = if k = coreOf s.iss.ctx then { s.core k with tlb := (t.core k).tlb } else s.core k) ∧
    ∀ d : DieId, t.die d = if d = dieOf (coreOf s.iss.ctx) then { s.die d with tlb := (t.die d).tlb } else s.die d)

/-- 02 R50, R52, 04 R104: with SCHK set, every form of the scalar and vector slots that is neither a handler form nor a TLBI raises SCORE, before
it commits and before the faults of its own operation, where it reads a register in the shadow of a write of an earlier bundle, or writes
one that a write in flight will reach in the same tempo or later: scalar, vector and predicate registers, and what is in flight as a
result, as an access of the core or, for scalar registers, of the translated space. With SCHK clear, or with nothing in flight, none does.
A form that reads or writes N4 elements as numbers with a WIDTH above 4 raises FMT, detail 0x02. A value that the freeze frame holds for
a re-entered slot is read in no shadow. -/
def Obligations.ScoreboardAndFormatFaults : Prop :=
  (∀ (i : Instr) (s : State) (lat : Nat), latencyOf i = some lat → (∀ d, i = .movs d .frec → s.ic.ctl.kind = .second) →
    s.scoreHit i lat = true → Faults i s 0x21 0) ∧
  (∀ (i : Instr) (s : State) (lat : Nat), latencyOf i = some lat → .n4 ∈ numTypesOf i → 4 < s.nf.width → s.scoreHit i lat = false →
    Faults i s 0x15 2) ∧
  (∀ (i : Instr) (s : State) (lat : Nat), s.ic.ctl.schk = true →
    let x := s.ic
    let earlier (n : Nat) : Prop := n ≠ s.tempo
    (s.iss.reentry = false →
      (∀ r, .s r ∈ i.srcs → sIsReg r = true →
        (∀ l ∈ x.pend, earlier l.issued → l.what.destS = some r → s.scoreHit i lat = true) ∧
        (∀ a ∈ x.acc, earlier a.issued → a.op.destS = some r → s.scoreHit i lat = true) ∧
        (∀ e ∈ x.elas, earlier e.issued → e.op.destS = some r → s.scoreHit i lat = true)) ∧
      (∀ r, .v r ∈ i.srcs → vIsReg r = true →
        (∀ l ∈ x.pend, earlier l.issued → r ∈ l.what.destV → s.scoreHit i lat = true) ∧
        (∀ a ∈ x.acc, earlier a.issued → a.op.destV = some r → s.scoreHit i lat = true)) ∧
      (∀ p, .p p ∈ i.srcs → p ≠ 0 → ∀ l ∈ x.pend, earlier l.issued → l.what.destP = some p → s.scoreHit i lat = true)) ∧
    (∀ r, .s r ∈ i.dsts → sIsReg r = true →
      (∀ l ∈ x.pend, l.what.destS = some r → s.tempo + lat ≤ l.due → s.scoreHit i lat = true) ∧
      (∀ a ∈ x.acc, a.op.destS = some r → s.tempo + lat ≤ a.due + a.lat → s.scoreHit i lat = true) ∧
      (∀ e ∈ x.elas, e.op.destS = some r → s.scoreHit i lat = true)) ∧
    (∀ r, .v r ∈ i.dsts → vIsReg r = true →
      (∀ l ∈ x.pend, r ∈ l.what.destV → s.tempo + lat ≤ l.due → s.scoreHit i lat = true) ∧
      (∀ a ∈ x.acc, a.op.destV = some r → s.tempo + lat ≤ a.due + a.lat → s.scoreHit i lat = true)) ∧
    ∀ p, .p p ∈ i.dsts → p ≠ 0 → ∀ l ∈ x.pend, l.what.destP = some p → s.tempo + lat ≤ l.due → s.scoreHit i lat = true) ∧
  (∀ (i : Instr) (s : State) (lat : Nat),
    (s.ic.ctl.schk = false ∨ (s.ic.pend = [] ∧ s.ic.acc = [] ∧ s.ic.elas = [] ∧ s.ic.done = [] ∧
      (s.core (coreOf s.iss.ctx)).lk = [])) → s.scoreHit i lat = false) ∧
  (∀ (s : State) (d a b : SReg) (m : Fin 8) (v : VReg) (t : VType), s.ic.ctl.schk = true → s.iss.reentry = false →
    (∃ l ∈ s.ic.pend, l.issued ≠ s.tempo ∧ l.what.destS = some a ∧ sIsReg a = true) →
    Faults (.add d a b) s 0x21 0 ∧ Faults (.movt a .csw) s 0x21 0 ∧ Faults (.stg a 0) s 0x21 0 ∧ Faults (.vbcst v a m t) s 0x21 0)

/-! ## Handler forms -/

/-- 15 R425 to R428, R430 to R435: in a second, under a valid capability and with no SCORE, each handler form that names a frozen
context answers a next state in which one result or effect of it is set to land 2 tempo later and nothing else has changed: FRD the
word that its selector names, FWR a word that R430 lets it write, FRES of a thread whose core is not retired, FKILL, FPASS.SUP of a
first-level second, FPASS.HOST, FSTAT its word, under an invalid capability too; HMOV in copy and move of a register that is not empty,
and in clear, 1 tempo later. An FWR that is not allowed raises PRIV, detail 0x03, FRES of a thread whose core is retired without a
spare detail 0x04, FPASS.SUP of a second-level second detail 0x05; a form outside a second detail 0x01, one under an empty or, FSTAT
apart, an invalid capability detail 0x02. What lands, alone on its way to the second: FRES tells its thread to go on at SRES or at the
PC in s and spends the capability, its registers and memory staying; FWR writes the s register, G register, return-stack entry or depth
that its selector names; FKILL of a member of an elastic gang of more members, with no access or command on its way, frees its context
and gives its region the kill word and the cause of its record, which is the model's reading (log entry 55); FPASS writes PASSW, spends the capability and ends the passing
second, with TARGET 1 telling the host the frame address; HMOV copies, moves or clears its register alone. -/
def Obligations.HandlerForms : Prop :=
  (∀ (s : State) (d a : SReg) (h : Fin 4) (sel : FSel) (k : Cap), s.ic.ctl.kind = .second → s.ic.caps[h] = some k → s.validCap k →
    (s.scoreHit (.frd d h sel) 2 = false →
      ∃ v : Word, exec (.frd d h sel) s = .next (s.landing 2 [.s d s.sProd v]) ∧
        (∀ code, sel = .s code → v = (s.ctx k.target).regs.getS (SReg.ofCode code.val)) ∧
        (∀ code w r j, sel = .v code w → VReg.ofCode code.val = some r → j < 64 →
          v.getLsbD j = ((s.ctx k.target).regs.getV 8 r).getLsbD (64 * w.val + j)) ∧
        (∀ i w j, sel = .p i w → j < 64 → v.getLsbD j = ((s.ctx k.target).regs.getP i).getLsbD (64 * w.val + j)) ∧
        (∀ i, sel = .g i → v = (s.ctx k.target).regs.g[i]) ∧
        (∀ r, sel = .spr r → v = s.sprRead k.target r) ∧
        (∀ sl o w, sel = .snap sl o w → 8 * w.val < snapBytes (s.snapDir k.target sl.val o.val) →
          v.toNat = s.snapValue k.target sl.val o.val / 2 ^ (64 * w.val) % 2 ^ 64) ∧
        (∀ w, sel = .recd w → v.toNat = readN s.mem (s.frameKey k.target + 8 * w.val) 8) ∧
        (∀ e w, sel = .defr e w → v.toNat = readN s.mem (s.frameKey k.target + 256 + 128 * e.val + 8 * w.val) 8) ∧
        (∀ i, sel = .rstk i → v = (s.ctx k.target).ctl.rstk[i]) ∧
        (sel = .depth → v.toNat = (s.ctx k.target).ctl.depth.val) ∧
        (∀ n w, sel = .loop n w → (w.val = 1 → v = (s.ctx k.target).ctl.loops[n].count) ∧
          (w.val = 2 → v = (s.ctx k.target).ctl.loops[n].iter) ∧ (w.val = 3 → v = (s.ctx k.target).ctl.loops[n].first) ∧
          (w.val = 4 → v = (s.ctx k.target).ctl.loops[n].last) ∧ (w.val = 5 → v = (s.ctx k.target).ctl.loops[n].depth) ∧
          (w.val = 0 → v = (match (s.ctx k.target).ctl.loops[n].st with | .idle => 0 | .armed => 1 | .active => 2)))) ∧
    (s.scoreHit (.fwr a h sel) 2 = false → s.fwrOk k.target sel (s.rdS 0 a) = true →
      exec (.fwr a h sel) s = .next (s.landing 2 [.fwr k.target sel (s.rdS 0 a)])) ∧
    (s.scoreHit (.fwr a h sel) 2 = false → s.fwrOk k.target sel (s.rdS 0 a) = false → Faults (.fwr a h sel) s 0x03 3) ∧
    (s.scoreHit (.fres h) 2 = false → (s.core (coreOf k.target)).retired = false →
      exec (.fres h) s = .next (s.landing 2 [.fres k.target none])) ∧
    (s.scoreHit (.fresPc a h) 2 = false → (s.core (coreOf k.target)).retired = false →
      exec (.fresPc a h) s = .next (s.landing 2 [.fres k.target (some (s.rdS 0 a))])) ∧
    (s.scoreHit (.fres h) 2 = false → (s.core (coreOf k.target)).retired = true → Faults (.fres h) s 0x03 4) ∧
    (s.scoreHit (.fresPc a h) 2 = false → (s.core (coreOf k.target)).retired = true → Faults (.fresPc a h) s 0x03 4) ∧
    (s.scoreHit (.fkill a h) 2 = false → exec (.fkill a h) s = .next (s.landing 2 [.fkill k.target (s.rdS 0 a)])) ∧
    (s.scoreHit (.fpassSup a h) 2 = false → s.ic.ctl.level ≠ 2 →
      exec (.fpassSup a h) s = .next (s.landing 2 [.fpass k.target false (s.rdS 0 a)])) ∧
    (s.scoreHit (.fpassSup a h) 2 = false → s.ic.ctl.level = 2 → Faults (.fpassSup a h) s 0x03 5) ∧
    (s.scoreHit (.fpassHost a h) 2 = false →
      exec (.fpassHost a h) s = .next (s.landing 2 [.fpass k.target true (s.rdS 0 a)])) ∧
    (s.scoreHit (.fstat d h) 2 = false →
      ∃ v : Word, exec (.fstat d h) s = .next (s.landing 2 [.s d s.sProd v]) ∧ v.toNat % 2 ^ 8 = 0 ∧ v.getLsbD 8 = true ∧
        v.getLsbD 9 = (match s.gangOf k.target with | some g => g.held.isSome | none => false) ∧
        ∀ f, (s.ctx k.target).frz = some f → f.items.length ≤ 24 → (s.part s.ic.part).fq.length ≤ 64 →
          v.getLsbD 10 = (!f.late.isEmpty) ∧
          v.toNat / 2 ^ 16 % 2 ^ 8 =
            (List.range f.items.length).countP (fun e => readByte s.mem (s.frameKey k.target + 256 + 128 * e + 5) == 0) ∧
          v.toNat / 2 ^ 24 % 2 ^ 8 = (s.part s.ic.part).fq.length)) ∧
  (∀ (s : State) (d : SReg) (h : Fin 4) (k : Cap), s.ic.ctl.kind = .second → s.ic.caps[h] = some k → ¬s.validCap k →
    s.scoreHit (.fstat d h) 2 = false →
    ∃ v : Word, exec (.fstat d h) s = .next (s.landing 2 [.s d s.sProd v]) ∧
      (lookupD 2 (s.part s.ic.part).spent k.serial.toNat < 4 →
        v.toNat % 2 ^ 8 = lookupD 2 (s.part s.ic.part).spent k.serial.toNat ∧ v.getLsbD 8 = false)) ∧
  (∀ (s : State) (hd hs : Fin 4), s.ic.ctl.kind = .second →
    (s.ic.caps[hs] ≠ none → exec (.hmov hd hs) s = .next (s.landing 1 [.hmov hd hs false false]) ∧
      exec (.hmovMove hd hs) s = .next (s.landing 1 [.hmov hd hs true false])) ∧
    (s.ic.caps[hs] = none → Faults (.hmov hd hs) s 0x03 2 ∧ Faults (.hmovMove hd hs) s 0x03 2) ∧
    exec (.hmovClear hd) s = .next (s.landing 1 [.hmov hd 0 false true])) ∧
  (∀ (s : State) (d a : SReg) (h hs : Fin 4) (sel : FSel), s.ic.ctl.kind ≠ .second →
    Faults (.frd d h sel) s 0x03 1 ∧ Faults (.fwr a h sel) s 0x03 1 ∧ Faults (.fres h) s 0x03 1 ∧ Faults (.fresPc a h) s 0x03 1 ∧
    Faults (.fkill a h) s 0x03 1 ∧ Faults (.fpassSup a h) s 0x03 1 ∧ Faults (.fpassHost a h) s 0x03 1 ∧
    Faults (.fstat d h) s 0x03 1 ∧ Faults (.hmov h hs) s 0x03 1 ∧ Faults (.hmovMove h hs) s 0x03 1 ∧ Faults (.hmovClear h) s 0x03 1) ∧
  (∀ (s : State) (d a : SReg) (h : Fin 4) (sel : FSel), s.ic.ctl.kind = .second →
    (∀ k, s.ic.caps[h] = some k → ¬s.validCap k) →
    (s.scoreHit (.frd d h sel) 2 = false → Faults (.frd d h sel) s 0x03 2) ∧
    (s.scoreHit (.fwr a h sel) 2 = false → Faults (.fwr a h sel) s 0x03 2) ∧
    (s.scoreHit (.fres h) 2 = false → Faults (.fres h) s 0x03 2) ∧
    (s.scoreHit (.fresPc a h) 2 = false → Faults (.fresPc a h) s 0x03 2) ∧
    (s.scoreHit (.fkill a h) 2 = false → Faults (.fkill a h) s 0x03 2) ∧
    (s.scoreHit (.fpassSup a h) 2 = false → Faults (.fpassSup a h) s 0x03 2) ∧
    (s.scoreHit (.fpassHost a h) 2 = false → Faults (.fpassHost a h) s 0x03 2) ∧
    (s.scoreHit (.fstat d h) 2 = false → s.ic.caps[h] = none → Faults (.fstat d h) s 0x03 2)) ∧
  (∀ (s : State) (c t : CtxId) (l : Landing) (f : Frozen), (s.ctx c).pend = [l] → l.due ≤ s.tempo → s.paused c = false → c ≠ t →
    (s.core (coreOf c)).lk = [] → (s.ctx t).frz = some f → f.cap ≠ none →
    (∀ pc, l.what = .fres t pc →
      ∃ u, exec (.resultLanding c) s = .next u ∧
        (u.ctx t).frz = some { f with
          cap := none, host := false, resume := some (s.tempo, match pc with | some a => .atPc a | none => .atSres) } ∧
        (u.ctx t).regs = (s.ctx t).regs ∧ (u.ctx t).run = (s.ctx t).run ∧ u.mem = s.mem ∧
        (∀ k : Cap, k.target = t → ¬u.validCap k)) ∧
    (∀ sel v, l.what = .fwr t sel v →
      ∃ u, exec (.resultLanding c) s = .next u ∧ (u.ctx t).frz = some f ∧
        (∀ code r, sel = .s code → SReg.ofCode code.val = .s r → (u.ctx t).regs.getS (.s r) = v ∧ u.mem = s.mem) ∧
        (∀ i, sel = .g i → (u.ctx t).regs.g[i] = stgMask i v ∧ u.mem = s.mem) ∧
        (∀ i, sel = .rstk i → (u.ctx t).ctl.rstk[i] = v ∧ u.mem = s.mem) ∧
        (sel = .depth → v.toNat ≤ 8 → (u.ctx t).ctl.depth.val = v.toNat ∧ u.mem = s.mem)) ∧
    (∀ v g y r, l.what = .fkill t v → (s.ctx t).ctl.kind ≠ .second → (s.ctx t).elas = [] → s.cmdsOf t = [] →
      (s.ctx t).gang = some g → s.gang? g = some y → y.kernel.tlen = none → y.waitStart = false → 1 < y.alive →
      s.region? y.region = some r →
      ∃ u, exec (.resultLanding c) s = .next u ∧ (u.ctx t).run = .free ∧ (∀ k : Cap, k.target = t → ¬u.validCap k) ∧
        u.region? y.region = some { r with cause := f.cause, detail := f.detail, kill := v.truncate 32 } ∧
        ∃ y', u.gang? g = some y' ∧ y'.alive = y.alive - 1) ∧
    (∀ v, l.what = .fpass t false v → s.Inv →
      ∃ u, exec (.resultLanding c) s = .next u ∧ (u.ctx t).frz = some { f with cap := none, sup := true } ∧
        readN u.mem (s.frameKey t + 104) 8 = v.toNat ∧ (u.ctx c).run = .free) ∧
    (∀ v, l.what = .fpass t true v → s.Inv →
      ∃ u, exec (.resultLanding c) s = .next u ∧ (u.ctx t).frz = some { f with cap := none, host := true } ∧
        readN u.mem (s.frameKey t + 104) 8 = v.toNat ∧ (u.ctx c).run = .free ∧ s.framePA t ∈ u.pkg.passed)) ∧
  (∀ (s : State) (c : CtxId) (l : Landing) (hd hs : Fin 4) (move clear : Bool), (s.ctx c).pend = [l] → l.due ≤ s.tempo → s.paused c = false →
    (s.core (coreOf c)).lk = [] → l.what = .hmov hd hs move clear →
    ∃ u, exec (.resultLanding c) s = .next u ∧
      (u.ctx c).caps = (let x := (s.ctx c).caps.set hd (if clear then none else (s.ctx c).caps[hs]);
        if move then x.set hs none else x) ∧ u.mem = s.mem)

/-! ## The mx slot -/

/-- 11 R292 to R304, R310, R312 to R314: MMA and MLAT enter the plane array after the commands before them, an MMA with AT at its tempo;
MFMT leaves its write of NFMT.M pending for the third bundle after; LKR, LKW and LKZ of a second reach link storage 2 tempo later, and
outside a second raise PRIV. An MMA raises CHAIN where its chain does not exist, its link does not exist or the chain is frozen. That an
MMA with LAT is judged at issue by the latch that the commands before it will leave is the model's reading (log entry 16). -/
def Obligations.ArrayInstructions : Prop :=
  (∀ (s : State) (c l : Fin 64) (g : Bool) (op : CellOp) (at_ : Bool) (ch : Chain) (x : ChainLink),
    let k := coreOf s.iss.ctx
    let msk := s.half g 2
    let spans := (if mskLat msk then [] else [spanOf (s.half g 0) (mskK msk) (mskA2 msk)]) ++
      [spanOf (s.half g 1) (mskK msk) (mskB2 msk)]
    s.arrayClass (mskLat msk) = true → s.myChain c = some ch → l.val < ch.nlink → ch.link? l.val = some x →
    s.hostCore ch x = k → ch.frozen = false → x.landed + (s.core k).mmasInFlight ch.uid l < x.count →
    (mskLat msk = false → sideOk (s.half g 0) (mskK msk) (mskA2 msk)) → sideOk (s.half g 1) (mskK msk) (mskB2 msk) →
    0 < mskK msk → mskK msk % 64 = 0 → mskK msk ≤ 8192 → (op = .bxnor → mskPa msk = 1 ∧ mskPb msk = 1) →
    (mskLat msk = true → s.latchAfter k = some (mskK msk, mskPa msk)) → s.operandRace spans = none → (s.core k).arrayWaiting < 8 →
    let aimed := s.tempo + ((s.half g 3).toNat % 2 ^ 32 - s.ttempo s.iss.ctx)
    (at_ = true → s.timedPrimary s.iss.ctx = true ∧ s.ttempo s.iss.ctx + 2 ≤ (s.half g 3).toNat % 2 ^ 32 ∧
      (s.core k).arrayFree ≤ aimed) →
    ∃ a : ArrayCmd, exec (.mma c l g op at_) s = .next { s.setCore k { s.core k with
          array := (s.core k).array ++ [a], arrayFree := a.plan + a.passes } with fresh := s.fresh + 1 } ∧
      a.ctx = s.iss.ctx ∧ a.mlat = false ∧ a.chain = ch.uid ∧ a.link = l ∧ a.op = op ∧ a.msa = s.half g 0 ∧ a.msb = s.half g 1 ∧
      a.msk = msk ∧ a.nfmtM = s.ic.nfmtMNow ∧ a.started = false ∧ a.discard = false ∧
      a.plan = (if at_ then aimed else max (s.tempo + 2) (s.core k).arrayFree) ∧
      a.passes = (mskK msk + 255) / 256 * mskPa msk * mskPb msk) ∧
  (∀ (s : State) (g : Bool),
    let k := coreOf s.iss.ctx
    let msk := s.half g 2
    s.ic.ctl.kind = .primary → sideOk (s.half g 0) (mskK msk) (mskA2 msk) → 0 < mskK msk → mskK msk % 64 = 0 → mskK msk ≤ 256 →
    s.operandRace [spanOf (s.half g 0) (mskK msk) (mskA2 msk)] = none → (s.core k).arrayWaiting < 8 →
    ∃ a : ArrayCmd, exec (.mlat g) s = .next { s.setCore k { s.core k with
          array := (s.core k).array ++ [a], arrayFree := a.plan + 4 } with fresh := s.fresh + 1 } ∧
      a.ctx = s.iss.ctx ∧ a.mlat = true ∧ a.msa = s.half g 0 ∧ a.msk = msk ∧ a.started = false ∧ a.passes = 4 ∧
      a.plan = max (s.tempo + 2) (s.core k).arrayFree) ∧
  (∀ (s : State) (a : SReg), s.scoreHit (.mfmt a) 2 = false →
    exec (.mfmt a) s = .next (s.withCtx { s.ic with spr := { s.ic.spr with
      nfmtPend := s.ic.spr.nfmtPend ++ [{ toM := true, value := BitVec.ofNat 6 ((s.rdS 0 a).toNat % 8), left := 3 }] } })) ∧
  (∀ (s : State) (v row : Fin 32) (k : Fin 8), s.ic.ctl.kind = .second →
    let core := s.core (coreOf s.iss.ctx)
    let queued (w : LkWhat) : State := s.setCore (coreOf s.iss.ctx) { core with
      lk := core.lk ++ [{ due := s.tempo + 2, ctx := s.iss.ctx, slot := k, issued := s.tempo, what := w }] }
    (s.scoreHit (.lkr v k row) 4 = false → exec (.lkr v k row) s = .next (queued (.read row v))) ∧
    (s.scoreHit (.lkw v k row) 4 = false → exec (.lkw v k row) s = .next (queued (.write row (s.rdV 0 8 (.v v))))) ∧
    exec (.lkz k) s = .next (queued .zero)) ∧
  (∀ (s : State) (v row : Fin 32) (k : Fin 8), s.ic.ctl.kind ≠ .second →
    Faults (.lkr v k row) s 0x03 1 ∧ Faults (.lkw v k row) s 0x03 1 ∧ Faults (.lkz k) s 0x03 1) ∧
  (∀ (s : State) (c l : Fin 64) (g : Bool) (op : CellOp), s.ic.ctl.kind = .primary →
    (s.myChain c = none → Faults (.mma c l g op false) s 0x30 1) ∧
    (∀ ch, s.myChain c = some ch → ch.nlink ≤ l.val → Faults (.mma c l g op false) s 0x30 2) ∧
    (∀ ch x, s.myChain c = some ch → l.val < ch.nlink → ch.link? l.val = some x → s.hostCore ch x = coreOf s.iss.ctx →
      ch.frozen = true → Faults (.mma c l g op false) s 0x30 4)) ∧
  (∀ (s : State) (g : Bool), s.ic.ctl.kind ≠ .primary → Faults (.mlat g) s 0x04 0)

/-- 12 R317 to R323: CHB with a well-formed descriptor in the core scratchpad, whose id no chain of the gang has and whose slots are
free, or reserved for it while its bundle held, builds the chain: known to every host from 2 tempo later, its links OPEN with nothing
landed, its spares free, each slot given to it, and those of its links empty; memory and contexts stay, a reservation of the bundle's
hold apart, which is used up. -/
def Obligations.ChainIsBuilt : Prop :=
  ∀ (s : State) (r : SReg) (g : Nat),
    let a := (s.rdS 0 r).toNat
    let key := keyScratch (coreOf s.iss.ctx) a
    let h := readN s.mem key 32
    let n := hdrByte h 1 1 % 64 + 1 + hdrByte h 2 1
    let entries := (List.range n).map fun i => readN s.mem (key + 32 + 8 * i) 8
    let u := (s.ic.hold.bind (·.chb)).getD s.fresh
    let ch0 := chainFrom s u g h entries
    s.scoreHit (.chb r) 1 = false → a % 32 = 0 → a + 32 + 8 * n ≤ 0x400000 → s.ic.gang = some g →
    (∀ k ∈ s.chains, k.2.gang = g → k.2.id.val = hdrByte h 0 1 % 64 → ∃ t, k.2.freed = some t ∧ t ≤ s.tempo) →
    descriptorOk h entries s.ic.spr.gsize.toNat = true →
    (∀ e ∈ entries.map entryOf, ((s.slotOf ch0 e).owner = none ∧ s.slotOut ch0 e = false) ∨ (s.slotOf ch0 e).owner = some u) →
    ∃ t ch, exec (.chb r) s = .next t ∧ t.chain? u = some ch ∧ t.mem = s.mem ∧
      (∀ c, t.ctx c = if c = s.iss.ctx then { s.ic with hold := s.ic.hold.map fun q => { q with chb := none } } else s.ctx c) ∧
      ch.uid = u ∧ ch.born = s.tempo + 2 ∧ ch.freed = none ∧ ch.gang = g ∧ ch.id.val = hdrByte h 0 1 ∧
      ch.nlink = hdrByte h 1 1 + 1 ∧ ch.links = entries.map entryOf ∧ ch.frozen = false ∧ ch.close = none ∧
      (∀ e ∈ ch.links, e.landed = 0 ∧ e.state = (if e.spare then .free else .open_)) ∧
      ∀ e ∈ ch.links, (t.slotOf ch e).owner = some ch.uid ∧ (e.spare = false → (t.slotOf ch e).tile = [])

/-- 12 R330, R333, R337 to R343: CHC arms the close of its chain, and of one that a CHF with abort is freeing ends at once with OUTCOME
01; CHS enters a command that writes the status record; CHP puts a spare
in the place of a faulted link; CHR sends the shadow again, at the thaw while the chain is frozen; CHF of a finished chain, and CHF
with abort of every chain, frees it and its slots. None of them changes memory when it issues. -/
def Obligations.ChainInstructions : Prop :=
  (∀ (s : State) (c t : Fin 64) (r : SReg) (ch : Chain) (tail : ChainLink),
    let d := (s.rdS 0 r).toNat
    let bytes := 4 * biasCount ch.bias
    s.scoreHit (.chc c r t) 1 = false → s.tagBusy s.iss.ctx t = false → s.myChain c = some ch → s.chain? ch.uid = some ch →
    ch.link? (ch.nlink - 1) = some tail → s.ic.spr.lidx.toNat = tail.core → ch.close = none →
    d % (if ch.ofmt < 6 then 32 else 64) = 0 → d + 31 * ch.rstr + rowBytes ch.ofmt ch.pm1 ≤ 0x400000 →
    (bytes ≠ 0 → ch.baddr + bytes ≤ 0x400000) →
    (ch.freed.isSome = true →
      ∃ u, exec (.chc c r t) s = .next u ∧ u.mem = s.mem ∧ (∀ m ∈ u.cmdsOf s.iss.ctx, m.tag ≠ t) ∧ u.chains = s.chains ∧
        u.ic.spr.tags.getLsbD t.val = true ∧ u.ic.regs = s.ic.regs) ∧
    (ch.freed = none → ∃ u m k, exec (.chc c r t) s = .next u ∧ u.mem = s.mem ∧ u.ctxs = s.ctxs ∧
      u.cmdsOf s.iss.ctx = s.cmdsOf s.iss.ctx ++ [m] ∧ m.tag = t ∧ m.kind = .chc ch.uid ∧
      u.chain? ch.uid = some { ch with close := some k } ∧ k.ctx = s.iss.ctx ∧ k.tag = t ∧ k.dest = d ∧ k.rm = s.iss.rm ∧
      k.sat = s.iss.sat ∧ k.subo = s.ic.nfmtMNow.getLsbD 2 ∧ k.started = false)) ∧
  (∀ (s : State) (c t : Fin 64) (r : SReg) (ch : Chain),
    let a := (s.rdS 0 r).toNat
    s.scoreHit (.chs c r t) 1 = false → s.tagBusy s.iss.ctx t = false → s.myChain c = some ch → a % 16 = 0 →
    a + 16 + 8 * ch.links.length ≤ 0x400000 →
    CommandEnters (.chs c r t) s t (.chs ch.uid) [s.rdS 0 r] none
      (some { win := .scratch (coreOf s.iss.ctx), lo := a, hi := a + 15 + 8 * ch.links.length }) none none) ∧
  (∀ (s : State) (c l : Fin 64) (r : SReg) (ch : Chain) (k sp : ChainLink),
    let e := (s.rdS 0 r).toNat
    s.scoreHit (.chp c l r) 1 = false → s.myChain c = some ch → s.chain? ch.uid = some ch → ch.frozen = true →
    l.val < ch.nlink → ch.link? l.val = some k → k.state = .faulted → ch.nlink ≤ e → ch.link? e = some sp → sp.used = false →
    (s.slotOf ch sp).owner = some ch.uid → ch.restorable l.val = true →
    ∃ t ch' y z, exec (.chp c l r) s = .next t ∧ t.mem = s.mem ∧ t.chain? ch.uid = some ch' ∧
      ch'.link? l.val = some y ∧ y.core = sp.core ∧ y.slot = sp.slot ∧ y.landed = 0 ∧ y.reason = 0 ∧ y.state ≠ .faulted ∧
      ch'.link? e = some z ∧ z.used = true ∧
      (ch'.frozen = true ↔ ∃ i w, i ≠ l.val ∧ ch.link? i = some w ∧ w.state = .faulted)) ∧
  (∀ (s : State) (c l : Fin 64) (ch : Chain) (k n : ChainLink) (v : List (BitVec 97)), s.myChain c = some ch →
    s.chain? ch.uid = some ch → ch.link? l.val = some k → k.spare = false → k.shadow = some v →
    (ch.frozen = false → k.state = .sent → ch.link? (l.val + 1) = some n →
      ∃ t p, exec (.chr c l) s = .next t ∧ t.mem = s.mem ∧ t.chains = s.chains ∧ t.packets = s.packets ++ [p] ∧
        p.kind = .hop ch.uid (Fin.ofNat 64 (l.val + 1)) ∧ p.hopVals = v ∧ p.hopFmt = k.hop) ∧
    (ch.frozen = true → k.state = .frozen → k.held = .sent →
      ∃ t ch', exec (.chr c l) s = .next t ∧ t.packets = s.packets ∧ t.mem = s.mem ∧ t.chain? ch.uid = some ch' ∧
        ch'.link? l.val = some { k with resend := true })) ∧
  (∀ (s : State) (c : Fin 64) (ch : Chain), s.myChain c = some ch → s.chain? ch.uid = some ch → ch.freed = none →
    let frees (i : Instr) : Prop := ∃ t ch', exec i s = .next t ∧ t.mem = s.mem ∧ t.chain? ch.uid = some ch' ∧
      ch'.freed = some (s.tempo + 2) ∧ ∀ e ∈ ch.links, (t.slotOf ch e).owner ≠ some ch.uid
    ((∀ e ∈ ch.links, e.spare = false → e.state = .closed) → (∀ k, ch.close = some k → k.done = true) → frees (.chf c)) ∧
    frees (.chfAbort c)) ∧
  (∀ (s : State) (c : Fin 64), s.myChain c = none → Faults (.chf c) s 0x30 1 ∧ Faults (.chfAbort c) s 0x30 1) ∧
  (∀ (s : State) (c : Fin 64) (ch : Chain), s.myChain c = some ch →
    (∃ e ∈ ch.links, e.spare = false ∧ e.state ≠ .closed) → Faults (.chf c) s 0x30 0x0E)

/-! ## The xe slot -/

/-- 13 R347 to R372, 14 R386, R387, R393, R394: an xe command whose operands are legal enters the footprint table of its context with
its tag, its staging values, its footprints and its ordering edges, and changes nothing else when it issues: XCP, with empty ranges
where RUN is 0, XCNV, XCPR, XPF, XRTE, XSND, XRCV, XWR, XRD and XATM. RFEN drops the records of its address space, XCAN acts 2 tempo
later. XPF outside a primary context raises CTXCLASS; XCP, XCNV, XRTE, XWR, XRD and XATM under a tag in flight raise RACE, detail
0x07. That an XCP with RUN 0 checks alignment and windows alone (log entry 39) and which chamber an XPF beside a SWAP fills (log entry
102) are the model's readings. -/
def Obligations.ExchangeCommandsEnter : Prop :=
  (∀ (s : State) (t : Fin 64) (b : Fin 16) (nd : Fin 8) (sm dm at_ : Bool),
    let c := s.iss.ctx
    let ops := (List.range (3 + nd.val)).map fun i => s.xs b i
    let r := s.xs b 2
    let dims := (ops.drop 3).map xcpDim
    let x := s.sideOf c (xcpMember r 52 sm) (s.xs b 0) (dims.map fun d => (d.1, d.2.1)) (r.toNat % 2 ^ 32)
    let y := s.sideOf c (xcpMember r 40 dm) (s.xs b 1) (dims.map fun d => (d.1, d.2.2)) (r.toNat % 2 ^ 32)
    r.toNat % 2 ^ 32 ≠ 0 → sidesCheck x y (s.xs b 1) = none → s.xeFree t y.1.foot (s.atReg b at_ (3 + nd.val)) →
    CommandEnters (.xcp t b nd sm dm at_) s t (.xcp nd sm dm) ops x.1.foot y.1.foot none (s.atReg b at_ (3 + nd.val))) ∧
  (∀ (s : State) (t : Fin 64) (b : Fin 16) (nd : Fin 8) (sm dm at_ : Bool),
    let c := s.iss.ctx
    let r := s.xs b 2
    r.toNat % 2 ^ 32 = 0 →
    (∀ f ∈ (s.sideOf c (xcpMember r 52 sm) (s.xs b 0) [] 1).2 ++ (s.sideOf c (xcpMember r 40 dm) (s.xs b 1) [] 1).2, f.1 = 4 ∨ f.1 = 8) →
    s.xeFree t none (s.atReg b at_ (3 + nd.val)) →
    CommandEnters (.xcp t b nd sm dm at_) s t (.xcp nd sm dm) ((List.range (3 + nd.val)).map fun i => s.xs b i) none none none
      (s.atReg b at_ (3 + nd.val))) ∧
  (∀ (s : State) (t : Fin 64) (b : Fin 16) (fl at_ : Bool),
    let c := s.iss.ctx
    let ops := [s.xs b 0, s.xs b 1, s.xs b 2, s.xs b 3]
    let k := cnvOf ops
    let x := s.sideOf c none (s.xs b 0) [(max k.rows 1, (k.sstd : Int))] (k.groupBytes fl * max k.ng 1)
    let y := s.sideOf c none (s.xs b 1) [(max k.rows 1, (k.dstd : Int))] (k.groupBytes (!fl) * max k.ng 1)
    sidesCheck x y (s.xs b 1) = none → (s.xs b 0).toNat % 64 = 0 → k.sstd % 64 = 0 → (s.xs b 1).toNat % 64 = 0 → k.dstd % 64 = 0 →
    k.legal fl = true → s.xeFree t y.1.foot (s.atReg b at_ 4) →
    CommandEnters (if fl then .xcnvFl t b at_ else .xcnvPl t b at_) s t (.xcnv fl) ops x.1.foot y.1.foot none (s.atReg b at_ 4)) ∧
  (∀ (s : State) (t : Fin 64) (b : Fin 16) (put at_ : Bool) (r : BitVec 512),
    let sides := s.recordSides s.iss.ctx r (s.xs b 1)
    let x := if put then sides.2 else sides.1
    let y := if put then sides.1 else sides.2
    recordNamed (s.xs b 0) = true → s.ic.record = .got r → recordOk r = true →
    sidesCheck x y (if put then BitVec.ofNat 64 (recByte r 0 8) else s.xs b 1) = none →
    s.xeFree t y.1.foot (s.atReg b at_ 2) →
    CommandEnters (if put then .xcprPut t b at_ else .xcprGet t b at_) s t (.xcpr put r) [s.xs b 0, s.xs b 1] x.1.foot y.1.foot none
      (s.atReg b at_ 2)) ∧
  (∀ s : State, exec .rfen s = .next (s.setCore (coreOf s.iss.ctx) { s.core (coreOf s.iss.ctx) with
    records := (s.core (coreOf s.iss.ctx)).records.filter fun e => e.1 ≠ s.ic.spr.asid })) ∧
  (∀ (s : State) (t : Fin 64) (b : Fin 16) (at_ : Bool), s.ic.ctl.kind = .primary →
    s.xeFree t (footOf (.chamber (!s.ic.ctl.chamberB)) 0 131072) (s.atReg b at_ 1) →
    CommandEnters (.xpf t b at_) s t .xpf [s.xs b 0] none (footOf (.chamber (!s.ic.ctl.chamberB)) 0 131072) none (s.atReg b at_ 1)) ∧
  (∀ (s : State) (t : Fin 64) (b : Fin 16) (at_ : Bool), s.ic.ctl.kind ≠ .primary → Faults (.xpf t b at_) s 0x04 0) ∧
  (∀ (s : State) (t : Fin 64) (b : Fin 16) (at_ : Bool),
    let c := s.iss.ctx
    let ops := (List.range 7).map fun i => s.xs b i
    let r := routeOf ops
    let x := s.partsSide c [(r.ids, 2 * r.t), (r.caps, 4 * r.x)]
    let y := s.partsSide c [(r.out, r.x * r.lstd), (r.cnt, 4 * r.x + 4), (r.drop, 4 * r.t)]
    sidesCheck x y r.out = none → r.ids.toNat % 2 = 0 → r.caps.toNat % 4 = 0 → r.out.toNat % 4 = 0 → r.cnt.toNat % 4 = 0 →
    r.drop.toNat % 4 = 0 → r.x ≤ 4096 → 0 < r.t → r.t ≤ 2 ^ 24 → r.lstd % 4 = 0 →
    s.xeFree t y.1.foot (s.atReg b at_ 7) →
    CommandEnters (.xrte t b at_) s t .xrte ops x.1.foot y.1.foot none (s.atReg b at_ 7)) ∧
  (∀ (s : State) (t : Fin 64), exec (.xcan t) s = .next (s.landing 2 [.xcan t])) ∧
  (∀ (s : State) (t : Fin 64) (b : Fin 16) (snd : Bool),
    let a := (s.xs b 0).toNat
    let n := timedCount (s.xs b 1)
    let es := ((s.timesOf s.iss.ctx).drop (timedEntry (s.xs b 1))).take n
    let foot := footOf (.scratch (coreOf s.iss.ctx)) a (256 * n)
    let tt := (s.xs b 1).toNat % 2 ^ 32
    s.timedPrimary s.iss.ctx = true → s.tagBusy s.iss.ctx t = false → a + 256 * n ≤ 0x400000 → a % 32 = 0 →
    entriesOk snd s.ic.spr.lidx.toNat es n = true → s.ttempo s.iss.ctx + 2 ≤ tt →
    es.head?.map (fun e => e.off + if snd then 0 else 64) = some tt →
    (∀ e ∈ s.cmdsOf s.iss.ctx, overlapOpt e.dst foot = false ∧ overlapOpt e.also foot = false ∧
      (snd = false → overlapOpt e.src foot = false)) →
    (snd = false → s.spanRace foot = false) →
    CommandEnters (if snd then .xsnd t b else .xrcv t b) s t (if snd then .xsnd else .xrcv) [s.xs b 0, s.xs b 1]
      (if snd then foot else none) (if snd then none else foot) none none) ∧
  (∀ (s : State) (t : Fin 64) (b : Fin 16) (wr mem at_ : Bool),
    let c := s.iss.ctx
    let n := (s.xs b 2).toNat % 256 + 1
    let x := s.sideOf c (if mem then some (fld (s.xs b 2).toNat 52 12) else none) (s.xs b 0) [] n
    let y := ladrSide (coreOf c) (s.xs b 1) n
    sidesCheck x y (if wr then s.xs b 0 else s.xs b 1) = none → (s.xs b 0).toNat % 256 + n ≤ 256 →
    s.xeFree t (if wr then x.1.foot else y.1.foot) (s.atReg b at_ 3) →
    CommandEnters (if wr then .xwr t b mem at_ else .xrd t b mem at_) s t (if wr then .xwr mem else .xrd mem)
      [s.xs b 0, s.xs b 1, s.xs b 2] (if wr then y.1.foot else x.1.foot) (if wr then x.1.foot else y.1.foot) none
      (s.atReg b at_ 3)) ∧
  (∀ (s : State) (t : Fin 64) (b : Fin 16) (mem at_ : Bool),
    let c := s.iss.ctx
    let w := (s.xs b 4).toNat
    let n := if fld w 6 2 = 1 then 8 else 4
    let x := s.sideOf c (if mem then some (fld w 52 12) else none) (s.xs b 0) [] n
    let y := ladrSide (coreOf c) (s.xs b 3) 8
    sidesCheck x y (s.xs b 3) = none → (s.xs b 0).toNat % n = 0 → (s.xs b 3).toNat % 8 = 0 → atomOf w ≠ none →
    s.xeFree t y.1.foot (s.atReg b at_ 5) →
    CommandEnters (.xatm t b mem at_) s t (.xatm mem) [s.xs b 0, s.xs b 1, s.xs b 2, s.xs b 3, s.xs b 4] x.1.foot y.1.foot x.1.foot
      (s.atReg b at_ 5)) ∧
  (∀ (s : State) (t : Fin 64) (b : Fin 16) (nd : Fin 8) (sm dm mem : Bool), s.tagBusy s.iss.ctx t = true →
    Faults (.xcp t b nd sm dm false) s 0x14 7 ∧ Faults (.xcnvPl t b false) s 0x14 7 ∧ Faults (.xrte t b false) s 0x14 7 ∧
    Faults (.xwr t b mem false) s 0x14 7 ∧ Faults (.xrd t b mem false) s 0x14 7 ∧ Faults (.xatm t b mem false) s 0x14 7)

/-! ## Events of a context -/

/-- 07 R193, R195, R197, R207, R208, R220, 08 R222: the one elastic access of a context that is in flight completes. At a home point of its
own die that takes it, a load writes its register, a store writes its word and an atomic does both, each with its tag set and status 0;
for a home point at another die its request enters the ring there, and the access stays in flight. One that is lost, or whose walk meets
a retired segment, gives LOST with its register kept; whether a lost store or atomic has performed stays open (log entry 47), and a lost
load leaves memory as it is. One that does not translate, or whose block holds an uncorrectable error, stops and leaves a deferred
condition. The contribution of an AORD that is the whole of its stream is applied to its word, in shared scratch or device memory, and
ends; one out of order is held in its home bank, and one that contradicts its stream stops with ADDR, detail 0x07. -/
def Obligations.ElasticAccessesComplete : Prop :=
  (∀ (s : State) (c : CtxId) (e : Elastic), s.setsOut c e →
    let completes (i : Instr) (status : Nat) (regs : Regs) (p : State → Prop) : Prop :=
      ∃ u, exec i s = .next u ∧ (u.ctx c).elas = [] ∧ (u.ctx c).regs = regs ∧ (u.ctx c).spr.tags.getLsbD e.tag.val = true ∧
        (u.ctx c).spr.xst[e.tag] = BitVec.ofNat 8 status ∧ p u
    let here (wr : Bool) (p : Tgt → Prop) : Prop :=
      ∀ t, s.elasticHome c e = .ok t → s.atHome c t e.bytes wr → s.plainAt c t e.bytes → p t
    let i : Instr := .elasticAccessComplete c e.id false
    completes (.elasticAccessComplete c e.id true) 0x20 (s.ctx c).regs (fun u => e.op.need = .read → u.mem = s.mem) ∧
    ((∀ k fl n m x, e.op ≠ .aord k fl n m x) → e.walks = true →
      s.walkDead (coreOf c) (s.ctx c).part (s.ctx c).spr.asid e.va.toNat = true →
      completes i 0x20 (s.ctx c).regs (fun u => u.mem = s.mem)) ∧
    (s.walkOpen c e →
      (∀ k n sx d, e.op = .load k n sx d → here false fun t =>
        completes i 0 ((s.ctx c).regs.setS d (extendLoad n sx (readN s.mem t.key n))) fun u => u.mem = s.mem) ∧
      (∀ k n v, e.op = .store k n v → here true fun t =>
        completes i 0 (s.ctx c).regs fun u => u.mem = writeN s.mem t.key n v) ∧
      (∀ k o ty x ex d, e.op = .atom k o ty x ex d → here true fun t =>
        let old := readN s.mem t.key ty.bytes
        completes i 0 ((s.ctx c).regs.setS d (atomResult ty old)) fun u =>
          u.mem = writeN s.mem t.key ty.bytes (atomApply o ty old x.toNat ex.toNat)) ∧
      ((∀ k fl n m x, e.op ≠ .aord k fl n m x) → ∀ t, s.elasticHome c e = .ok t → dieOfTgt t ≠ dieOf (coreOf c) →
        ∃ u p e', exec i s = .next u ∧ (u.ctx c).elas = [e'] ∧ e'.id = e.id ∧ e'.sent = true ∧ e'.stopped = false ∧
          (u.ctx c).regs = (s.ctx c).regs ∧ (u.ctx c).spr = (s.ctx c).spr ∧ u.mem = s.mem ∧ u.packets = s.packets ++ [p] ∧
          p.acc = some e.id ∧ p.tgt = some t ∧ p.srcDie = dieOf (coreOf c) ∧ p.dstDie = dieOfTgt t ∧ p.at_ = .pending ∧
          u.pending s.tempo (.packetInject p.id) ∧
          (∀ k n sx d, e.op = .load k n sx d → p.kind = .read ∧ p.len = n) ∧
          (∀ k n v, e.op = .store k n v → p.kind = .write ∧ p.bytes = bytesOf v n) ∧
          ∀ k o ty x ex d, e.op = .atom k o ty x ex d → p.kind = .atomic ∧ p.atom = some (o, ty, x, ex)) ∧
      ((∀ k fl n m x, e.op ≠ .aord k fl n m x) → (s.ctx c).frz = none →
        let stops (f : Nat × Nat) : Prop :=
          ∃ u d, exec i s = .next u ∧ (u.ctx c).elas = [{ e with stopped := true, tgt := none }] ∧
            (u.ctx c).defer = (s.ctx c).defer ++ [d] ∧ d.cause = f.1 ∧ d.detail = f.2 ∧ d.what = .mem e.id ∧
            (u.ctx c).spr.tags = (s.ctx c).spr.tags ∧ (u.ctx c).regs = (s.ctx c).regs ∧ u.mem = s.mem
        (∀ f, s.elasticHome c e = .error f → stops (f.cause, f.detail)) ∧
        ∀ t b, s.elasticHome c e = .ok t → s.atHome c t e.bytes (e.op.need != .read) →
          s.eccAt t.key (t.key + e.bytes - 1) = some b → stops (0x40, eccDetail b)) ∧
      ∀ (key : Nat) (fl : Bool) (n count : BitVec 32) (x : Word), e.op = .aord key fl n count x →
        let bytes := if fl then 4 else 8
        ∀ t, s.elasticHome c e = .ok t → s.atHome c t bytes false → s.plainAt c t bytes →
          let j : Instr := .orderedAtomicArrival c e.id
          ((s.die (dieOfKey t.key)).streams = [] → n = 0 → count = 1 → s.queueFull (s.ctx c).part t = false →
            completes j 0 (s.ctx c).regs fun u =>
              u.mem = writeN s.mem t.key bytes (aordAdd fl (readN s.mem t.key bytes) x.toNat) ∧
              (u.die (dieOfKey t.key)).streams = []) ∧
          ((s.die (dieOfKey t.key)).streams = [] → n ≠ 0 → n.toNat < count.toNat →
            ∃ u st e', exec j s = .next u ∧ (u.ctx c).elas = [e'] ∧ e'.id = e.id ∧ e'.banked = true ∧ u.mem = s.mem ∧
              (u.ctx c).spr = (s.ctx c).spr ∧ (u.die (dieOfKey t.key)).streams = [st] ∧ st.held = [(n, x, c, e.id)] ∧
              st.next = 0 ∧ st.count = count ∧ st.key = t.key) ∧
          (∀ st, (s.die (dieOfKey t.key)).streams = [st] → st.part = (s.ctx c).part → st.asid = (s.ctx c).spr.asid → st.key = t.key →
            st.held.length < 256 → (count ≠ st.count ∨ st.count.toNat ≤ n.toNat ∨ n.toNat < st.next.toNat) → (s.ctx c).frz = none →
            ∃ u d, exec j s = .next u ∧ (u.ctx c).elas = [{ e with stopped := true, tgt := none }] ∧
              (u.ctx c).defer = (s.ctx c).defer ++ [d] ∧ d.cause = 0x10 ∧ d.detail = 7 ∧ u.mem = s.mem)))

/-- 05 R125, R130, R132, R144, R145, R149 to R152, 16 R451: a held bundle whose conditions have come to hold issues next; a branch target
presents; 32 tempo after a barrier completes its waiting members may issue; a fixed-length task at its length freezes with TIMING; when
its drain has ended a task gives way to the next one of its slice, with its coordinates, its chamber's entry and its registers kept, and
with the last the member leaves its context, as a second does. That PBT and PBD become 0 when a target presents is the model's reading
(log entry 92). -/
def Obligations.ContextEvents : Prop :=
  (∀ (s : State) (c : CtxId) (h : Hold), (s.ctx c).hold = some h → h.met = true → h.go = false → s.mayPresent c = true →
    s.recordDue c = false → (s.atBundle c).holdReady h.since = .go →
    exec (.heldBundleIssue c) s = .next (s.setCtx c { s.ctx c with hold := some { h with go := true } })) ∧
  (∀ (s : State) (c : CtxId), s.mayPresent c = true → (s.ctx c).ctl.pbv = true → (s.ctx c).ctl.dly = true →
    ((s.ctx c).ctl.pbd = true → s.resultsLanded c = true) →
    exec (.branchTargetPresent c) s = .next (s.setCtx c { s.ctx c with
      present := s.tempo,
      ctl := { (s.ctx c).ctl with pc := (s.ctx c).ctl.pbt, pbv := false, pbd := false, pbt := 0, dly := false, past := false } })) ∧
  (∀ (s : State) (g : Nat) (b : Fin 16) (x : Gang), s.gang? g = some x → x.barriers[b].done + 32 ≤ s.tempo →
    ∃ t, exec (.barrierRelease g b) s = .next t ∧ t.mem = s.mem ∧ t.gangs = s.gangs ∧
      ∀ c : CtxId, t.ctx c =
        if c ∈ s.liveMembers x ∧ s.waitsOn c b = true ∧ (s.ctx c).arrivals[b].phase ≠ x.barriers[b].phase then
          { s.ctx c with hold := (s.ctx c).hold.map fun q => { q with met := q.met || q.rest } }
        else s.ctx c) ∧
  (∀ (s : State) (c : CtxId) (n : Nat), s.fixedOf c = some n → s.heldCtx c = false → s.domainHalted c = false →
    (((s.ctx c).run = .run ∧ n ≤ s.ttempo c) →
      ∃ t, exec (.taskLengthExpiry c) s = .next t ∧ FrozenWith t c 0x20 1 ∧ (t.ctx c).regs = (s.ctx c).regs) ∧
    (((s.ctx c).run = .drain ∧ s.ttempo c = n ∧ s.quiet c = false) →
      ∃ t, exec (.taskLengthExpiry c) s = .next t ∧ FrozenWith t c 0x20 2 ∧ (t.ctx c).regs = (s.ctx c).regs)) ∧
  (∀ (s : State) (c : CtxId) (g : Gang), s.drainDue c = true → (s.ctx c).ctl.kind ≠ .second → s.gangOf c = some g → g.switch = false →
    (s.ctx c).spr.taskn.toNat + 1 < g.slices.getD (s.ctx c).spr.lidx.toNat 0 →
    let n := (s.ctx c).spr.taskn.toNat + 1
    let sec := (s.ctx c).ctl.kind = .secondary
    ∃ t, exec (.taskDrainEnd c) s = .next t ∧ (t.ctx c).run = .run ∧ (t.ctx c).present = s.tempo ∧ (t.ctx c).regs = (s.ctx c).regs ∧
      (t.ctx c).spr.taskn = BitVec.ofNat 64 n ∧ (t.ctx c).spr.tile = taskTile g.kernel n ∧ (t.ctx c).spr.start = s.tempo ∧
      (t.ctx c).ctl.pc = BitVec.ofNat 14 ((if sec then 4096 else 0) + g.kernel.entry) ∧ (t.ctx c).ctl.nest = [] ∧
      (t.ctx c).ctl.depth = 0 ∧ (∀ i : Fin 6, (t.ctx c).ctl.loops[i].st = .idle)) ∧
  (∀ (s : State) (c : CtxId) (g : Gang), s.drainDue c = true → (s.ctx c).ctl.kind ≠ .second → s.gangOf c = some g →
    g.slices.getD (s.ctx c).spr.lidx.toNat 0 ≤ (s.ctx c).spr.taskn.toNat + 1 →
    ∃ t, exec (.taskDrainEnd c) s = .next t ∧ (t.ctx c).run = .free) ∧
  (∀ (s : State) (c : CtxId), s.drainDue c = true → (s.ctx c).ctl.kind = .second →
    ∃ t, exec (.taskDrainEnd c) s = .next t ∧ (t.ctx c).run = .free)

/-- 15 R406, R409, R410, R414, R416, R419, R420, R421, R431, R436, R437, 19 R516: a due deferred condition freezes its context with its
cause and detail, its registers kept, and the items of all conditions found stand in that one record; a self-test that passes ends, is counted, and lets the record be written, which names test and unit; a core
that fails takes a free spare and the record says so; without one its whole cluster is retired; a record is written once its context has
drained and no test of it runs; where a second can be placed it starts in that context 1 tempo later, at the handler entry or, nested or
passed, the supervisor entry, with registers at reset and a valid capability for the frozen thread in h0, and where none can be the
thread enters the fault queue; a context told to go on at SRES, and due, runs again with its registers and control state as they were,
one told to go on at a PC presents that bundle with no branch pending; a gang hold that is due ends, and the task tempo of the members
leaves the held tempo out; the host resumes, passes and kills the thread that HACTA names, an operation with no such thread is refused,
and DREL lifts the halt of the domain of a region that alone has its address in the partition, its one thread that nobody holds entering
the fault queue again. Which context a second takes and which spare a core takes is the model's choice (log entries 59 and 111), and so is the threshold of
soft errors that the host is told of (log entry 114), which threads HACT refuses (log entry 77), and that threads enter the fault queue
again at DREL (log entry 99). -/
def Obligations.FaultEvents : Prop :=
  (∀ (s : State) (c : CtxId) (d : DefItem) (rest : List DefItem), s.deferDue c = true → (s.ctx c).defer = d :: rest →
    (d.afterHold = true → s.heldCtx c = false) →
    ∃ t, exec (.deferredCondition c) s = .next t ∧ FrozenWith t c d.cause d.detail ∧ (t.ctx c).defer = [] ∧
      (∃ f, (t.ctx c).frz = some f ∧ f.items = (d :: rest).filter DefItem.listed) ∧
      (t.ctx c).regs = (s.ctx c).regs ∧ (t.ctx c).ctl = { (s.ctx c).ctl with srv := true, sres := 0 }) ∧
  (∀ (s : State) (place : Nat) (u : TUnit),
    let die : DieId := Fin.ofNat 8 (place / 2 ^ 40)
    let rest : Pkg := { s.pkg with tests := s.pkg.tests.erase { unit := u, place := place } }
    (∃ t, exec (.targetedSelfTest place none u .pass) s = .next t ∧ t.ctxs = s.ctxs ∧ t.mem = s.mem ∧
      (softPasses (s.die die).soft = false → t.pkg = rest) ∧ (softPasses (s.die die).soft = true → t.pkg.evt.getLsbD 6 = true) ∧
      (t.die die).soft = satAdd (s.die die).soft) ∧
    (∀ (c : CtxId) (f : Frozen), (s.ctx c).frz = some f →
      ∃ t, exec (.targetedSelfTest place (some c) u .pass) s = .next t ∧
        (t.ctx c).frz = some { f with testing := false, test := 1, unit := TUnit.code u } ∧
        (softPasses (s.die die).soft = false → t.pkg = rest) ∧ (softPasses (s.die die).soft = true → t.pkg.evt.getLsbD 6 = true) ∧
        (t.die die).soft = satAdd (s.die die).soft)) ∧
  (∀ (s : State) (place : Nat) (c : CtxId) (f : Frozen) (r : TRes), (s.ctx c).frz = some f → r ≠ .pass →
    let k := coreAt place
    let listed := s.retireUnit (36 * (dieOf k).val + (s.core k).phys.val)
    (∀ n, listed.freePhys (dieOf k) = some n →
      ∃ t, exec (.targetedSelfTest place (some c) .core r) s = .next t ∧ (t.core k).phys = n ∧
        (t.core k).retired = (s.core k).retired ∧ (t.ctx c).frz = some { f with testing := false, test := 2, unit := 3 }) ∧
    (listed.freePhys (dieOf k) = none →
      ∃ t f', exec (.targetedSelfTest place (some c) .core r) s = .next t ∧
        (∀ j : Fin 4, (t.core (Fin.ofNat 256 (k.val / 4 * 4 + j.val))).retired = true) ∧
        (t.ctx c).frz = some f' ∧ f'.testing = false ∧ f'.test = 3 ∧ f'.unit = 3)) ∧
  (∀ (s : State) (c : CtxId) (f : Frozen), (s.ctx c).frz = some f → f.written = false → f.testing = false → f.items = [] →
    s.drained c = true →
    ∃ t f', exec (.secondSpawn c) s = .next t ∧ (t.ctx c).frz = some f' ∧ f'.written = true ∧ f'.serial = f.serial) ∧
  (∀ (s : State) (c : CtxId) (f : Frozen), (s.ctx c).frz = some f → f.written = true → (s.ctx c).awaits = true →
    s.domainHalted c = false → s.secondPlace c = none → (s.part (s.ctx c).part).fq.length < 64 →
    ∃ t, exec (.secondSpawn c) s = .next t ∧ c ∈ (t.part (s.ctx c).part).fq ∧ t.ctxs = s.ctxs ∧ t.mem = s.mem) ∧
  (∀ (s : State) (c d : CtxId) (g : Gang) (f : Frozen), (s.ctx c).frz = some f → f.written = true → (s.ctx c).awaits = true →
    s.domainHalted c = false → s.gangOf c = some g →
    s.secondPlace c = some d →
    let nested := (s.ctx c).ctl.kind = .second
    ∃ t k, exec (.secondSpawn c) s = .next t ∧ (t.ctx d).run = .run ∧ (t.ctx d).ctl.kind = .second ∧ (t.ctx d).forCtx = some c ∧
      (t.ctx d).regs = .reset ∧ (t.ctx d).present = s.tempo + 1 ∧
      (t.ctx d).ctl.pc = (if nested ∨ f.sup = true then g.dom.sent else g.dom.hent).truncate 14 ∧
      (t.ctx d).ctl.level = (if nested then 2 else 1) ∧ (t.ctx d).caps[0] = some k ∧ k.target = c ∧ t.validCap k) ∧
  (∀ (s : State) (c : CtxId) (f : Frozen) (n : Nat), s.resumeDue c = true → (s.ctx c).frz = some f → f.items = [] →
    (∀ g, s.gangOf c = some g → g.waitStart = false) →
    (f.resume = some (n, .atSres) → ∃ t, exec (.contextResume c) s = .next t ∧ (t.ctx c).frz = none ∧
      (t.ctx c).run = (if f.drn then .drain else .run) ∧ (t.ctx c).regs = (s.ctx c).regs ∧ (t.ctx c).ctl = (s.ctx c).ctl ∧
      (t.ctx c).present = s.tempo ∧ t.mem = s.mem) ∧
    (∀ a : Word, f.resume = some (n, .atPc a) → a.toNat < 2 ^ 14 → ∃ t, exec (.contextResume c) s = .next t ∧
      (t.ctx c).frz = none ∧ (t.ctx c).run = .run ∧ (t.ctx c).regs = (s.ctx c).regs ∧ (t.ctx c).ctl.pc.toNat = a.toNat ∧
      (t.ctx c).ctl.srv = false ∧ (t.ctx c).ctl.pbv = false ∧ (t.ctx c).present = s.tempo ∧ t.mem = s.mem)) ∧
  (∀ (s : State) (g h : Nat) (x : Gang), s.gang? g = some x → x.held = some h → s.holdEndDue x = true → x.members.Nodup →
    ∃ t, exec (.gangHoldEnd g) s = .next t ∧ t.gang? g = some { x with held := none } ∧ t.mem = s.mem ∧
      (∀ c ∈ s.liveMembers x, (t.ctx c).spr.start = (s.ctx c).spr.start + (s.tempo - h) ∧ (t.ctx c).regs = (s.ctx c).regs ∧
        (t.ctx c).ctl = (s.ctx c).ctl) ∧
      ∀ c, c ∉ x.members → t.ctx c = s.ctx c) ∧
  (∀ (s : State) (p : PartId) (c : CtxId) (f : Frozen), s.hostThread p = some c → (s.ctx c).frz = some f →
    ((s.core (coreOf c)).retired = false → ∃ t, exec (.hactResume p) s = .next t ∧
      (t.ctx c).frz = some { f with cap := none, host := false, resume := some (s.tempo, .atSres) } ∧ (t.part p).hactRef = false) ∧
    (∃ t, exec (.hactPass p) s = .next t ∧ (t.ctx c).frz = some { f with cap := none, sup := true, host := false } ∧
      (t.part p).hactRef = false ∧ ∃ due, s.tempo ≤ due ∧ (due, Instr.secondSpawn c) ∈ t.agenda) ∧
    (((s.ctx c).ctl.kind = .second ∨ ∃ g, (s.ctx c).gang = some g.id ∧ s.gang? g.id = some g ∧ c ∈ g.members) →
      ∃ t, exec (.hactKill p) s = .next t ∧ (t.ctx c).run = .free)) ∧
  (∀ (s : State) (p : PartId), s.hostThread p = none →
    let refused := s.setPart p { s.part p with hactRef := true }
    exec (.hactResume p) s = .next refused ∧ exec (.hactKill p) s = .next refused ∧ exec (.hactPass p) s = .next refused) ∧
  (∀ (s : State) (p : PartId) (k : Nat) (r : Region), (k, r) ∈ s.regions → r.part = p →
    (∀ x ∈ s.regions, x.2.part = p → x.2.rcb = r.rcb → x.2 = r) → (s.part p).halted.contains r.eff.dom.name = true →
    (s.unheld p r.eff.dom.name = [] →
      ∃ t, exec (.drel p r.rcb) s = .next t ∧ t.ctxs = s.ctxs ∧ t.mem = s.mem ∧
        (t.part p).halted = (s.part p).halted.filter fun o => o ≠ r.eff.dom.name) ∧
    (∀ c : CtxId, s.unheld p r.eff.dom.name = [c] → (s.ctx c).part = p → (s.part p).fq.length < 64 →
      ∃ t, exec (.drel p r.rcb) s = .next t ∧ t.ctxs = s.ctxs ∧ c ∈ (t.part p).fq ∧
        (t.part p).halted = (s.part p).halted.filter fun o => o ≠ r.eff.dom.name))

/-! ## Queues, regions and gangs -/

/-- 16 R439 to R442, R445, R447, R450 to R452, R455 to R457: a DMWr with a well-formed record of a known PASID and an enabled queue is
answered by its sequence number, its generation and the room there is, and one that is taken enters the queue of its page; a posted
write, or one to a page that names no queue, is UR, and outside service nothing answers.
The director takes the oldest record of a queue that no post, scrub or halt holds back; its root, a leaf with no predecessor, is queued
and due at once. A completion's interrupt goes out once its record has drained. A due group runs and a due leaf waits; a waiting leaf
that can be placed on the cores left to it starts its gang, one member a context, with its first task and registers at reset; one that
cannot waits on. The end of a slice orders the gang out where a region of its priority waits for its cores and it has a switch area,
and renews it otherwise. Which cores a waiting region leaves to others, and which dies come first, is the model's choice (log entries
24 and 86); so are WAITING for a due leaf (log entry 62), the retry at tempo + 1 (log entry 19), and the answer of a page slot that is
not valid (log entry 130). -/
def Obligations.QueueEvents : Prop :=
  (∀ (s : State) (f : FuncId) (slot page : QueueId) (off : BitVec 12) (pasid : BitVec 20) (data : BitVec 1024) (e : AsidEntry),
    let n := data.toNat
    let q := s.queue page
    let i : Instr := .enqueue f slot off false (some pasid) 128 data
    let seq := BitVec.ofNat 32 (fld n 96 32)
    let gen := BitVec.ofNat 32 (fld n 128 32)
    let last := lookup? q.lastSeq e.asid.toNat
    let known := gen = 0 ∨ gen = q.qgen ∨ ∃ x, q.repl = some x ∧ gen = x.gen
    let next := (last = none ∧ seq = 0) ∨ ∃ l, last = some l ∧ seq = l + 1
    s.serving? = true → (s.func f).ready = true → off.toNat % 128 = 0 → s.pageQueue f slot = some page →
    ((s.part q.part).asids.find? fun y => y.func == f.val && y.pasid == pasid) = some e → q.en = true →
    recordShape page f n = true →
    (last = some seq → exec i s = .next (s.dmwr 1)) ∧
    (last ≠ some seq → ¬next → exec i s = .next (s.queueRefuse page f 3)) ∧
    (next → last ≠ some seq → ¬known → exec i s = .next (s.queueRefuse page f 4)) ∧
    (next → last ≠ some seq → known → (q.stop = true ∨ 256 ≤ q.fifo.length) → exec i s = .next (s.dmwr 3)) ∧
    (next → last ≠ some seq → known → q.stop = false → q.fifo.length < 256 →
      ∃ t r, exec i s = .next t ∧ t.pkg.dmwr = 1 ∧ t.mem = s.mem ∧
        t.queue page = { q with fifo := q.fifo ++ [r], lastSeq := insertAt q.lastSeq e.asid.toNat seq } ∧
        r.rcb.toNat = fld n 0 64 ∧ r.seq = seq ∧ r.gen = gen ∧ r.asid = e.asid ∧ r.func = f ∧ (r.irq = true ↔ n.testBit 160 = true) ∧
        r.vector = fld n 161 10 ∧ r.cadr.toNat = fld n 192 64 ∧ numOf r.user = fld n 256 256 ∧ t.pending s.tempo (.recordAdmit page))) ∧
  (∀ (s : State) (f : FuncId) (page : QueueId) (off : BitVec 12) (pasid : Option (BitVec 20)) (len : Nat) (data : BitVec 1024),
    let i (posted : Bool) : Instr := .enqueue f page off posted pasid len data
    (s.serving? = true → exec (i true) s = .next (s.dmwr 2) ∧
      (s.pageQueue f page = none → exec (i false) s = .next (s.dmwr 2))) ∧
    ∀ posted, s.serving? = false → exec (i posted) s = .next (s.dmwr 0)) ∧
  (∀ (s : State) (q : QueueId) (r : Record) (rest : List Record) (g : BitVec 32), (s.queue q).fifo = r :: rest →
    (s.queue q).genOf r = some g → s.queuePosted q = false → s.scrubScope (s.queue q).part r.asid = false →
    (s.part (s.queue q).part).halted.contains (r.asid, r.rcb) = false →
    let s1 := s.setQueue q { s.queue q with fifo := rest }
    ∃ t, exec (.recordAdmit q) s = .next t ∧ t.queue q = { s.queue q with fifo := rest } ∧
      ∀ n, s1.readRcb (s.queue q).part r.asid r.rcb = .ok (n, true) → rcbFlaw n true = false → rcbF n 45 1 = 0 → rcbF n 24 8 ≠ 0 →
        t.pending s.tempo (.gangStart s.fresh) ∧
        (t.region? s.fresh).map (fun x => (x.rcb, x.asid, x.gen, x.leaf, x.kernel.toNat, x.state, x.due)) =
          some (r.rcb, r.asid, g, true, rcbF n 24 8 % 2 ^ 64, .queued, some s.tempo)) ∧
  (∀ (s : State) (r : Nat) (x : Root), (s.roots.find? fun y => y.region == r && y.written) = some x →
    (x.drained ≤ s.tempo → exec (.completionMsix r) s = .next { s with
      roots := s.roots.filter fun y => y.region != r
      pkg := { s.pkg with msix := s.pkg.msix ++ [(x.record.func.val, x.record.vector)] } }) ∧
    (s.tempo < x.drained → ∃ t, exec (.completionMsix r) s = .next t ∧ (x.drained, .completionMsix r) ∈ t.agenda ∧
      t.pkg = s.pkg ∧ t.roots = s.roots)) ∧
  (∀ (s : State) (r : Region) (d : Nat), s.region? r.id = some r → r.due = some d → d ≤ s.tempo → s.replHeld r = false →
    (r.state = .queued ∨ r.state = .held) →
    (r.leaf = false → ∃ t, exec (.gangStart r.id) s = .next t ∧ (t.region? r.id).map (·.state) = some .running) ∧
    (r.leaf = true → ∃ t, exec (.gangStart r.id) s = .next t ∧ (t.region? r.id).map (·.state) = some .waiting ∧
      t.pending s.tempo (.gangStart r.id))) ∧
  (∀ (s : State) (r : Region) (d : Nat) (w : Work), s.region? r.id = some r → r.due = some d → d ≤ s.tempo → r.state = .waiting →
    s.replHeld r = false → r.leaf = true → s.waits r = true → s.workOf r = .ok w → s.placeAt r w (s.reserved r) = none →
    ∃ t, exec (.gangStart r.id) s = .next t ∧ t.regions = s.regions ∧ t.ctxs = s.ctxs ∧ (s.tempo + 1, .gangStart r.id) ∈ t.agenda) ∧
  (∀ (s : State) (r : Region) (d : Nat) (w : Work) (x : Placement) (img : Image), s.region? r.id = some r → r.due = some d →
    d ≤ s.tempo → r.state = .waiting → s.replHeld r = false → r.leaf = true → s.waits r = true → s.workOf r = .ok w →
    s.placeAt r w (s.reserved r) = some x → x.image = some img → r.preds = [] → x.members.Nodup →
    (∀ i, i < x.members.length → sliceLo img.kernel x.members.length i < sliceLo img.kernel x.members.length (i + 1)) →
    ∃ t, exec (.gangStart r.id) s = .next t ∧
      (t.region? r.id).map (fun y => (y.state, y.gang, y.startT)) = some (.running, some s.fresh, some s.tempo) ∧
      (t.gang? s.fresh).map (fun g => (g.members, g.alive, g.k)) = some (x.members, x.members.length, x.k) ∧
      ∀ (i : Nat) (c : CtxId), x.members[i]? = some c →
        (t.ctx c).run = .run ∧ (t.ctx c).gang = some s.fresh ∧ (t.ctx c).regs = .reset ∧ (t.ctx c).present = s.tempo ∧
        (t.ctx c).spr.lidx = BitVec.ofNat 16 i ∧ (t.ctx c).spr.gsize = BitVec.ofNat 16 x.members.length ∧
        (t.ctx c).spr.asid = r.asid ∧ (t.ctx c).spr.gen = r.gen ∧
        (t.ctx c).spr.taskn = BitVec.ofNat 64 (sliceLo img.kernel x.members.length i) ∧
        (t.ctx c).spr.tile = taskTile img.kernel (sliceLo img.kernel x.members.length i) ∧
        (t.ctx c).ctl.pc = BitVec.ofNat 14 ((if isSec c then 4096 else 0) + img.kernel.entry)) ∧
  (∀ (s : State) (g : Nat) (x : Gang) (r : Region), s.gang? g = some x → s.region? x.region = some r →
    s.tempo = x.sliceStart + r.eff.budt →
    ((s.peerWaits x = true ∧ r.eff.sava ≠ 0) →
      ∃ t, exec (.sliceEnd g) s = .next t ∧ t.gang? g = some { x with switch := true } ∧ t.ctxs = s.ctxs ∧ t.mem = s.mem) ∧
    (¬(s.peerWaits x = true ∧ r.eff.sava ≠ 0) →
      ∃ t, exec (.sliceEnd g) s = .next t ∧ t.gang? g = some { x with sliceStart := s.tempo } ∧
        (s.tempo + r.eff.budt, .sliceEnd g) ∈ t.agenda ∧ t.ctxs = s.ctxs ∧ t.mem = s.mem))

/-- 16 R457, R458: a gang that has been ordered out and has stopped leaves its cores, the contexts and cores of its members saved as they
stood; one that can be placed on the cores left to it runs on with its registers, control state and task as they were, the tempo that it
was out left out of its task tempo, which starts at 0 for one that stopped between two tasks, and one that cannot waits on. R459, R460: a replacement is posted by a serving queue that has none,
with 1 to 254 layers; the update region of its layer is started once the layer is clear; its end moves on to the next layer and, with
the last, makes the new generation current, and an update region that fails stops the replacement and tells the host. That the saved
state comes back from the region, not from the bytes of the switch area, is the model's choice (log entry 66), as are the retry at
tempo + 1 (log entry 19) and the cores that are left to a region (log entry 86). -/
def Obligations.SwitchAndReplacement : Prop :=
  (∀ (s : State) (x : Gang) (r : Region), s.gang? x.id = some x → s.region? x.region = some r → s.switchDue x = true →
    ∃ t sv, exec (.switchOut x.id) s = .next t ∧ t.gang? x.id = none ∧
      t.region? x.region = some { r with saved := some sv, state := .switched, gang := none } ∧
      sv.gang = x ∧ sv.stop = s.tempo ∧ sv.members.length = x.members.length ∧
      (∀ m ∈ sv.members, ∃ c ∈ x.members, m.ctx = s.ctx c ∧ m.core = s.core (coreOf c)) ∧
      (∀ c ∈ s.liveMembers x, (t.ctx c).run = .free ∧ (t.ctx c).regs = (s.ctx c).regs) ∧ (∀ c, c ∉ x.members → t.ctx c = s.ctx c) ∧
      t.pending s.tempo (.switchIn x.region)) ∧
  (∀ (s : State) (r : Region) (x : Saved) (w : Work), s.region? r.id = some r → r.saved = some x → r.state = .switched →
    s.waits r = true → s.workOf r = .ok w → s.placeAt r w (s.reserved r) = none →
    ∃ t, exec (.switchIn r.id) s = .next t ∧ t.regions = s.regions ∧ t.ctxs = s.ctxs ∧ (s.tempo + 1, .switchIn r.id) ∈ t.agenda) ∧
  (∀ (s : State) (r : Region) (x : Saved) (w : Work) (y : Placement), s.region? r.id = some r → r.saved = some x → r.state = .switched →
    s.waits r = true → s.workOf r = .ok w → s.placeAt r w (s.reserved r) = some y → y.members.Nodup →
    (x.members.map (·.lidx)).Nodup →
    ∃ t, exec (.switchIn r.id) s = .next t ∧
      t.region? r.id = some { r with state := .running, gang := some x.gang.id, saved := none } ∧
      (t.gang? x.gang.id).map (·.members) = some y.members ∧
      ∀ m ∈ x.members, m.ended = false → ∀ c, y.members[m.lidx]? = some c →
        (t.ctx c).run = .run ∧ (t.ctx c).regs = m.ctx.regs ∧ (t.ctx c).ctl = m.ctx.ctl ∧
        (t.ctx c).spr = { m.ctx.spr with
          start := if m.ctx.run = .parked then s.tempo else m.ctx.spr.start + (s.tempo - x.stop) } ∧
        (t.ctx c).present = s.tempo + (m.ctx.present - x.stop) ∧ (t.ctx c).arrivals = m.ctx.arrivals) ∧
  (∀ (s : State) (q : QueueId) (addr : Word) (l : List Byte),
    let x := s.queue q
    let w := x.qrepg.toNat
    let nl := fld w 32 8
    let asid := BitVec.ofNat 14 (fld w 40 14)
    ((x.serv = false ∨ x.repl.isSome = true ∨ nl = 0 ∨ 254 < nl) → exec (.replacementPost q addr) s = .next s) ∧
    (x.serv = true → x.repl = none → 1 ≤ nl → nl ≤ 254 → s.dirRead x.part asid (8 * nl + 1) addr.toNat (8 * nl) = some l →
      ∃ t p, exec (.replacementPost q addr) s = .next t ∧ t.queue q = { x with qrepa := addr, repl := some p } ∧ t.ctxs = s.ctxs ∧
        p.gen = BitVec.ofNat 32 (fld w 0 32) ∧ p.nl = nl ∧ p.asid = asid ∧ p.layer = 0 ∧ p.region = none ∧ p.stopped = false ∧
        p.rcbs = (chunks 8 nl l).map (BitVec.ofNat 64))) ∧
  (∀ (s : State) (q : QueueId) (x : Replace), s.replDue q = true → (s.queue q).repl = some x →
    (x.region = none →
      ∃ t, exec (.replacementLayerStep q) s = .next t ∧ (t.queue q).repl = some { x with region := some s.fresh } ∧
        (t.queue q).qgen = (s.queue q).qgen) ∧
    (∀ (u : Nat) (r : Region), x.region = some u → s.region? u = some r → r.state = .done →
      ∃ t, exec (.replacementLayerStep q) s = .next t ∧ t.queue q =
        if x.layer + 1 = x.nl then { s.queue q with qgen := x.gen, repl := none }
        else { s.queue q with repl := some { x with layer := x.layer + 1, region := none } }) ∧
    (∀ (u : Nat) (r : Region), x.region = some u → s.region? u = some r → r.state ≠ .done →
      ∃ t, exec (.replacementLayerStep q) s = .next t ∧ (t.queue q).repl = some { x with stopped := true } ∧
        (t.queue q).qgen = (s.queue q).qgen ∧ t.pkg.evt.getLsbD 5 = true))

/-- 17 R474 to R484: a flag-time post is refused as malformed, busy or too early, or accepted and in force; one in force decides every
gang in scope, those that are to resign going and those that are to adjourn being ordered to; the last resort resigns whatever is left in
scope and says so in FTSTAT; an adjourn writes its area and saves the gang, and frees its contexts once the area has drained, and one
whose area cannot be written leaves the gang as it is, to be decided again; an adjourned region that can be placed on the cores left to
it, and whose chambers refill, runs on at its safe point, and one that cannot be placed waits on; a vacancy that is reached starts its
scrub, and then gives its receipt and sets VAC and RCPT; FTCLR puts a post whose VAC is set out of force. 17 R465, R475: SPB. The order
of the refusals and the layout of the fixed state in the adjourn area are the model's choice (log entries 27 and 28); so are a resign
within the step of its decision (log entry 72), an SPB out of range being ignored (log entry 73) and the retry at tempo + 1 (log entry
19). -/
def Obligations.FlagTimeEvents : Prop :=
  (∀ (s : State) (p : PartId) (b : BitVec 512),
    let n := b.toNat
    let answer (k : Nat) := s.mapPart p fun y => { y with ftstat := ftSet y.ftstat 16 4 k }
    (s.serving? = false → exec (.flagTimePost p b) s = .next s) ∧
    (s.serving? = true →
    (s.postOk p n = false → exec (.flagTimePost p b) s = .next (answer 4)) ∧
    (s.postOk p n = true → (s.part p).post.isSome = true → exec (.flagTimePost p b) s = .next (answer 3)) ∧
    (s.postOk p n = true → (s.part p).post = none → fld n 0 64 < s.wall + s.floorNs p →
      exec (.flagTimePost p b) s = .next (answer 2)) ∧
    (s.postOk p n = true → (s.part p).post = none → s.wall + s.floorNs p ≤ fld n 0 64 →
      ∃ t x, exec (.flagTimePost p b) s = .next t ∧ (t.part p).post = some x ∧ x.ft = fld n 0 64 ∧ x.scrub = none ∧
        x.queues = ((List.range (fld n 64 8)).map fun i => fld n (128 + 16 * i) 16) ∧
        fld (t.part p).ftstat.toNat 16 4 = 1 ∧ (t.part p).ftstat.getLsbD 0 = false))) ∧
  (∀ (s : State) (p : PartId) (x : Post), (s.part p).post = some x →
    ∃ t, exec (.evictionRedecide p) s = .next t ∧ (t.part p).evicts = Evict.merge (s.part p).evicts (s.decideAll p x.ft) ∧ (t.part p).post = some x ∧
      ∀ e ∈ s.decideAll p x.ft, (e.dec = 2 → t.gang? e.gang = none) ∧
        (e.dec = 1 → ∀ y, t.gang? e.gang = some y → y.adjourn = true)) ∧
  (∀ (s : State) (p : PartId) (x : Post), (s.part p).post = some x → (s.part p).lastResort x.ft ≤ s.wall → s.inScope p ≠ [] →
    ∃ t, exec (.lastResortResign p) s = .next t ∧ (t.part p).ftstat.getLsbD 2 = true ∧ (∀ g ∈ s.inScope p, t.gang? g.1.id = none) ∧
      ∀ g r, s.inScope p = [(g, r)] → s.gang? g.id = some g → s.secondsOf g.id = [] → ∀ c ∈ s.liveMembers g, (t.ctx c).run = .free) ∧
  (∀ (s : State) (x : Gang) (r : Region), s.gang? x.id = some x → s.region? x.region = some r → r.id = x.region → x.writing = true →
    s.hopsOut x.id = false → (∀ c ∈ s.liveMembers x, (s.ctx c).acc = [] ∧ (s.ctx c).pend = []) →
    (x.area = none → s.adjournOut x r = none →
      ∃ t, exec (.adjournComplete x.id) s = .next t ∧ t.gang? x.id = some { x with writing := false } ∧ t.ctxs = s.ctxs ∧
        t.regions = s.regions ∧ t.mem = s.mem) ∧
    (∀ s1, x.area = none → s.adjournOut x r = some s1 →
      ∃ t n, exec (.adjournComplete x.id) s = .next t ∧ t.gang? x.id = some { x with area := some n } ∧ t.ctxs = s.ctxs ∧
        t.mem = s1.mem ∧ s.tempo ≤ n ∧ (n, .adjournComplete x.id) ∈ t.agenda ∧
        t.region? x.region = some { r with saved := some (s.adjournSaved x) }) ∧
    (∀ n, x.area = some n → s.tempo < n →
      ∃ t, exec (.adjournComplete x.id) s = .next t ∧ (n, .adjournComplete x.id) ∈ t.agenda ∧ t.ctxs = s.ctxs ∧ t.gangs = s.gangs) ∧
    (∀ n, x.area = some n → n ≤ s.tempo →
      ∃ t, exec (.adjournComplete x.id) s = .next t ∧ t.gang? x.id = none ∧ (∀ c ∈ s.liveMembers x, (t.ctx c).run = .free) ∧
        t.region? x.region = some { r with state := .adjourned, gang := none })) ∧
  (∀ (s : State) (r : Region) (x : Saved) (w : Work), s.region? r.id = some r → r.saved = some x → r.state = .adjourned →
    s.postScope r = false → s.waits r = true → s.workOf r = .ok w → s.placeAt r w (s.reserved r) = none →
    ∃ t, exec (.adjournResume r.id) s = .next t ∧ t.regions = s.regions ∧ t.ctxs = s.ctxs ∧
      (s.tempo + 1, .adjournResume r.id) ∈ t.agenda) ∧
  (∀ (s : State) (r : Region) (x : Saved) (w : Work) (y : Placement), s.region? r.id = some r → r.saved = some x →
    r.state = .adjourned → s.postScope r = false → s.waits r = true → s.workOf r = .ok w → s.placeAt r w (s.reserved r) = some y →
    (∀ m ∈ x.members, m.ended = false → refillBad (s.refill r m false) = false ∧ refillBad (s.refill r m true) = false) →
    y.members.Nodup → (x.members.map (·.lidx)).Nodup →
    ∃ t, exec (.adjournResume r.id) s = .next t ∧
      t.region? r.id = some { r with state := .running, gang := some x.gang.id, saved := none } ∧
      ∀ m ∈ x.members, m.ended = false → ∀ c, y.members[m.lidx]? = some c →
        (t.ctx c).run = .run ∧ (t.ctx c).present = s.tempo ∧ (t.ctx c).ctl.pc = m.ctx.ctl.pc ∧ (t.ctx c).spr.taskn = m.ctx.spr.taskn ∧
        (t.ctx c).spr.lidx = m.ctx.spr.lidx ∧ (x.items = [] → (t.ctx c).regs = .reset)) ∧
  (∀ (s : State) (p : PartId) (x : Post), (s.part p).post = some x →
    (s.vacancyDue p = true →
      ∃ t, exec (.vacancyReceipt p) s = .next t ∧ (t.part p).post = some { x with scrub := some (s.tempo, s.wall) } ∧
        t.pending s.tempo (.vacancyReceipt p) ∧ ((s.part p).log = [] → t.mem = s.mem)) ∧
    (x.scrub.isSome = true → (s.part p).ftstat.getLsbD 0 = false → s.drainWait p ≠ 0 →
      ∃ t, exec (.vacancyReceipt p) s = .next t ∧ (s.tempo + s.drainWait p, .vacancyReceipt p) ∈ t.agenda ∧ t.mem = s.mem ∧
        t.parts = s.parts) ∧
    (x.scrub.isSome = true → (s.part p).ftstat.getLsbD 0 = false → s.drainWait p = 0 →
      ∃ t, exec (.vacancyReceipt p) s = .next t ∧ (t.part p).ftstat.getLsbD 0 = true ∧ (t.part p).ftstat.getLsbD 1 = true ∧
        s.pkg.receipts.length < t.pkg.receipts.length)) ∧
  (∀ (s : State) (p : PartId),
    (((s.part p).post = none ∨ (s.part p).ftstat.getLsbD 0 = false) → exec (.ftclr p) s = .next s) ∧
    ((s.part p).post.isSome = true → (s.part p).ftstat.getLsbD 0 = true →
      ∃ t, exec (.ftclr p) s = .next t ∧ (t.part p).post = none ∧ (t.part p).ftstat = 0 ∧ (t.part p).evicts = [] ∧
        ∀ k r, (k, r) ∈ s.regions → r.part = p → r.state = .adjourned → t.pending s.tempo (.adjournResume k))) ∧
  (∀ (s : State) (p : PartId) (v : Word),
    let n := v.toNat % 2 ^ 25
    ((s.resident p = true ∨ (s.part p).post.isSome = true ∨ n < 4096 ∨ 2 ^ 24 < n) → exec (.spbWrite p v) s = .next s) ∧
    (s.resident p = false → (s.part p).post = none → 4096 ≤ n → n ≤ 2 ^ 24 →
      exec (.spbWrite p v) s = .next (s.setPart p { s.part p with spb := n })))

/-! ## The package, the host and the fabric -/

/-- 19 R519 to R525: the factor follows the lowest demand after new readings and after a withdrawal, which takes a condition that has been
clear for 1 ms; a trip stops the package; a timestamp gives the distance that wall time is to slew; a reset enters opening service with
die 0 and the staged image, or fails and keeps the one before; training gives the dies, stacks and stations that are in service, and
retires the clusters of a die that failed; BGO enters full service where it may, and is ignored elsewhere; a patrol error is counted, and
a row that fails is retired, and mapped out where there is no spare; the host link goes down and an elastic access to the host ends LOST,
and it comes up. When readings, training, link losses and withdrawals come, the outcome of the firmware check, memory after a reset, what
a reset keeps, the ids of the retire list, the soft-error threshold, the host's withdrawal and a failed image are the model's choice (log
entries 31, 33, 78, 80, 88, 114, 127 and 128). -/
def Obligations.PackageEvents : Prop :=
  (∀ (s : State) (tj pwr : Nat) (r : Fin 3), ∃ t, exec (.throttleChange tj pwr r) s = .next t ∧ t.pkg.fac.val = t.pkg.lowestDemand ∧
    t.pkg.tj = tj ∧ t.pkg.pwr = pwr ∧ t.pkg.remoteFac.val = max s.pkg.remoteFac.val r.val ∧ t.pkg.hfac = s.pkg.hfac ∧
    (110 ≤ tj → t.pending s.tempo .thermalTrip) ∧
    t.pkg.thermal.val = max s.pkg.thermal.val (if 102 ≤ tj then 2 else if 95 ≤ tj then 1 else 0) ∧
    t.pkg.power.val = (if s.pkg.pcap.toNat < pwr then min 2 (s.pkg.fac.val + 1) else s.pkg.power.val) ∧
    (∀ n : Fin 5, t.pkg.clear[n] = clearSince
      ([decide (tj < 92), decide (tj < 99), decide (pwr ≤ s.pkg.pcap.toNat), decide (r.val < 1), decide (r.val < 2)].getD n.val false)
      s.pkg.clear[n] s.wall) ∧
    (t.pkg.fac ≠ s.pkg.fac → t.pkg.evt.getLsbD 7 = true) ∧ t.mem = s.mem ∧ t.ctxs = s.ctxs) ∧
  (∀ (s : State) (src : Fin 4), ∃ t, exec (.demandWithdrawal src) s = .next t ∧ t.pkg.fac.val = t.pkg.lowestDemand ∧
    let relaxed (x : Fin 3) (half quarter : Fin 5) : Fin 3 :=
      if x = 2 ∧ s.clearLong quarter = true then (if s.clearLong half then 0 else 1) else if x = 1 ∧ s.clearLong half = true then 0 else x
    t.pkg.thermal = (if src = 0 then relaxed s.pkg.thermal 0 1 else s.pkg.thermal) ∧
    t.pkg.power = (if src = 1 ∧ s.clearLong 2 = true then 0 else s.pkg.power) ∧ t.pkg.hfac = s.pkg.hfac ∧
    t.pkg.remoteFac = (if src = 3 then relaxed s.pkg.remoteFac 3 4 else s.pkg.remoteFac) ∧
    (t.pkg.fac ≠ s.pkg.fac → t.pkg.evt.getLsbD 7 = true) ∧ t.mem = s.mem ∧ t.ctxs = s.ctxs) ∧
  (∀ s : State, ∃ t, exec .thermalTrip s = .next t ∧ t.pkg.bstate = 0 ∧ t.ctxs = [] ∧ t.mem = [] ∧ t.parts = [] ∧ t.packets = [] ∧
    t.pkg.evt.getLsbD 0 = true ∧ t.pkg.retired = s.pkg.retired ∧ t.pkg.dead = deadOfList s.pkg.retired) ∧
  (∀ (s : State) (ts : Nat), exec (.ptmSample ts) s = .next { s with pkg := { s.pkg with
    wtv := true, ptmAt := s.wall, ptm := ((ts : Int) - s.wall) * 1000000 - s.wallFs } }) ∧
  (∀ s : State, (∃ t, exec (.packageReset true) s = .next t ∧ t.pkg.bstate = 1 ∧ t.pkg.evt.getLsbD 0 = true ∧
      (t.die 0).inService = true ∧ (t.die 0).stackUp = true ∧ (∀ d, d ≠ 0 → (t.die d).inService = false) ∧
      t.ctxs = [] ∧ t.mem = [] ∧ t.parts = [] ∧ t.pkg.retired = s.pkg.retired ∧ t.pkg.staged = none ∧
      t.pkg.firmware = s.pkg.staged.getD s.pkg.firmware) ∧
    ∃ t, exec (.packageReset false) s = .next t ∧ t.pkg.bstate = 3 ∧ t.pkg.evt.getLsbD 0 = true ∧ t.ctxs = [] ∧ t.mem = [] ∧
      t.pkg.firmware = s.pkg.firmware ∧ t.pkg.staged = none) ∧
  (∀ (s : State) (ds sk : BitVec 8) (br : BitVec 4), s.pkg.bstate = 1 → s.pkg.trained = false →
    ∃ t, exec (.trainingComplete ds sk br) s = .next t ∧ t.pkg.trained = true ∧ t.pkg.brup = br ∧ t.pkg.evt.getLsbD 0 = true ∧
      t.mem = s.mem ∧ ∀ d : DieId, (t.die d).inService = (d == 0 || ds.getLsbD d.val) ∧
        (t.die d).stackUp = (d == 0 || sk.getLsbD d.val) ∧
        (d ≠ 0 → ds.getLsbD d.val = false → t.pkg.evt.getLsbD 6 = true ∧ ∀ k, dieOf k = d → (t.core k).retired = true)) ∧
  (∀ (s : State) (v : Word),
    let idle := (∀ k x, (k, x) ∈ s.ctxs → x.run = .free) ∧ ∀ k p, (k, p) ∈ s.parts → p.post = none
    (¬(v = 1 ∧ s.pkg.bstate = 1 ∧ s.pkg.trained = true ∧ idle) → exec (.bgo v) s = .next s) ∧
    ((v = 1 ∧ s.pkg.bstate = 1 ∧ s.pkg.trained = true ∧ idle) →
      ∃ t, exec (.bgo v) s = .next t ∧ t.pkg.bstate = 2 ∧ s.tempo ≤ t.tempo ∧ t.pkg.evt.getLsbD 0 = true ∧ t.mem = s.mem ∧
        t.ctxs = s.ctxs)) ∧
  (∀ (s : State) (d : DieId) (row : Nat),
    (∃ t, exec (.hbmPatrolError d row .pass) s = .next t ∧ (t.die d).soft = satAdd (s.die d).soft ∧
      (softPasses (s.die d).soft = false → t.pkg = s.pkg) ∧ (softPasses (s.die d).soft = true → t.pkg.evt.getLsbD 6 = true)) ∧
    (∃ t, exec (.hbmPatrolError d row .spare) s = .next t ∧ (t.die d).rets = satAdd (s.die d).rets ∧
      t.pkg.mappedOut = s.pkg.mappedOut ∧ t.pkg.retired.length = s.pkg.retired.length + 1 ∧ t.pkg.evt.getLsbD 6 = true) ∧
    ∃ t, exec (.hbmPatrolError d row .retired) s = .next t ∧ (t.die d).retn = satAdd (s.die d).retn ∧
      t.pkg.mappedOut = s.pkg.mappedOut ++ [{ unit := .hbm, place := keyDev d.val (64 * row) }] ∧
      t.pkg.retired.length = s.pkg.retired.length + 1 ∧ t.pkg.evt.getLsbD 6 = true) ∧
  (∀ s : State, s.packets = [] →
    (s.ctxs = [] → exec .hostLinkDown s = .next { s with pkg := { s.pkg with linkUp := false, aerErrors := s.pkg.aerErrors + 1 } }) ∧
    ∀ (c : CtxId) (x : Ctx) (e : Elastic) (h : Tgt), s.ctxs = [(c.val, x)] → x.elas = [e] → e.stopped = false → e.banked = false →
      e.sent = false → x.acc = [] → x.pend = [] → x.done = [] → s.hostTarget c e = some h →
      ∃ t, exec .hostLinkDown s = .next t ∧ t.pkg.linkUp = false ∧ t.pkg.aerErrors = s.pkg.aerErrors + 2 ∧ (t.ctx c).elas = [] ∧
        (t.ctx c).regs = x.regs ∧ (t.ctx c).spr.tags.getLsbD e.tag.val = true ∧ (t.ctx c).spr.xst[e.tag] = 0x20 ∧
        (e.op.need = .read → t.mem = s.mem)) ∧
  (∀ s : State, exec .hostLinkUp s = .next { s with pkg := { s.pkg with linkUp := true } })

/-- 19 R512 to R518, R521, R524, R526, 16 R439: writes to the control window reach the registers that stand there, and reads give
what they hold; accesses of the memory window; what the management bus is answered; an attestation is one signed report more. The places
of outputs, the codes of ignored writes, the entries of the retire list, what a read of the window is, the layout of a report and of the
PLDM answer and the length of the certificate chain are the model's own (log entries 75, 79, 88, 94, 117 and 129). -/
def Obligations.HostAccesses : Prop :=
  (∀ (s : State) (v : Word),
    exec (.registerWrite 0x2000010 v) s = .next { s with pkg := { s.pkg with evt := s.pkg.evt &&& ~~~(v.truncate 8) } } ∧
    exec (.registerWrite 0x2000028 v) s = .next { s with pkg := { s.pkg with mwkey := v.truncate 10 } } ∧
    (∃ t, exec (.registerWrite 0x2000020 v) s = .next t ∧
      t.pkg.pcap.toNat = (if 600 ≤ v.toNat ∧ v.toNat ≤ 1800 then v.toNat else s.pkg.pcap.toNat) ∧
      (600 ≤ v.toNat → v.toNat ≤ 1800 → t.pkg.fac.val = t.pkg.lowestDemand ∧
        t.pkg.power.val = if v.toNat < s.pkg.pwr then min 2 (s.pkg.fac.val + 1) else s.pkg.power.val)) ∧
    (v.toNat / 2 ^ 8 % 4 = 3 → exec (.registerWrite 0x2000018 v) s = .next s) ∧
    (v.toNat / 2 ^ 8 % 4 ≠ 3 → ∃ t, exec (.registerWrite 0x2000018 v) s = .next t ∧ t.pkg.hfac.val = v.toNat / 2 ^ 8 % 4 ∧
      t.pkg.fac.val = t.pkg.lowestDemand) ∧
    exec (.registerWrite 0x2000008 v) s = exec (.bgo v) s ∧
    ∃ t, exec (.registerWrite 0x2003000 v) s = .next t ∧ t.pending s.tempo (.keraseComplete (Fin.ofNat 1024 v.toNat))) ∧
  (∀ (s : State) (off : BitVec 26) (v : Word), (off.toNat < 0x2000000 ∨ 0x2010000 ≤ off.toNat) →
    ((s.pkg.bstate = 0 ∨ s.pkg.bstate = 3) → exec (.registerWrite off v) s = .next s) ∧
    ((s.pkg.bstate = 1 ∨ s.pkg.bstate = 2) → off.toNat < 0x800000 → exec (.registerWrite off v) s = .next (s.dmwr 2))) ∧
  (∀ (s : State) (p : PartId) (v : Word), (s.pkg.bstate = 1 ∨ s.pkg.bstate = 2) →
    let w (r : Nat) := exec (.registerWrite (BitVec.ofNat 26 (0x1000000 + 0x40000 * p.val + r)) v) s
    w 0x0000 = exec (.partitionConfigWrite p .pclus v) s ∧ w 0x0010 = exec (.partitionConfigWrite p (.pmem 1) v) s ∧
    w 0x0050 = exec (.pwayWrite p v) s ∧ w 0x0078 = exec (.pasidtNWrite p v) s ∧ w 0x0098 = exec (.wsweep p v) s ∧
    w 0x00A0 = exec (.spbWrite p v) s ∧ w 0x00D8 = exec (.partitionReset p v) s ∧ w 0x1048 = exec (.ftclr p) s ∧
    w 0x8018 = exec (.monitorWrite p 1 true v) s ∧ w 0x8100 = exec (.lflush p) s ∧ w 0x9018 = exec (.drel p v) s ∧
    w 0x9020 = exec (.tlbh p v) s ∧
    w 0x9010 = .next (s.setPart p { s.part p with hkill := v.truncate 32 }) ∧
    (v = 1 → w 0x9008 = exec (.hactResume p) s) ∧ (v = 2 → w 0x9008 = exec (.hactKill p) s) ∧
    (v = 3 → w 0x9008 = exec (.hactPass p) s)) ∧
  (∀ s : State, s.readRegister 0x2000010 = some (s.pkg.evt.zeroExtend 64) ∧
    s.readRegister 0x2000020 = some (s.pkg.pcap.zeroExtend 64) ∧ s.readRegister 0x2000028 = some (s.pkg.mwkey.zeroExtend 64) ∧
    (∀ off : BitVec 26, (off.toNat < 0x2000000 ∨ 0x2010000 ≤ off.toNat) → (s.pkg.bstate = 0 ∨ s.pkg.bstate = 3) →
      s.readRegister off = none) ∧
    ((s.pkg.bstate = 1 ∨ s.pkg.bstate = 2) → ∀ p : PartId,
      let rd (r : Nat) := s.readRegister (BitVec.ofNat 26 (0x1000000 + 0x40000 * p.val + r))
      rd 0x0000 = some (BitVec.ofNat 64 (s.part p).pclus.toNat) ∧ rd 0x0010 = some (BitVec.ofNat 64 (s.part p).pmem[1].toNat) ∧
      rd 0x00D0 = some (BitVec.ofNat 64 (s.part p).rcpta.toNat) ∧ rd 0x1040 = some (BitVec.ofNat 64 (s.part p).ftstat.toNat) ∧
      rd 0x9010 = some (BitVec.ofNat 64 (s.part p).hkill.toNat) ∧ rd 0x9018 = some 0)) ∧
  (∀ (s : State) (off n : Nat) (wr : Option (List Byte)), (s.pkg.bstate = 0 ∨ s.pkg.bstate = 3) →
    exec (.memoryWindowAccess off none n) s = .next { s with pkg := { s.pkg with window := some (List.replicate n 0xFF) } } ∧
    (wr.isSome = true → exec (.memoryWindowAccess off wr n) s = .next s)) ∧
  (∀ (s : State) (off n : Nat), (s.pkg.bstate = 1 ∨ s.pkg.bstate = 2) → s.windowOk off n = true →
    (lookup? s.pkg.keys s.pkg.mwkey.toNat = none →
      exec (.memoryWindowAccess off none n) s = .next { s with pkg := { s.pkg with
        errors := s.pkg.errors ++ [1], window := some (List.replicate n 0xFF) } }) ∧
    ∀ key, lookup? s.pkg.keys s.pkg.mwkey.toNat = some key →
      ∃ l, exec (.memoryWindowAccess off none n) s = .next { s with pkg := { s.pkg with window := some l } } ∧ l.length = n ∧
        ∀ j, j < n → s.blockKeyOf (keyPA (off + j)) = key → (∀ k q, (k, q) ∈ s.parts → q.wq = []) →
          l[j]? = some (readByte s.mem (keyPA (off + j)))) ∧
  (∀ (s : State) (off n key : Nat) (l : List Byte), (s.pkg.bstate = 1 ∨ s.pkg.bstate = 2) → s.windowOk off l.length = true → l ≠ [] →
    lookup? s.pkg.keys s.pkg.mwkey.toNat = some key → s.mem.wf = true →
    ∃ t, exec (.memoryWindowAccess off (some l) n) s = .next t ∧ t.ctxs = s.ctxs ∧
      (∀ j, j < l.length → some (readByte t.mem (keyPA (off + j))) = l[j]?) ∧
      ∀ a, (∀ j, j < l.length → blockOf a ≠ blockOf (keyPA (off + j))) → readByte t.mem a = readByte s.mem a) ∧
  (∀ s : State,
    exec (.mctpMessage .control) s = .next { s with pkg := { s.pkg with mctp := [] } } ∧
    exec (.mctpMessage .retireList) s = .next { s with pkg := { s.pkg with mctp := s.pkg.retired.flatMap fun n => bytesOf n 4 } } ∧
    (∃ l, exec (.mctpMessage .pldm) s = .next { s with pkg := { s.pkg with mctp := l } } ∧
      l.take 4 = bytesOf s.pkg.tj 2 ++ bytesOf s.pkg.pwr 2 ∧ l.length = 78 ∧
      ∀ d : DieId, (l.drop (6 + 9 * d.val)).take 9 = bytesOf d.val 1 ++ bytesOf (s.die d).corr.toNat 2 ++ bytesOf (s.die d).soft.toNat 2
        ++ [(s.die d).rets, (s.die d).retn, (s.die d).spare, BitVec.ofNat 8 (s.die d).harv]) ∧
    (∃ l, exec (.mctpMessage .certChain) s = .next { s with pkg := { s.pkg with mctp := l } } ∧ l.length = 4096 ∧
      ∀ j : Nat, j < 512 → s.readRegister (BitVec.ofNat 26 (0x2004000 + 8 * j)) = some (BitVec.ofNat 64 (numOf ((l.drop (8 * j)).take 8)))) ∧
    (∀ n, ∃ t l, exec (.attest n) s = .next t ∧ l = s.reportBytes n ++ signature (s.reportBytes n) ∧
      t.pkg.receipts = s.pkg.receipts ++ [l] ∧ t.pkg.keys = s.pkg.keys ∧ t.ctxs = s.ctxs ∧
      t.mem = (s.assureWrite s.assureAddr l).mem ∧ exec (.mctpMessage (.attest n)) s = exec (.attest n) s) ∧
    (∀ n ok, ∃ t, exec (.mctpMessage (.clearRetire n ok)) s = .next t ∧ t.mem = s.mem ∧
      ∀ m, m ∈ t.pkg.retired ↔ m ∈ s.pkg.retired ∧ (ok = true → m ≠ n)) ∧
    (∀ image, exec (.mctpMessage (.update image false)) s = .next s ∧
      exec (.mctpMessage (.update image true)) s = .next { s with pkg := { s.pkg with staged := some image } }))

/-- 14 R379, R381, R388 to R392, R395, R396, R399 to R401: a segment that dies, and was not dead, drains, and the gangs with timetables
are held; the end of the drain tells the host, counts the test, returns the segment or retires it, and, with no other drain, lets the gangs
go on; a pending packet that is first of its partition at its station, whose partition has the turn and whose way is open enters a slot,
and waits otherwise; a packet of another package sets out from the bridge station; a request that is taken performs at its home point,
outside device memory, and is answered, and an answer tells its command to end, or ends its elastic access; a packet that fails its CRC is counted and its command is told of the loss, one of an old incarnation is counted and
dropped, and a request that finds no room is marked refused and comes round again, or is tried again by its source 64 tempo later or
more; the slot of a timed command that is due is read and sent, and one that arrives is written at its delivery tempo for an XRCV that
waits for it, or is an empty one, or is discarded with TIMING; held slots go on once the gang runs. How long a retry waits beyond that,
and what a dead segment loses, is free (log entries 2 and 3); the entries of the retire list, the turns of the partitions and what a
header carries where the manual is silent are the model's choice (log entries 88, 113 and 121). -/
def Obligations.FabricEvents : Prop :=
  (∀ (s : State) (d : DieId) (desc : Bool),
    ((∃ x, (d, desc, x) ∈ s.pkg.dead) → exec (.segmentDead d desc) s = .next s) ∧
    ((∀ x, (d, desc, x) ∉ s.pkg.dead) → ∃ t r, exec (.segmentDead d desc) s = .next t ∧ t.pkg.dead = s.pkg.dead ++ [(d, desc, true)] ∧
      t.pending s.tempo (.segmentDrainEnd d desc r) ∧
      ∀ g x, s.gang? g = some x → x.onRing = true →
        t.gang? g = some { x with drainHold := true, held := some (x.held.getD s.tempo) })) ∧
  (∀ (s : State) (d : DieId) (desc : Bool) (r : TRes), (d, desc, true) ∈ s.pkg.dead →
    ∃ t, exec (.segmentDrainEnd d desc r) s = .next t ∧ t.pkg.evt.getLsbD 3 = true ∧ (d, desc, true) ∉ t.pkg.dead ∧
      ((d, desc, false) ∈ t.pkg.dead ↔ r ≠ .pass) ∧
      (r = .pass → (t.die d).soft = satAdd (s.die d).soft) ∧
      (r ≠ .pass → (t.die d).retn = satAdd (s.die d).retn ∧ 4096 + 2 * d.val + desc.toNat ∈ t.pkg.retired) ∧
      ((∀ e w x, (e, w, x) ∈ s.pkg.dead → (e, w) ≠ (d, desc) → x = false) →
        ∀ g x, t.gang? g = some x → x.drainHold = false)) ∧
  (∀ (s : State) (p : Packet), s.packet? p.id = some p → p.at_ = .pending → p.id ≠ 0 →
    (s.behind p = false → s.ringBlocked p.srcDie p.dstDie = false → s.inTurn p.part p.srcDie = true →
      ∃ t, exec (.packetInject p.id) s = .next t ∧ t.packet? p.id = some { p with at_ := .slot, wire := s.headerOf p } ∧
        (t.die p.srcDie).turn = p.part ∧ t.pending s.tempo (.packetReceive p.id true true) ∧ t.mem = s.mem ∧
        (p.srcPkg = s.pkg.id → ∀ m ∈ t.cmdsOf p.src, m.id = p.cmd → m.injected = true)) ∧
    ((s.behind p = true ∨ s.ringBlocked p.srcDie p.dstDie = true ∨ s.inTurn p.part p.srcDie = false) →
      ∃ t, exec (.packetInject p.id) s = .next t ∧ t.packets = s.packets ∧ t.pending s.tempo (.packetInject p.id))) ∧
  (∀ (s : State) (p : Packet) (rest : List Packet), s.pkg.rackIn = p :: rest →
    ∃ t, exec (.packetInject 0) s = .next t ∧ t.pkg.rackIn = rest ∧ t.pending s.tempo (.packetInject s.fresh) ∧ t.mem = s.mem ∧
      t.packets = s.packets ++ [{ p with id := s.fresh, at_ := .pending, srcDie := bridgeDie s.pkg.id.toNat }]) ∧
  (∀ (s : State) (p : Packet) (t : Tgt), s.packet? p.id = some p → p.at_ = .slot → s.routeDead p.srcDie p.dstDie = false →
    s.stale p = false → p.tgt = some t → t.dev = false → (t.host = true → s.pkg.linkUp = true) → s.bad = [] → s.pkg.tests = [] →
    s.pkg.mappedOut = [] → p.srcPkg = s.pkg.id → p.aord = none → s.memberGone p = false →
    (p.kind = .write → ∃ u q, exec (.packetReceive p.id true true) s = .next u ∧ u.mem = writeBytes s.mem t.key p.bytes ∧
      u.packets = (s.packets.filter fun y => y.id ≠ p.id) ++ [q] ∧ q.kind = .writeAck ∧ q.cmd = p.cmd ∧ q.src = p.src ∧
      q.dstDie = p.srcDie ∧ u.pending s.tempo (.packetInject q.id)) ∧
    (p.kind = .read → ∃ u q, exec (.packetReceive p.id true true) s = .next u ∧ u.mem = s.mem ∧
      u.packets = (s.packets.filter fun y => y.id ≠ p.id) ++ [q] ∧ q.kind = .readReply ∧ q.cmd = p.cmd ∧ q.src = p.src ∧
      q.bytes = readBytes s.mem t.key p.len ∧ u.pending s.tempo (.packetInject q.id)) ∧
    (∀ o ty x e, p.kind = .atomic → p.atom = some (o, ty, x, e) →
      let old := readN s.mem t.key ty.bytes
      ∃ u q, exec (.packetReceive p.id true true) s = .next u ∧
      u.mem = writeN s.mem t.key ty.bytes (atomApply o ty old x.toNat e.toNat) ∧
      u.packets = (s.packets.filter fun y => y.id ≠ p.id) ++ [q] ∧ q.kind = .atomicReply ∧ q.cmd = p.cmd ∧ q.src = p.src ∧
      q.bytes = bytesOf (atomResult ty old).toNat 8 ∧ u.pending s.tempo (.packetInject q.id))) ∧
  (∀ (s : State) (p : Packet) (m : Cmd), s.packet? p.id = some p → p.at_ = .slot → s.routeDead p.srcDie p.dstDie = false →
    s.stale p = false → p.srcPkg = s.pkg.id → p.acc = none → (p.kind = .writeAck ∨ p.kind = .readReply ∨ p.kind = .atomicReply) →
    ((s.cmdsOf p.src).find? fun y => y.id == p.cmd) = some m →
    ∃ u, exec (.packetReceive p.id true true) s = .next u ∧ u.packet? p.id = some { p with at_ := .arrived } ∧ u.mem = s.mem ∧
      u.pending s.tempo (.engineCommandEnd p.src m.tag false)) ∧
  (∀ (s : State) (p : Packet) (e : Elastic), s.packet? p.id = some p → p.at_ = .slot → s.routeDead p.srcDie p.dstDie = false →
    s.stale p = false → p.srcPkg = s.pkg.id → p.acc = some e.id → (s.ctx p.src).elas = [e] → (s.ctx p.src).acc = [] →
    (s.ctx p.src).pend = [] → (s.ctx p.src).done = [] → (s.ctx p.src).wrote.1 ≠ s.tempo →
    let ends (status : Nat) (regs : Regs) : Prop :=
      ∃ u, exec (.packetReceive p.id true true) s = .next u ∧ (u.ctx p.src).elas = [] ∧ (u.ctx p.src).regs = regs ∧ u.mem = s.mem ∧
        (u.ctx p.src).spr.tags.getLsbD e.tag.val = true ∧ (u.ctx p.src).spr.xst[e.tag] = BitVec.ofNat 8 status
    let regs := (s.ctx p.src).regs
    (∀ dead, p.kind = .drop dead → ends 0x20 regs) ∧
    (∀ k n sx d, p.kind = .readReply → e.op = .load k n sx d → ends 0 (regs.setS d (extendLoad n sx (numOf p.bytes)))) ∧
    (∀ k n v, p.kind = .writeAck → e.op = .store k n v → ends 0 regs) ∧
    ∀ k o ty x ex d, p.kind = .atomicReply → e.op = .atom k o ty x ex d → ends 0 (regs.setS d (atomResult ty (numOf p.bytes)))) ∧
  (∀ (s : State) (p : Packet) (room : Bool), s.packet? p.id = some p → p.at_ = .slot →
    ((∀ u l, p.kind ≠ .hop u l) → p.srcPkg = s.pkg.id → p.acc = none → ∀ m, ((s.cmdsOf p.src).find? fun y => y.id == p.cmd) = some m →
      ∃ u, exec (.packetReceive p.id false room) s = .next u ∧ u.packet? p.id = some { p with kind := .drop true, at_ := .arrived } ∧
        u.dies = (s.countAt p.dstDie (s.sumpOf p) .dead).dies ∧ u.mem = s.mem ∧ u.pending s.tempo (.engineCommandEnd p.src m.tag false)) ∧
    (s.routeDead p.srcDie p.dstDie = false → kindKnown p.kind.code = true → s.leavesPackage p = false → s.stale p = true →
      ∃ u, exec (.packetReceive p.id true room) s = .next u ∧ u.mem = s.mem ∧
        u.dies = (s.countAt p.dstDie (s.sumpOf p) .stale).dies ∧
        ∀ q ∈ u.packets, q ∈ s.packets ∨ q.kind = .drop false) ∧
    (s.routeDead p.srcDie p.dstDie = false → kindKnown p.kind.code = true → s.leavesPackage p = true →
      ∃ u, exec (.packetReceive p.id true room) s = .next u ∧ u.mem = s.mem ∧ u.packet? p.id = none ∧
        u.pkg.rackOut = s.pkg.rackOut ++ [p]) ∧
    (s.routeDead p.srcDie p.dstDie = false → s.stale p = false → p.kind.isRequest = true → s.leavesPackage p = false →
      ∃ u, exec (.packetReceive p.id true false) s = .next u ∧ u.packet? p.id = some { p with at_ := .refusedOnce } ∧
        u.pending s.tempo (.packetReceive p.id true true) ∧ u.mem = s.mem ∧
        ∀ m ∈ u.cmdsOf p.src, m.id = p.cmd → p.srcPkg = s.pkg.id → m.refused = true)) ∧
  (∀ (s : State) (p : Packet), s.packet? p.id = some p → p.at_ = .refusedOnce → s.routeDead p.srcDie p.dstDie = false →
    s.stale p = false → p.kind.isRequest = true → s.leavesPackage p = false →
    ∃ u due w, exec (.packetReceive p.id true false) s = .next u ∧ s.tempo + 64 ≤ due ∧ w.length = 32 ∧ w.head? = some 0x07 ∧
      u.packet? p.id = some { p with at_ := .retry due, wire := w } ∧ (due, .requestRetry p.id) ∈ u.agenda ∧ u.mem = s.mem) ∧
  (∀ (s : State) (p : Packet) (due : Nat), s.packet? p.id = some p → p.at_ = .retry due → due ≤ s.tempo →
    ∃ u, exec (.requestRetry p.id) s = .next u ∧ u.packet? p.id = some { p with at_ := .pending } ∧
      u.pending s.tempo (.packetInject p.id) ∧ u.mem = s.mem) ∧
  (∀ (s : State) (c : CtxId) (m : Cmd) (g : Gang) (k : Nat) (x : TimeEntry), s.cmd? c m.tag = some m → s.gangOf c = some g →
    s.sendSlot? c m = some k → (s.timesOf c)[m.entryOf k]? = some x →
    let bytes := readBytes s.mem (keyScratch (coreOf c) ((m.ops.getD 0 0).toNat + 256 * k)) 256
    ∃ u, exec (.timedSlotSend c m.tag) s = .next u ∧ u.cmd? c m.tag = some { m with slots := m.slots ++ [k] } ∧ u.mem = s.mem ∧
      u.timed = s.timed ++ if x.dead then [] else
        [{ gang := g.id, entry := m.entryOf k, waiting := false, data := some bytes,
           wire := s.timedWire c (g.receiver (m.entryOf k)) bytes }]) ∧
  (∀ (s : State) (g e : Nat) (x : Gang) (c : CtxId), s.gang? g = some x → x.receiver e = some c → s.deliverDue x e = true →
    let mine := s.timed.filter fun y => y.gang == g && y.entry == e
    let rest := s.timed.filter fun y => !(y.gang == g && y.entry == e)
    (∀ m k y l, s.posted? c e = some (m, k) → mine = [y] → y.data = some l →
      (∃ u, exec (.timedSlotDeliver g (e, true)) s = .next u ∧ u.timed = rest ∧
        u.mem = writeBytes s.mem (keyScratch (coreOf c) ((m.ops.getD 0 0).toNat + 256 * k)) l ∧
        u.cmd? c m.tag = (s.cmd? c m.tag).map fun z => { z with slots := z.slots ++ [k], slotsData := true }) ∧
      ∃ u, exec (.timedSlotDeliver g (e, false)) s = .next u ∧ u.timed = rest ∧ u.mem = s.mem ∧ u.dies = (s.dropTimed x e c).dies ∧
        u.cmd? c m.tag = (s.cmd? c m.tag).map fun z => { z with slots := z.slots ++ [k] }) ∧
    (∀ m k ok, s.posted? c e = some (m, k) → mine = [] →
      ∃ u, exec (.timedSlotDeliver g (e, ok)) s = .next u ∧ u.mem = s.mem ∧
        u.cmd? c m.tag = (s.cmd? c m.tag).map fun z => { z with slots := z.slots ++ [k] }) ∧
    (∀ y l, s.posted? c e = none → mine = [y] → y.data = some l → (s.ctx c).frz = none →
      ∃ u d, exec (.timedSlotDeliver g (e, true)) s = .next u ∧ u.timed = rest ∧ u.mem = s.mem ∧
        (u.ctx c).defer = (s.ctx c).defer ++ [d] ∧ d.cause = 0x20 ∧ d.detail = 0x0C)) ∧
  (∀ (s : State) (g : Nat) (x : Gang), s.gang? g = some x → x.held = none →
    exec (.holdBufferRelease g) s = .next { s with
      timed := s.timed.map fun y => if y.gang = g then { y with waiting := false } else y })

/-- 02 R70 to R75, 04 R113, R114, 11 R300, R301, R306, R309 to R311, 12 R331 to R337, 13 R349, R351, R353, R359, R362, R374, 14 R388, R395, R396: a command of the
plane array that has its start tempo starts with its operands, or is stopped with the FMT condition that they meet; a loaded latch becomes
valid; a product enters its link, and a discarded one does not; a link fault freezes its chain; a close that may start computes its rows
and block tags, in scalar and in plane formats, and writes its rows, then its tags, and then sets its completion tag. A command that may
start does so; an XWR to a core scratchpad of a member that runs makes its request; a fabric command stores what its answer brings and then
ends, a timed one ends once its slots are done, a CHS after its status record. A fill of one segment ends with the status of R74, and
what it holds is in its chamber. A started command of the engine goes on in steps: it ends CANCELLED when it was cancelled, LOST with a
member that has ended or with its traffic, with its status after its tags; otherwise it goes on with what its step leaves, or stops with
the condition that it meets; a copy of one run between core scratchpads writes nothing but its destination, and all of it by its second
step; a conversion of one group writes what R114 or R113 gives, and a routing writes its lists. When operands are taken, the steps in
which a command works, and what a faulted link holds are the model's choice (log entries 37, 38 and 44). -/
def Obligations.ArrayAndEngineEvents : Prop :=
  (∀ (s : State) (k : CoreId) (a : ArrayCmd), s.arrayStart? k = some a →
    (∀ la lb, s.arrayEcc k a = none → s.operands k a = .ok (la, lb) → ∃ t, exec (.arrayCommandStart k) s = .next t ∧ t.mem = s.mem ∧ t.ctxs = s.ctxs ∧
      (t.core k).array = (s.core k).array.map fun b => if b.id = a.id then { b with started := true, ablk := la, bblk := lb } else b) ∧
    (∀ n addr, s.arrayEcc k a = none → s.operands k a = .error (n, addr) → (s.ctx a.ctx).frz = none → ∃ t, exec (.arrayCommandStart k) s = .next t ∧
      t.mem = s.mem ∧ (∀ b ∈ (t.core k).array, b.id = a.id → b.stopped = true) ∧
      ∃ d ∈ (t.ctx a.ctx).defer, d.cause = 0x15 ∧ d.detail = n)) ∧
  (∀ (s : State) (k : CoreId) (a : ArrayCmd), s.mlatDone? k = some a →
    exec (.mlatLoadEnd k) s = .next (s.setCore k { s.core k with
      array := (s.core k).array.filter fun b => b.id != a.id
      latch := { valid := true, k := mskK a.msk, pa := mskPa a.msk, a2 := mskA2 a.msk, blocks := a.ablk } })) ∧
  (∀ (s : State) (k : CoreId) (a : ArrayCmd) (ch : Chain) (l : ChainLink), s.mmaDone? k = some a → s.chain? a.chain = some ch →
    ch.uid = a.chain → ch.link? a.link.val = some l → ch.freed = none → l.state ≠ .faulted →
    let out := (s.core k).array.filter fun b => b.id != a.id
    (a.discard = true → exec (.mmaLanding k) s = .next (s.setCore k { s.core k with array := out })) ∧
    (a.discard = false → ∃ t ch' l', exec (.mmaLanding k) s = .next t ∧ (t.core k).array = out ∧ t.chain? a.chain = some ch' ∧
      ch'.link? a.link.val = some l' ∧ l'.landed = l.landed + 1 ∧ t.mem = s.mem ∧
      (l.landed + 1 ≠ l.count →
        t.slotOf ch l = { s.slotOf ch l with tile := a.addTo ch.anchor fun i => (s.slotOf ch l).elem i }))) ∧
  (∀ (s : State) (u : Nat) (x : Chain) (l : Fin 64) (k : ChainLink) (r : Fin 16), s.chain? u = some x → x.link? l.val = some k →
    x.freed = none → k.spare = false → k.state ≠ .faulted →
    ((r = 0 ∨ 5 ≤ r.val) → exec (.linkFault u l r) s = .next s) ∧
    ((r ≠ 0 ∧ r.val ≤ 4) → ∃ t y k', exec (.linkFault u l r) s = .next t ∧ t.chain? u = some y ∧ y.frozen = true ∧
      y.link? l.val = some k' ∧ k'.state = .faulted ∧ k'.held = k.base ∧ k'.reason = r ∧ k'.shadow = none ∧ t.mem = s.mem ∧
      (x.frozen = false → y.flink = l.val ∧ y.freason = r.val ∧
        ∀ j z, j ≠ l.val → x.link? j = some z → z.spare = false → z.state ≠ .faulted →
          y.link? j = some { z with held := z.state, state := .frozen }))) ∧
  (∀ (s : State) (u : Nat) (x : Chain) (k : Close) (tail : ChainLink), s.chain? u = some x → x.close = some k →
    x.link? (x.nlink - 1) = some tail → k.started = false → x.frozen = false → x.freed = none → tail.state = .ripe →
    let bias (i : Nat) : FVal := if x.bias = 0 then .fin false 0 0
      else FloatFmt.fp32.decode (readN s.mem (keyScratch (s.hostCore x tail) (x.baddr + 4 * (if x.bias = 1 then i % 32 else i))) 4)
    let value (i : Nat) := closeElem x.ofmt k.rm k.sat (closeValue x k.rm ((s.slotOf x tail).elem i) (bias i)).1
    ∃ t k1, exec (.closeStart u) s = .next t ∧ t.chain? u = some { x with close := some k1 } ∧ t.pending s.tempo (.closeComplete u) ∧
      t.mem = s.mem ∧ k1.started = true ∧ k1.ctx = k.ctx ∧ k1.tag = k.tag ∧ k1.dest = k.dest ∧ k1.done = k.done ∧
      k1.rows.length = 32 ∧
      (x.ofmt < 6 → ∀ i, i < 32 → k1.rows[i]? = some (keyScratch (coreOf k.ctx) (k.dest + i * x.rstr),
        32 * (rowBytes x.ofmt x.pm1 / 32),
        (List.range 32).foldr (fun j v => (value (32 * i + j)).1 + 2 ^ (8 * (rowBytes x.ofmt x.pm1 / 32)) * v) 0)) ∧
      (6 ≤ x.ofmt → ∀ i, i < 32 →
        let sgn := decide (x.ofmt = 7)
        let zero : Option FVal := some (.fin false 0 0)
        let r := convertGroup (x.pm1 + 1) sgn (sgn && k.subo) k.rm k.sat
          (((List.range 32).map fun j => (closeValue x k.rm ((s.slotOf x tail).elem (32 * i + j)) (bias (32 * i + j))).1)
            ++ List.replicate 32 zero)
        let place := keyScratch (coreOf k.ctx) (k.dest + i * x.rstr)
        k1.rows[i]? = some (place, 64 * r.2.1.length, r.2.1.foldr (fun b v => b + 2 ^ 512 * v) 0) ∧
        ∀ h, h < r.2.1.length → (place + 64 * h, planeTag sgn (h == 1) x.pm1 r.1) ∈ k1.btags)) ∧
  (∀ (s : State) (u : Nat) (x : Chain) (k : Close) (tail : ChainLink), s.chain? u = some x → x.close = some k →
    x.link? (x.nlink - 1) = some tail → k.started = true → k.done = false → s.pkg.tests = [] →
    (k.rows ≠ [] → ∃ t n, exec (.closeComplete u) s = .next t ∧ 0 < n ∧ n ≤ k.rows.length ∧
      t.mem = (k.rows.take n).foldl (fun m r => writeN m r.1 r.2.1 r.2.2) s.mem ∧ t.tags = s.tags ∧
      t.chain? u = some { x with close := some { k with rows := k.rows.drop n } } ∧ t.pending s.tempo (.closeComplete u)) ∧
    (k.rows = [] → k.btags ≠ [] → ∃ t, exec (.closeComplete u) s = .next t ∧ t.mem = s.mem ∧
      t.tags = (k.btags.foldl (fun (s : State) b => s.setTag b.1 b.2) s).tags ∧
      t.chain? u = some { x with close := some { k with btags := [] } } ∧ t.pending s.tempo (.closeComplete u)) ∧
    (k.rows = [] → k.btags = [] → x.freed = none → (tail.state ≠ .frozen ∧ tail.state ≠ .faulted) →
      ∀ m, s.cmd? k.ctx k.tag = some m → ∃ t y l, exec (.closeComplete u) s = .next t ∧ t.mem = s.mem ∧
        t.chain? u = some y ∧ y.close = some { k with done := true } ∧ y.link? (x.nlink - 1) = some l ∧ l.state = .closed ∧
        Ended t k.ctx k.tag k.xst)) ∧
  (∀ (s : State) (c : CtxId) (m : Cmd), s.cmd? c m.tag = some m → s.mayStart c m = true →
    (m.kind.isFabric = false → ∃ t, exec (.engineCommandStart c m.tag) s = .next t ∧
      t.cmd? c m.tag = some { m with started := true, incs := s.endpoints c m } ∧
      t.mem = s.mem ∧ t.pending s.tempo (.engineCommandEnd c m.tag false) ∧
      (m.kind = .xpf → ((t.core (coreOf c)).chamber m.chamber).valid = false ∧
        ((t.core (coreOf c)).chamber m.chamber).table = (s.core (coreOf c)).templates)) ∧
    (∀ w f k, m.kind = .xwr w → m.dst = some f → f.win = .scratch k → s.memberEnded c m = false → s.bad = [] → s.pkg.tests = [] →
      s.pkg.mappedOut = [] →
      (m.ops.getD 1 0).toNat + ((m.ops.getD 2 0).toNat % 256 + 1) ≤ 0x400000 →
      ∃ t p, exec (.engineCommandStart c m.tag) s = .next t ∧ t.packets = s.packets ++ [p] ∧ p.kind = .write ∧ p.src = c ∧
        p.cmd = m.id ∧ p.tgt = some (localTgt (keyScratch k f.lo)) ∧ t.pending s.tempo (.packetInject p.id) ∧ t.mem = s.mem ∧
        p.bytes = readBytes s.mem (keyScratch (coreOf c) (m.ops.getD 1 0).toNat) ((m.ops.getD 2 0).toNat % 256 + 1))) ∧
  (∀ (s : State) (c : CtxId) (m : Cmd), s.cmd? c m.tag = some m → m.kind.isFabric = true →
    ∀ p, (s.packets.find? fun q => q.src == c && q.srcPkg == s.pkg.id && q.cmd == m.id) = some p → p.at_ = .arrived →
      let stores (a : Word) : Prop :=
        ∃ t, exec (.engineCommandEnd c m.tag false) s = .next t ∧ t.cmd? c m.tag = some m ∧
          t.pending s.tempo (.engineCommandEnd c m.tag false) ∧ t.packet? p.id = some { p with kind := .writeAck } ∧
          t.mem = writeBytes s.mem (keyScratch (coreOf c) a.toNat) p.bytes
      (p.kind = .writeAck → ∃ t, exec (.engineCommandEnd c m.tag false) s = .next t ∧ Ended t c m.tag (16 * m.refused.toNat) ∧
        t.mem = s.mem) ∧
      (s.pkg.tests = [] → s.packet? p.id = some p →
        (p.kind = .readReply → stores (m.ops.getD 1 0)) ∧ (p.kind = .atomicReply → stores (m.ops.getD 3 0))) ∧
      ∀ dead, p.kind = .drop dead → ∃ t, exec (.engineCommandEnd c m.tag false) s = .next t ∧ t.mem = s.mem ∧
        Ended t c m.tag (0x20 + 16 * m.refused.toNat + 8 * dead.toNat)) ∧
  (∀ (s : State) (c : CtxId) (m : Cmd), s.cmd? c m.tag = some m →
    let i : Instr := .engineCommandEnd c m.tag false
    let ends (i : Instr) (status : Nat) : Prop := ∃ t, exec i s = .next t ∧ Ended t c m.tag status ∧ t.mem = s.mem
    let last (i : Instr) (mem : Memory) (status : Nat) : Prop :=
      ∃ t, exec i s = .next t ∧ t.mem = mem ∧ t.pending s.tempo (.engineCommandEnd c m.tag false) ∧
        t.cmd? c m.tag = some { m with prog := { m.prog with stage := 3, status := status } }
    ((m.kind = .xsnd ∨ m.kind = .xrcv) → s.timedDone c m = true → ends i (if m.kind = .xrcv ∧ m.slotsData = false then 0x60 else 0)) ∧
    (m.started = true → m.stopped = false →
      (∀ u ch, m.kind = .chs u → s.chain? u = some ch →
        (m.prog.stage = 3 → ends i 0) ∧
        (m.prog.stage ≠ 3 → s.chsReady u = true → s.pkg.tests = [] →
          last i (writeN s.mem (keyScratch (coreOf c) (m.ops.getD 0 0).toNat) (statusBytes ch) (s.statusRecord ch)) 0)) ∧
      (m.kind = .xpf →
        (m.cancelAt.isSome = true → ends i 0x40) ∧
        (m.cancelAt = none → s.cmdStale c m = true → ends i 0x20) ∧
        (m.cancelAt = none → s.cmdStale c m = false →
          ends (.engineCommandEnd c m.tag true) 0x20 ∧
          let a := (m.ops.getD 0 0).toNat
          let read := s.codeReader c
          let fills (status : Nat) (count : Nat) (entry : Nat) : Prop :=
            ∃ t, exec i s = .next t ∧ Ended t c m.tag status ∧
              ((t.core (coreOf c)).chamber m.chamber).valid = false ∧
              ((t.core (coreOf c)).chamber m.chamber).ok = decide (status = 0) ∧
              ((t.core (coreOf c)).chamber m.chamber).filled = count ∧ ((t.core (coreOf c)).chamber m.chamber).entry = entry
          (a % 32 ≠ 0 → fills 0x80 0 0) ∧
          (a % 32 = 0 →
            (∀ st x, read a 32 = .error st → st.xst = some x → fills x 0 0) ∧
            (∀ l, read a 32 = .ok l →
              let h := numOf l
              let flags := fld h 144 16
              let entry := fld h 128 16
              ((fld h 0 32 ≠ 0x5A475345 ∨ fld h 224 32 ≠ 0 ∨ 4 ≤ flags) → fills 0x60 0 entry) ∧
              ((fld h 0 32 = 0x5A475345 ∧ fld h 224 32 = 0 ∧ flags < 4) →
                (∀ st x, read (a + 32) (fld h 32 32) = .error st → st.xst = some x → fills x 0 entry) ∧
                (∀ b, read (a + 32) (fld h 32 32) = .ok b →
                  ((crc32c b).toNat ≠ fld h 160 32 → fills 0x60 0 entry) ∧
                  ((crc32c b).toNat = fld h 160 32 →
                    let table := ((s.core (coreOf c)).chamber m.chamber).table
                    let f0 : Fill := { bundles := [], count := 0, table := table, read := [(a + 32, fld h 32 32), (a, 32)] }
                    (∀ f, expandBody (flags / 2 % 2 == 1) b f0 = (f, .error .full) → fills 0xA0 f.count entry) ∧
                    (∀ f, expandBody (flags / 2 % 2 == 1) b f0 = (f, .error .crc) → fills 0x60 f.count entry) ∧
                    (∀ f made, expandBody (flags / 2 % 2 == 1) b f0 = (f, .ok made) →
                      (made ≠ fld h 192 32 → fills 0x60 f.count entry) ∧
                      (made = fld h 192 32 → (flags % 2 = 1 ∨ fld h 64 64 = 0) →
                        fills (if entry < f.count then 0 else 0x60) f.count entry))))))))) ∧
      ((m.kind.engine = true ∧ m.kind.isFabric = false ∧ m.kind ≠ .xpf) →
        (m.prog.stage = 3 → ends i (if m.cancelAt.isSome then 0x40 else m.prog.status)) ∧
        (m.prog.stage ≠ 3 → m.cancelAt = none → (s.memberEnded c m = true ∨ s.cmdStale c m = true) → ends i 0x20) ∧
        (m.prog.stage ≠ 3 → ∀ s1 r,
          (s.runCmd c m (some (Config.freeBits s.draws 1002)) = (s1, r) → s1.cmdsOf c = s.cmdsOf c → s1.tempo = s.tempo →
            (m.cancelAt.isSome = true → last i s1.mem 0x40) ∧
            (m.cancelAt = none → s.memberEnded c m = false → s.cmdStale c m = false →
              last (.engineCommandEnd c m.tag true) s1.mem 0x20)) ∧
          (m.cancelAt = none → s.memberEnded c m = false → s.cmdStale c m = false →
            (m.prog.stage = 2 → s1.cmdsOf c = s.cmdsOf c → s1.tempo = s.tempo →
              (s.cmdTags c m = (s1, none) → last i s1.mem m.prog.status) ∧
              ∀ f, s.cmdTags c m = (s1, some (.fault f)) → exec i s = .next (s1.stopCmd c m f)) ∧
            (m.prog.stage.val < 2 → s1.cmdsOf c = s.cmdsOf c →
              s.runCmd c m (if m.prog.stage = 0 then some (Config.freeBits s.draws 1002) else none) = (s1, r) →
              (∀ g, r = .ok g → ∃ t, exec i s = .next t ∧ t.mem = s1.mem ∧
                t.cmd? c m.tag = some { m with prog := { g with stage := if s.cmdSize c m g ≤ g.wrote then 2 else 1 } } ∧
                t.pending s1.tempo i) ∧
              (∀ f, r = .error (.fault f) → exec i s = .next (s1.stopCmd c m f)) ∧
              (r = .error .lost → ∃ t, exec i s = .next t ∧ Ended t c m.tag 0x20 ∧ t.mem = s1.mem))))))) ∧
  (∀ (s : State) (c : CtxId) (m : Cmd) (nd : Fin 8) (sm dm : Bool) (k1 k2 : CoreId), s.cmd? c m.tag = some m →
    m.kind = .xcp nd sm dm → m.started = true → m.stopped = false → m.cancelAt = none → s.memberEnded c m = false →
    s.cmdStale c m = false → s.pkg.tests = [] → s.pkg.mappedOut = [] → s.packets = [] →
    let p := s.xcpPlan c sm dm m.ops
    let from_ := keyScratch k1 p.sa.toNat
    let dest := keyScratch k2 p.da.toNat
    p.sw = .scratch k1 → p.dw = .scratch k2 → p.dims = [] → p.carry = false → p.run ≠ 0 → s.bad = [] → s.Inv →
    p.sa.toNat + p.run ≤ 0x400000 → p.da.toNat + p.run ≤ 0x400000 → (from_ + p.run ≤ dest ∨ dest + p.run ≤ from_) →
    (∀ k, (k = k1 ∨ k = k2) → s.routeDead (dieOf (coreOf c)) (dieOf k) = false ∧ s.ringBlocked (dieOf (coreOf c)) (dieOf k) = false) →
    m.prog.wrote = 0 → m.prog.read = [] →
    (m.prog.stage = 0 → ∃ t g, exec (.engineCommandEnd c m.tag false) s = .next t ∧ t.cmd? c m.tag = some { m with prog := g } ∧
      g.stage ≠ 0 ∧ t.pending s.tempo (.engineCommandEnd c m.tag false) ∧
      (∀ a, (a < dest ∨ dest + p.run ≤ a) → readByte t.mem a = readByte s.mem a) ∧
      ∀ j, j < p.run → readByte t.mem (dest + j) = readByte s.mem (from_ + j) ∨ readByte t.mem (dest + j) = readByte s.mem (dest + j)) ∧
    (m.prog.stage = 1 → ∃ t g, exec (.engineCommandEnd c m.tag false) s = .next t ∧ t.cmd? c m.tag = some { m with prog := g } ∧
      g.stage = 2 ∧ g.status = m.prog.status ∧ t.pending s.tempo (.engineCommandEnd c m.tag false) ∧
      t.mem = writeBytes s.mem dest (readBytes s.mem from_ p.run))) ∧
  (∀ (s : State) (c : CtxId) (m : Cmd) (fl : Bool), s.cmd? c m.tag = some m → m.kind = .xcnv fl → m.started = true → m.stopped = false →
    m.cancelAt = none → s.memberEnded c m = false → s.cmdStale c m = false → s.bad = [] → s.pkg.tests = [] → s.pkg.mappedOut = [] →
    s.Inv → m.prog.stage = 1 → m.prog.wrote = 0 →
    let k := cnvOf m.ops
    let sa := (m.ops.getD 0 0).toNat
    let da := (m.ops.getD 1 0).toNat
    let key (a : Nat) := keyScratch (coreOf c) a
    let v := readN s.mem (key sa) (k.groupBytes fl)
    let writes (out : List Byte) (status : Nat) (tags : List (Nat × BitVec 16)) : Prop :=
      ∃ t g, exec (.engineCommandEnd c m.tag false) s = .next t ∧ t.cmd? c m.tag = some { m with prog := g } ∧ g.stage = 2 ∧
        g.status = m.prog.status ||| status ∧ g.tags = tags.reverse ++ m.prog.tags ∧ t.mem = writeBytes s.mem (key da) out
    k.ng = 1 → k.rows = 1 → k.ff < 5 → sa % 64 = 0 → da % 64 = 0 → sa + k.groupBytes fl ≤ 0x400000 → da + k.groupBytes (!fl) ≤ 0x400000 →
    (fl = false → k.two = decide (8 < k.p) → (∀ i, i < ffBytes k.ff → floatTagFlaw k.ff (s.tagOf (key (sa + 64 * i))) = none) →
      let r := convertGroup k.p k.sgn k.sym m.rm m.sat
        ((List.range 64).map fun i => some ((closeFmt k.ff).decode (lane v (8 * ffBytes k.ff) i)))
      writes (r.2.1.flatMap fun b => bytesOf b 64) (statusFlags r.2.2)
        ((List.range r.2.1.length).map fun h => (da + 64 * h, planeTag k.sgn (h == 1) (k.p - 1) r.1))) ∧
    (fl = true → ∀ kind, checkGroup k.two k.p m.prog.agreed (s.tagOf (key sa)) (s.tagOf (key (sa + 64))) = .ok kind →
      let t0 := s.tagOf (key sa)
      let g : Group := { scale := tagScale t0, sgn := tagSigned t0, words := planeWords [v % 2 ^ 512, v / 2 ^ 512] k.p }
      let el (e : Nat) : Nat × Nat :=
        (closeFmt k.ff).deliver m.rm m.sat (.fin (decide (groupCode g e < 0)) (groupCode g e).natAbs g.weight)
      writes ((List.range 64).flatMap fun e => bytesOf (el e).1 (ffBytes k.ff)) (statusFlags (laneFlags (fun e => (el e).2) 6 0))
        ((List.range (ffBytes k.ff)).map fun h => (da + 64 * h, BitVec.ofNat 16 (256 * (0x80 + k.ff)))))) ∧
  (∀ (s : State) (c : CtxId) (m : Cmd), s.cmd? c m.tag = some m → m.kind = .xrte → m.started = true → m.stopped = false →
    m.cancelAt = none → s.memberEnded c m = false → s.cmdStale c m = false → s.bad = [] → s.pkg.tests = [] → s.pkg.mappedOut = [] →
    s.Inv → m.prog.wrote = 0 →
    let r := routeOf m.ops
    let key (a : Nat) := keyScratch (coreOf c) a
    let inside (l : List (Nat × Nat)) : Prop := ∀ w ∈ l, w.1 % 4 = 0 ∧ w.1 + 4 ≤ 0x400000
    let apart (l : List (Nat × Nat)) (a : Nat) : Prop := ∀ w ∈ l, a < key w.1 ∨ key w.1 + 4 ≤ a
    r.cnt.toNat < 0x400000 →
    (m.prog.stage = 0 → r.ids.toNat < 0x400000 → r.ids.toNat + 2 * r.t ≤ 0x400000 → r.caps.toNat + 4 * r.x ≤ 0x400000 →
      let ids := readN s.mem (key r.ids.toNat) (2 * r.t)
      let caps := readN s.mem (key r.caps.toNat) (4 * r.x)
      let out := routeTokens r (fun e => min (lane caps 32 e) (r.lstd / 4)) (fun i => lane ids 16 i) r.t 0 [] 0
      let words := out.1 ++ ((List.range r.x).map fun e => (r.cnt.toNat + 4 * e, lookupD 0 out.2.1 e))
        ++ [(r.cnt.toNat + 4 * r.x, out.2.2)]
      inside words → ∃ t g, exec (.engineCommandEnd c m.tag false) s = .next t ∧ t.cmd? c m.tag = some { m with prog := g } ∧
        g.words = words ∧ g.status = (if out.2.2 = 0 then 0 else 0xC0) ∧ g.stage ≠ 0 ∧
        ∀ a, apart words a → readByte t.mem a = readByte s.mem a) ∧
    (m.prog.stage = 1 → inside m.prog.words → (m.prog.words.map (·.1)).Nodup →
      ∃ t g, exec (.engineCommandEnd c m.tag false) s = .next t ∧ t.cmd? c m.tag = some { m with prog := g } ∧ g.stage = 2 ∧
        g.status = m.prog.status ∧ (∀ w ∈ m.prog.words, readN t.mem (key w.1) 4 = w.2 % 2 ^ 32) ∧
        ∀ a, apart m.prog.words a → readByte t.mem a = readByte s.mem a))

/-- 18 R486, R488, R493, R495 to R500, R502 to R506, 19 R515, R517, R521: what the host's writes of a partition's configuration, ASID
table, way mask and monitors do and when they are refused; sweeps, flushes, scrubs, whose receipt waits for the drains, and keys;
function-level and partition resets, which end with their own scrub. The KIMP clause rests on the opaque decryption of the model (log
entry 3), the binding of functions on log entry 35, the codes of the error log and what a scrub leaves of a core that another ASID uses on
log entry 75, the checks of an ASID entry on log entry 76, the layout of the receipt on log entry 117 and the wait of KERASE on log entry
125. -/
def Obligations.PartitionEvents : Prop :=
  (∀ (s : State) (p : PartId) (f : PCfg) (v : Word),
    (s.configOpen p = false → exec (.partitionConfigWrite p f v) s = .next (s.logError p 1)) ∧
    (s.configOpen p = true → s.fieldOk p f ((s.part p).withField f v) = false →
      exec (.partitionConfigWrite p f v) s = .next (s.logError p 2)) ∧
    (s.configOpen p = true → s.fieldOk p f ((s.part p).withField f v) = true →
      ∃ t, exec (.partitionConfigWrite p f v) s = .next t ∧ t.part p = (s.part p).withField f v ∧ t.mem = s.mem ∧
        ∀ k x, (k, x) ∈ t.pkg.keys ↔ (k, x) ∈ s.pkg.keys ∧
          (f = .pkeys → (s.part p).ownsKey k = true → (t.part p).ownsKey k = true))) ∧
  (∀ (s : State) (p : PartId) (v : Word),
    (s.configOpen p = false → exec (.pasidtNWrite p v) s = .next (s.logError p 1)) ∧
    (s.configOpen p = true → s.serviceOk p (s.part p) = true → v.toNat % 1024 = 0 →
      exec (.pasidtNWrite p v) s = .next (s.setPart p { s.part p with pasidtN := 0, asids := [] })) ∧
    (s.configOpen p = true → s.serviceOk p (s.part p) = false → exec (.pasidtNWrite p v) s = .next (s.logError p 2)) ∧
    (s.configOpen p = true → s.serviceOk p (s.part p) = true →
      let n := v.toNat % 1024
      let words := (List.range n).map fun j => readN s.mem (keyPA ((s.part p).pasidtBase.toNat % 2 ^ 39 + 32 * j)) 32
      let es := (words.filter fun w => w.testBit 127).map asidEntryOf
      let good := (∀ w ∈ words, w.testBit 127 = true → asidEntryOk w (fld (s.part p).psrow.toNat 16 14) = true) ∧
        es.Pairwise (fun e f => e.asid ≠ f.asid ∧ ¬(e.func = f.func ∧ e.pasid = f.pasid)) ∧
        ∀ e ∈ es, ∀ k q f, (k, q) ∈ s.parts → k ≠ p.val → f ∈ q.asids → f.asid ≠ e.asid
      (¬good → exec (.pasidtNWrite p v) s = .next (s.logError p 2)) ∧
      (good → ∃ t, exec (.pasidtNWrite p v) s = .next t ∧ t.part p = { s.part p with pasidtN := BitVec.ofNat 10 n, asids := es } ∧
        ∀ e ∈ es, (t.func (Fin.ofNat 513 e.func)).part = p))) ∧
  (∀ (s : State) (p : PartId) (v : Word),
    let mask : BitVec 16 := v.truncate 16
    let foreign := ∃ k d, (k, d) ∈ s.dies ∧ ∃ l ∈ d.cache, mask.getLsbD l.way.val = true ∧
      (s.part p).pway.getLsbD l.way.val = false ∧ l.part ≠ p
    let serves := s.pkg.bstate = 2 ∨ (s.pkg.bstate = 1 ∧ p = 0)
    ((foreign ∨ ¬serves) → exec (.pwayWrite p v) s = .next (s.logError p 2)) ∧
    (serves → ¬foreign → ∃ t, exec (.pwayWrite p v) s = .next t ∧ (t.part p).pway = mask ∧ t.mem = s.mem ∧
      ∀ d l, l ∈ (t.die d).cache ↔ l ∈ (s.die d).cache ∧ (mask = 0 → l.part = p → l.dirty = false))) ∧
  (∀ (s : State) (p : PartId) (v : Word),
    ((v.getLsbD 0 = false ∨ (s.part p).wsweepDone = false) → exec (.wsweep p v) s = .next s) ∧
    (v.getLsbD 0 = true → (s.part p).wsweepDone = true → ∃ t, exec (.wsweep p v) s = .next t ∧
      t.part p = { s.part p with wsweepDone := false } ∧ t.pending s.tempo (.wsweepDone p)) ∧
    ((s.part p).wsweepDone = false → ∃ t, exec (.wsweepDone p) s = .next t ∧ t.part p = { s.part p with wsweepDone := true } ∧
      ∀ d l, l ∈ (t.die d).cache ↔ l ∈ (s.die d).cache ∧ (l.part = p → (s.part p).pway.getLsbD l.way.val = true))) ∧
  (∀ (s : State) (p : PartId) (v : Word),
    (2 ≤ v.toNat / 2 ^ 14 % 4 → exec (.tlbh p v) s = .next s) ∧
    (v.toNat / 2 ^ 14 % 4 < 2 → ∃ t, exec (.tlbh p v) s = .next t ∧ (t.part p).tlbhDone = false ∧ t.mem = s.mem ∧
      t.pending s.tempo (.tlbhDone p) ∧
      ∀ d e, e ∈ (t.die d).tlb → e ∈ (s.die d).tlb ∧
        e.stale p (if v.toNat / 2 ^ 14 % 4 = 0 then .all else .asid (BitVec.ofNat 14 v.toNat)) = false) ∧
    exec (.tlbhDone p) s = .next (s.setPart p { s.part p with tlbhDone := true })) ∧
  (∀ (s : State) (p : PartId) (n : Fin 16) (v : Word),
    (∀ w1, ∃ t, exec (.monitorWrite p n w1 v) s = .next t ∧ ((s.part p).log = [] → t.mem = s.mem) ∧
      ∀ e, e ∈ (t.part p).log ↔ e ∈ (s.part p).log ∧ e.mon ≠ n) ∧
    (∃ t, exec (.monitorWrite p n false v) s = .next t ∧ fld (t.part p).mon0[n].toNat 0 4 = fld v.toNat 0 4 ∧
      fld (t.part p).mon0[n].toNat 16 36 = fld v.toNat 16 36 ∧ (t.part p).mon1 = (s.part p).mon1 ∧
      ∀ m, m ≠ n → (t.part p).mon0[m] = (s.part p).mon0[m]) ∧
    (∃ t, exec (.monitorWrite p n true v) s = .next t ∧ fld (t.part p).mon1[n].toNat 0 14 = fld v.toNat 0 14 ∧
      fld (t.part p).mon1[n].toNat 15 1 = fld v.toNat 15 1 ∧ fld (t.part p).mon1[n].toNat 16 36 = fld v.toNat 16 36 ∧
      (t.part p).mon0 = (s.part p).mon0 ∧ ∀ m, m ≠ n → (t.part p).mon1[m] = (s.part p).mon1[m])) ∧
  (∀ (s : State) (p : PartId), ∃ t, exec (.lflush p) s = .next t ∧ (t.part p).log = [] ∧ t.ctxs = s.ctxs) ∧
  (∀ (s : State) (req : BitVec 512),
    let p : PartId := Fin.ofNat 32 (fld req.toNat 0 8)
    let z := s.scopeOf p (fld req.toNat 16 16)
    (32 ≤ fld req.toNat 0 8 → exec (.scrubRequest req) s = .next { s with pkg := { s.pkg with scrqStatus := 2 } }) ∧
    (fld req.toNat 0 8 < 32 → s.scopeResident z = true →
      exec (.scrubRequest req) s = .next { s with pkg := { s.pkg with scrqStatus := 1 } }) ∧
    (fld req.toNat 0 8 < 32 → s.scopeResident z = false → s.scrubOk req.toNat = false →
      exec (.scrubRequest req) s = .next { s with pkg := { s.pkg with scrqStatus := 2 } }) ∧
    (fld req.toNat 0 8 < 32 → s.scopeResident z = false → s.scrubOk req.toNat = true →
      ∃ t, exec (.scrubRequest req) s = .next t ∧ t.pkg.scrqStatus = 0 ∧ ((s.part p).log = [] → t.mem = s.mem) ∧
        (∀ e, e ∈ (t.part p).log ↔ e ∈ (s.part p).log ∧ z.whole = false ∧ e.asid ∉ z.asids) ∧
        (t.part p).scrub = (s.part p).scrub ++ [{ req := req, t0 := s.tempo, w0 := s.wall, owner := .host }] ∧
        t.pending s.tempo (.scrubReceipt p))) ∧
  (∀ (s : State) (p : PartId) (j : ScrubJob) (rest : List ScrubJob), (s.part p).scrub = j :: rest →
    (s.drainWait p ≠ 0 → ∃ t, exec (.scrubReceipt p) s = .next t ∧ (s.tempo + s.drainWait p, .scrubReceipt p) ∈ t.agenda ∧
      t.mem = s.mem ∧ t.pkg = s.pkg ∧ t.parts = s.parts) ∧
    (s.drainWait p = 0 →
      let n := j.req.toNat
      let z := s.scopeOf p (fld n 16 16)
      ∃ t body, exec (.scrubReceipt p) s = .next t ∧ (t.part p).scrub = rest ∧
        t.pkg.receipts = s.pkg.receipts ++ [body ++ signature body] ∧ body.take 4 = bytesOf 0x5A475352 4 ∧
        (body.drop 6).take 64 = bytesOf n 64 ∧
        (n.testBit 8 = true → ∀ c ∈ z.ctxs, (t.ctx c).run = .free ∧ (t.ctx c).regs = .reset) ∧
        (n.testBit 9 = true → s.Inv → ∀ k ∈ s.scopeCores z, ∀ a, a < 0x400000 → readByte t.mem (keyScratch k a) = 0) ∧
        (n.testBit 12 = true → ∀ d, ∀ l ∈ (t.die d).cache, l.part ≠ p) ∧
        (j.owner ≠ .prst → (t.part p).prstDone = (s.part p).prstDone ∧ t.pkg.keys = s.pkg.keys) ∧
        (j.owner = .prst → (t.part p).prstDone = true ∧ (∀ k x, (k, x) ∈ t.pkg.keys ↔ (k, x) ∈ s.pkg.keys ∧ (s.part p).ownsKey k = false) ∧
          ∀ k g, (k, g) ∈ s.funcs → g.part = p → g.busy = true →
            (k, { g with ready := true, busy := false, step := (6 : Fin 8) }) ∈ t.funcs) ∧
        (j.owner = .host → t.funcs = s.funcs) ∧
        (j.owner = .flr → (s.part p).prstDone = true →
          let f : FuncId := Fin.ofNat 513 (fld n 16 16)
          (s.func f).busy = true → t.func f = { s.func f with ready := true, busy := false, step := 6 }))) ∧
  (∀ (s : State) (id : Fin 1024),
    (∃ t, exec (.kerase id) s = .next t ∧ t.pending s.tempo (.keraseComplete id) ∧ t.pkg = s.pkg) ∧
    (∀ x, lookup? s.pkg.keys id.val = some x → s.keyBusy x = true →
      ∃ t, exec (.keraseComplete id) s = .next t ∧ t.pending s.tempo (.keraseComplete id) ∧ t.pkg = s.pkg ∧ t.mem = s.mem) ∧
    ((∀ x, lookup? s.pkg.keys id.val = some x → s.keyBusy x = false) →
      ∃ t, exec (.keraseComplete id) s = .next t ∧ t.mem = s.mem ∧
        ∀ k x, (k, x) ∈ t.pkg.keys ↔ (k, x) ∈ s.pkg.keys ∧ k ≠ id.val)) ∧
  (∀ (s : State) (b : BitVec 4096),
    let decrypts := Config.sealValue 2 b.toNat % 2 = 1
    let plain := Config.sealValue 3 b.toNat
    let id := plain / 2 ^ 512 % 2 ^ 16
    let p := plain / 2 ^ 528 % 2 ^ 8
    let owned := id < 1024 ∧ ∃ q : PartId, q.val = p ∧ (s.part q).ownsKey id = true
    let answers (k : Nat) : Prop := exec (.kimp b) s = .next { s with pkg := { s.pkg with kimpStatus := k } }
    (¬decrypts → answers 1) ∧ (decrypts → ¬owned → answers 2) ∧
    (decrypts → owned → (lookup? s.pkg.keys id).isSome = true → answers 3) ∧
    (decrypts → owned → lookup? s.pkg.keys id = none → exec (.kimp b) s = .next { s with pkg := { s.pkg with
      kimpStatus := 0, keys := insertAt s.pkg.keys id (plain % 2 ^ 512 + 1) } })) ∧
  (∀ (s : State) (f : FuncId),
    ((f = 0 ∨ (s.func f).busy = true ∨ s.serving? = false) → exec (.functionLevelReset f) s = .next s) ∧
    (f ≠ 0 → (s.func f).busy = false → s.serving? = true → ∃ t, exec (.functionLevelReset f) s = .next t ∧
      t.func f = { s.func f with ready := false, busy := true, step := 5 } ∧ t.pending s.tempo (.scrubReceipt (s.func f).part) ∧
      (t.part (s.func f).part).scrub.length = (s.part (s.func f).part).scrub.length + 1 ∧
      (∀ j ∈ (t.part (s.func f).part).scrub.drop (s.part (s.func f).part).scrub.length, j.owner = .flr ∧
        fld j.req.toNat 16 16 = f.val) ∧
      (∀ q, (s.queue q).part = (s.func f).part → ∀ r ∈ (t.queue q).fifo, r.asid ∉ (s.part (s.func f).part).asidsOf f.val) ∧
      (∀ d, ∀ e ∈ (t.die d).tlb, ∀ a ∈ (s.part (s.func f).part).asidsOf f.val, e.stale (s.func f).part (.asid a) = false) ∧
      ∀ k g, (k, g) ∈ s.gangs → g.part = (s.func f).part → g.asid ∈ (s.part g.part).asidsOf f.val → t.gang? k = none)) ∧
  (∀ (s : State) (p : PartId) (v : Word),
    ((v.getLsbD 0 = false ∨ (s.part p).prstDone = false ∨ s.serving? = false) → exec (.partitionReset p v) s = .next s) ∧
    (v.getLsbD 0 = true → (s.part p).prstDone = true → s.serving? = true → ∃ t, exec (.partitionReset p v) s = .next t ∧ (t.part p).prstDone = false ∧
      t.pending s.tempo (.scrubReceipt p) ∧ (t.part p).scrub.length = (s.part p).scrub.length + 1 ∧
      (∀ j ∈ (t.part p).scrub.drop (s.part p).scrub.length, j.owner = .prst ∧ fld j.req.toNat 16 16 = 0xFFFF) ∧
      (∀ f, (s.func f).part = p → t.func f = { s.func f with ready := false, busy := true, step := 5 }) ∧
      ∀ k g, (k, g) ∈ s.gangs → g.part = p → g.asid ∈ (s.part p).asids.map (·.asid) → t.gang? k = none))
end

