-- ==== Sys2Proof/Laws/Memory.lean ====
section
/-! SUPPORT. Laws of memory and of sparse tables: what a read gives after a write, and that every operation keeps the canonical
form (log entry 5). -/

namespace Sys2Proof.Machine

/-! ## Sparse tables -/

/-- Keys rise strictly from a bound. -/
def Rising {α : Type} : Nat → Assoc α → Prop
  | _, [] => True
  | lo, (k, _) :: rest => lo ≤ k ∧ Rising (k + 1) rest

@[simp] theorem lookup?_insertAt_self {α : Type} (l : Assoc α) (n : Nat) (v : α) : lookup? (insertAt l n v) n = some v := by
  induction l with
  | nil => simp [insertAt, lookup?]
  | cons x rest ih =>
    obtain ⟨k, w⟩ := x
    simp only [insertAt]
    split
    · simp [lookup?]
    · split
      · simp [lookup?]
      · rw [lookup?]
        split
        · omega
        · exact ih

theorem lookup?_insertAt_other {α : Type} (l : Assoc α) (n m : Nat) (v : α) (h : m ≠ n) :
    lookup? (insertAt l n v) m = lookup? l m := by
  induction l with
  | nil => simp [insertAt, lookup?, Ne.symm h]
  | cons x rest ih =>
    obtain ⟨k, w⟩ := x
    simp only [insertAt]
    split
    · simp [lookup?, Ne.symm h]
    · split
      · subst_vars; simp [lookup?, Ne.symm h]
      · simp only [lookup?]; split
        · rfl
        · exact ih

@[simp] theorem lookupD_insertAt_self {α : Type} (d : α) (l : Assoc α) (n : Nat) (v : α) :
    lookupD d (insertAt l n v) n = v := by simp [lookupD]

theorem lookupD_insertAt_other {α : Type} (d : α) (l : Assoc α) (n m : Nat) (v : α) (h : m ≠ n) :
    lookupD d (insertAt l n v) m = lookupD d l m := by simp [lookupD, lookup?_insertAt_other l n m v h]

@[simp] theorem lookup?_removeAt_self {α : Type} (l : Assoc α) (n : Nat) : lookup? (removeAt l n) n = none := by
  induction l with
  | nil => rfl
  | cons x rest ih =>
    obtain ⟨k, w⟩ := x
    by_cases h : k = n
    · simpa [removeAt, h] using ih
    · simpa [removeAt, h, lookup?] using ih

theorem insertAt_rising {α : Type} (l : Assoc α) (lo n : Nat) (v : α) (h : Rising lo l) (hn : lo ≤ n) :
    Rising lo (insertAt l n v) := by
  induction l generalizing lo with
  | nil => exact ⟨hn, trivial⟩
  | cons x rest ih =>
    obtain ⟨k, w⟩ := x
    simp only [insertAt]
    split
    · exact ⟨hn, by omega, h.2⟩
    · split
      · subst_vars; exact ⟨hn, h.2⟩
      · exact ⟨h.1, ih _ h.2 (by omega)⟩

/-! ## One byte -/

/-- Nothing is listed below the bound of a canonical memory. -/
theorem readByte_below (m : Memory) (lo a : Nat) (h : memWfFrom lo m = true) (ha : a < lo) : readByte m a = unlistedByte := by
  cases m with
  | nil => rfl
  | cons x rest =>
    obtain ⟨k, b⟩ := x
    simp [memWfFrom] at h
    simp only [readByte]
    rw [if_neg (by omega), if_pos (by omega)]

theorem memWfFrom_weaken (m : Memory) (lo hi : Nat) (h : memWfFrom hi m = true) (hl : lo ≤ hi) : memWfFrom lo m = true := by
  cases m with
  | nil => rfl
  | cons x rest =>
    obtain ⟨k, b⟩ := x
    simp [memWfFrom] at h ⊢
    exact ⟨⟨by omega, h.1.2⟩, h.2⟩

theorem writeByte_wfFrom (m : Memory) (lo a : Nat) (b : Byte) (h : memWfFrom lo m = true) (ha : lo ≤ a) :
    memWfFrom lo (writeByte m a b) = true := by
  induction m generalizing lo with
  | nil =>
    simp only [writeByte]
    split <;> simp_all [memWfFrom]
  | cons x rest ih =>
    obtain ⟨k, c⟩ := x
    have hx := h
    simp [memWfFrom] at h
    simp only [writeByte]
    split
    · split
      · exact hx
      · simp [memWfFrom]; exact ⟨⟨ha, ‹_›⟩, ⟨by omega, h.1.2⟩, h.2⟩
    · split
      · split
        · exact memWfFrom_weaken _ _ _ h.2 (by omega)
        · subst_vars; simp [memWfFrom]; exact ⟨⟨ha, ‹_›⟩, h.2⟩
      · simp [memWfFrom]; exact ⟨h.1, ih _ h.2 (by omega)⟩

/-- Writing a byte keeps the canonical form. -/
theorem writeByte_wf (m : Memory) (a : Nat) (b : Byte) (h : m.wf = true) : (writeByte m a b).wf = true :=
  writeByte_wfFrom m 0 a b h (Nat.zero_le a)

theorem readByte_writeByte_from (m : Memory) (lo a c : Nat) (b : Byte) (h : memWfFrom lo m = true) :
    readByte (writeByte m a b) c = if c = a then b else readByte m c := by
  induction m generalizing lo with
  | nil =>
    by_cases hb : b = unlistedByte <;> by_cases hc : c = a
    · simp [writeByte, readByte, hb, hc]
    · simp [writeByte, readByte, hb, hc]
    · simp [writeByte, readByte, hb, hc]
    · simp [writeByte, readByte, hb, hc, Ne.symm hc]
  | cons x rest ih =>
    obtain ⟨k, v⟩ := x
    have hx := h
    simp [memWfFrom] at h
    simp only [writeByte]
    split
    · rename_i hk
      by_cases hb : b = unlistedByte <;> by_cases hc : c = a
      · subst hc; simp [hb, readByte, Nat.ne_of_gt hk, hk]
      · simp [hb, hc]
      · subst hc; simp [hb, readByte]
      · simp only [hb, hc, readByte, if_false, Ne.symm hc]
        split
        · rw [if_neg (by omega), if_pos (by omega)]
        · rfl
    · split
      · rename_i hk; subst hk
        by_cases hb : b = unlistedByte <;> by_cases hc : c = a
        · subst hc; simp [hb, readByte_below rest (c + 1) c h.2 (by omega)]
        · simp only [hb, hc, readByte, if_true, if_false, Ne.symm hc]
          split
          · exact readByte_below rest (a + 1) c h.2 (by omega)
          · rfl
        · subst hc; simp [hb, readByte]
        · simp [hb, hc, readByte, Ne.symm hc]
      · simp only [readByte]
        split
        · rw [if_neg (by omega)]
        · split
          · rw [if_neg (by omega)]
          · exact ih _ h.2

/-- A byte read after a write of one byte of a canonical memory. -/
theorem readByte_writeByte (m : Memory) (a c : Nat) (b : Byte) (h : m.wf = true) :
    readByte (writeByte m a b) c = if c = a then b else readByte m c := readByte_writeByte_from m 0 a c b h

/-! ## Several bytes -/

theorem writeN_wf (m : Memory) (a n v : Nat) (h : m.wf = true) : (writeN m a n v).wf = true := by
  induction n generalizing m a v with
  | zero => exact h
  | succ n ih => exact ih _ _ _ (writeByte_wf m a _ h)

theorem writeBytes_wf (m : Memory) (a : Nat) (l : List Byte) (h : m.wf = true) : (writeBytes m a l).wf = true := by
  induction l generalizing m a with
  | nil => exact h
  | cons b bs ih => exact ih _ _ (writeByte_wf m a b h)

theorem filter_wfFrom (m : Memory) (lo : Nat) (p : Host.Cell → Bool) (h : memWfFrom lo m = true) :
    memWfFrom lo (m.filter p) = true := by
  induction m generalizing lo with
  | nil => rfl
  | cons x rest ih =>
    obtain ⟨k, b⟩ := x
    have hx := h
    simp [memWfFrom] at h
    simp only [List.filter]
    split
    · simp [memWfFrom]; exact ⟨h.1, ih _ h.2⟩
    · exact memWfFrom_weaken _ _ _ (ih _ h.2) (by omega)

/-- Dropping entries keeps the canonical form. -/
theorem filter_wf (m : Memory) (p : Host.Cell → Bool) (h : m.wf = true) : Memory.wf (m.filter p) = true :=
  filter_wfFrom m 0 p h

theorem zeroBytes_wf (m : Memory) (lo n : Nat) (h : m.wf = true) : (zeroBytes m lo n).wf = true := filter_wf m _ h

/-- Canonical entries below a bound, followed by canonical entries from it on. -/
theorem append_wfFrom (m m' : Memory) (lo mid : Nat) (h : memWfFrom lo m = true) (hm : ∀ c ∈ m, c.1 < mid) (hl : lo ≤ mid)
    (h' : memWfFrom mid m' = true) : memWfFrom lo (m ++ m') = true := by
  induction m generalizing lo with
  | nil => exact memWfFrom_weaken _ _ _ h' hl
  | cons x rest ih =>
    obtain ⟨k, b⟩ := x
    have hk : k < mid := hm (k, b) (by simp)
    simp [memWfFrom] at h
    simp only [List.cons_append, memWfFrom, Bool.and_eq_true, decide_eq_true_eq, bne_iff_ne, ne_eq]
    exact ⟨h.1, ih (k + 1) h.2 (fun c hc => hm c (by simp [hc])) (by omega)⟩

/-- Entries that are not below a bound are canonical from it on. -/
theorem above_wfFrom (m : Memory) (lo mid : Nat) (h : memWfFrom lo m = true) (hm : ∀ c ∈ m, mid ≤ c.1) : memWfFrom mid m = true := by
  cases m with
  | nil => rfl
  | cons x rest =>
    obtain ⟨k, b⟩ := x
    have hk : mid ≤ k := hm (k, b) (by simp)
    simp [memWfFrom] at h ⊢
    exact ⟨⟨hk, h.1.2⟩, h.2⟩

/-- The nonzero bytes of a run, each at its offset. -/
theorem run_wfFrom (f : Nat → Byte) (lo i n : Nat) :
    memWfFrom (lo + i) ((List.range' i n).filterMap fun j => if f j = 0 then none else some (lo + j, f j)) = true := by
  induction n generalizing i with
  | zero => rfl
  | succ n ih =>
    rw [List.range'_succ, List.filterMap_cons]
    have hr := ih (i + 1)
    by_cases hf : f i = 0
    · simp only [hf, ↓reduceIte]
      exact memWfFrom_weaken _ _ _ hr (by omega)
    · simp only [hf, ↓reduceIte, memWfFrom]
      have : lo + i + 1 = lo + (i + 1) := by omega
      rw [this, hr]
      simpa [unlistedByte] using hf

/-- Writing a run of bytes by their offsets keeps the canonical form. -/
theorem fillBytes_wf (m : Memory) (lo n : Nat) (f : Nat → Byte) (h : m.wf = true) : (fillBytes m lo n f).wf = true := by
  have h1 := filter_wfFrom m 0 (fun c => decide (c.1 < lo)) h
  have h2 := run_wfFrom f lo 0 n
  have h3 := above_wfFrom _ 0 (lo + n) (filter_wfFrom m 0 (fun c => decide (lo + n ≤ c.1)) h) (by simp)
  rw [← List.range_eq_range'] at h2
  unfold fillBytes Memory.wf
  rw [List.append_assoc]
  refine append_wfFrom _ _ 0 lo h1 (by simp) (by omega) (append_wfFrom _ _ lo (lo + n) (by simpa using h2) ?_ (by omega) h3)
  intro c hc
  simp only [List.mem_filterMap, List.mem_range] at hc
  obtain ⟨j, hj, hc⟩ := hc
  split at hc
  · cases hc
  · cases hc; simp only; omega

/-- Bytes outside a write of n bytes stay. -/
theorem readByte_writeN_other (m : Memory) (a n v c : Nat) (h : m.wf = true) (hc : c < a ∨ a + n ≤ c) :
    readByte (writeN m a n v) c = readByte m c := by
  induction n generalizing m a v with
  | zero => rfl
  | succ n ih =>
    simp only [writeN]
    rw [ih _ _ _ (writeByte_wf m a _ h) (by omega), readByte_writeByte m a c _ h, if_neg (by omega)]

/-- The bytes of a write, low byte first. -/
theorem readByte_writeN_at (m : Memory) (a n v i : Nat) (h : m.wf = true) (hi : i < n) :
    readByte (writeN m a n v) (a + i) = BitVec.ofNat 8 (v / 256 ^ i) := by
  induction n generalizing m a v i with
  | zero => omega
  | succ n ih =>
    simp only [writeN]
    cases i with
    | zero =>
      rw [readByte_writeN_other _ _ _ _ _ (writeByte_wf m a _ h) (by omega), Nat.add_zero, readByte_writeByte m a a _ h]
      simp
    | succ i =>
      rw [show a + (i + 1) = a + 1 + i by omega, ih _ _ _ _ (writeByte_wf m a _ h) (by omega), Nat.div_div_eq_div_mul,
        Nat.pow_succ, Nat.mul_comm 256]

theorem readN_congr (m m' : Memory) (a n : Nat) (h : ∀ i, i < n → readByte m (a + i) = readByte m' (a + i)) :
    readN m a n = readN m' a n := by
  induction n generalizing a with
  | zero => rfl
  | succ n ih =>
    simp only [readN]
    rw [show readByte m a = readByte m' a from h 0 (by omega), ih (a + 1) fun i hi => by
      have := h (i + 1) (by omega); rwa [show a + (i + 1) = a + 1 + i by omega] at this]

/-- Reading what was written gives the value modulo its width. -/
theorem readN_writeN (m : Memory) (a n v : Nat) (h : m.wf = true) : readN (writeN m a n v) a n = v % 256 ^ n := by
  induction n generalizing m a v with
  | zero => simp [readN, Nat.mod_one]
  | succ n ih =>
    simp only [readN, writeN]
    rw [ih _ _ _ (writeByte_wf m a _ h), readByte_writeN_other _ _ _ _ _ (writeByte_wf m a _ h) (by omega),
      readByte_writeByte m a a _ h, if_pos rfl, BitVec.toNat_ofNat, show (2 : Nat) ^ 8 = 256 from rfl,
      show 256 ^ (n + 1) = 256 * 256 ^ n by rw [Nat.pow_succ, Nat.mul_comm], Nat.mod_mul]

theorem readBytes_length (m : Memory) (a n : Nat) : (readBytes m a n).length = n := by
  induction n generalizing a with
  | zero => rfl
  | succ n ih => simp [readBytes, ih]

end Sys2Proof.Machine
end

