-- ==== Sys2Proof/Laws/State.lean ====
section
/-! SUPPORT. Every field of the state under every update of one table: the field that an update sets, and the others unchanged. -/

namespace Sys2Proof.Machine

/-! ## setMem -/

@[simp] theorem setMem_tempo (s : State) (x : Memory) : (s.setMem x).tempo = s.tempo := rfl
@[simp] theorem setMem_bad (s : State) (x : Memory) : (s.setMem x).bad = s.bad := rfl
@[simp] theorem setMem_lats (s : State) (x : Memory) : (s.setMem x).lats = s.lats := rfl
@[simp] theorem setMem_wall (s : State) (x : Memory) : (s.setMem x).wall = s.wall := rfl
@[simp] theorem setMem_wallFs (s : State) (x : Memory) : (s.setMem x).wallFs = s.wallFs := rfl
@[simp] theorem setMem_mem (s : State) (x : Memory) : (s.setMem x).mem = x := rfl
@[simp] theorem setMem_tags (s : State) (x : Memory) : (s.setMem x).tags = s.tags := rfl
@[simp] theorem setMem_ctxs (s : State) (x : Memory) : (s.setMem x).ctxs = s.ctxs := rfl
@[simp] theorem setMem_cores (s : State) (x : Memory) : (s.setMem x).cores = s.cores := rfl
@[simp] theorem setMem_cmds (s : State) (x : Memory) : (s.setMem x).cmds = s.cmds := rfl
@[simp] theorem setMem_gangs (s : State) (x : Memory) : (s.setMem x).gangs = s.gangs := rfl
@[simp] theorem setMem_chains (s : State) (x : Memory) : (s.setMem x).chains = s.chains := rfl
@[simp] theorem setMem_regions (s : State) (x : Memory) : (s.setMem x).regions = s.regions := rfl
@[simp] theorem setMem_roots (s : State) (x : Memory) : (s.setMem x).roots = s.roots := rfl
@[simp] theorem setMem_queues (s : State) (x : Memory) : (s.setMem x).queues = s.queues := rfl
@[simp] theorem setMem_parts (s : State) (x : Memory) : (s.setMem x).parts = s.parts := rfl
@[simp] theorem setMem_funcs (s : State) (x : Memory) : (s.setMem x).funcs = s.funcs := rfl
@[simp] theorem setMem_dies (s : State) (x : Memory) : (s.setMem x).dies = s.dies := rfl
@[simp] theorem setMem_pkg (s : State) (x : Memory) : (s.setMem x).pkg = s.pkg := rfl
@[simp] theorem setMem_packets (s : State) (x : Memory) : (s.setMem x).packets = s.packets := rfl
@[simp] theorem setMem_timed (s : State) (x : Memory) : (s.setMem x).timed = s.timed := rfl
@[simp] theorem setMem_iss (s : State) (x : Memory) : (s.setMem x).iss = s.iss := rfl
@[simp] theorem setMem_agenda (s : State) (x : Memory) : (s.setMem x).agenda = s.agenda := rfl
@[simp] theorem setMem_draws (s : State) (x : Memory) : (s.setMem x).draws = s.draws := rfl
@[simp] theorem setMem_fresh (s : State) (x : Memory) : (s.setMem x).fresh = s.fresh := rfl

/-! ## setTag -/

@[simp] theorem setTag_tempo (s : State) (k : Nat) (x : BitVec 16) : (s.setTag k x).tempo = s.tempo := rfl
@[simp] theorem setTag_bad (s : State) (k : Nat) (x : BitVec 16) : (s.setTag k x).bad = s.bad := rfl
@[simp] theorem setTag_lats (s : State) (k : Nat) (x : BitVec 16) : (s.setTag k x).lats = s.lats := rfl
@[simp] theorem setTag_wall (s : State) (k : Nat) (x : BitVec 16) : (s.setTag k x).wall = s.wall := rfl
@[simp] theorem setTag_wallFs (s : State) (k : Nat) (x : BitVec 16) : (s.setTag k x).wallFs = s.wallFs := rfl
@[simp] theorem setTag_mem (s : State) (k : Nat) (x : BitVec 16) : (s.setTag k x).mem = s.mem := rfl
@[simp] theorem setTag_tags (s : State) (k : Nat) (x : BitVec 16) : (s.setTag k x).tags = setTagIn s.tags k x := rfl
@[simp] theorem setTag_ctxs (s : State) (k : Nat) (x : BitVec 16) : (s.setTag k x).ctxs = s.ctxs := rfl
@[simp] theorem setTag_cores (s : State) (k : Nat) (x : BitVec 16) : (s.setTag k x).cores = s.cores := rfl
@[simp] theorem setTag_cmds (s : State) (k : Nat) (x : BitVec 16) : (s.setTag k x).cmds = s.cmds := rfl
@[simp] theorem setTag_gangs (s : State) (k : Nat) (x : BitVec 16) : (s.setTag k x).gangs = s.gangs := rfl
@[simp] theorem setTag_chains (s : State) (k : Nat) (x : BitVec 16) : (s.setTag k x).chains = s.chains := rfl
@[simp] theorem setTag_regions (s : State) (k : Nat) (x : BitVec 16) : (s.setTag k x).regions = s.regions := rfl
@[simp] theorem setTag_roots (s : State) (k : Nat) (x : BitVec 16) : (s.setTag k x).roots = s.roots := rfl
@[simp] theorem setTag_queues (s : State) (k : Nat) (x : BitVec 16) : (s.setTag k x).queues = s.queues := rfl
@[simp] theorem setTag_parts (s : State) (k : Nat) (x : BitVec 16) : (s.setTag k x).parts = s.parts := rfl
@[simp] theorem setTag_funcs (s : State) (k : Nat) (x : BitVec 16) : (s.setTag k x).funcs = s.funcs := rfl
@[simp] theorem setTag_dies (s : State) (k : Nat) (x : BitVec 16) : (s.setTag k x).dies = s.dies := rfl
@[simp] theorem setTag_pkg (s : State) (k : Nat) (x : BitVec 16) : (s.setTag k x).pkg = s.pkg := rfl
@[simp] theorem setTag_packets (s : State) (k : Nat) (x : BitVec 16) : (s.setTag k x).packets = s.packets := rfl
@[simp] theorem setTag_timed (s : State) (k : Nat) (x : BitVec 16) : (s.setTag k x).timed = s.timed := rfl
@[simp] theorem setTag_iss (s : State) (k : Nat) (x : BitVec 16) : (s.setTag k x).iss = s.iss := rfl
@[simp] theorem setTag_agenda (s : State) (k : Nat) (x : BitVec 16) : (s.setTag k x).agenda = s.agenda := rfl
@[simp] theorem setTag_draws (s : State) (k : Nat) (x : BitVec 16) : (s.setTag k x).draws = s.draws := rfl
@[simp] theorem setTag_fresh (s : State) (k : Nat) (x : BitVec 16) : (s.setTag k x).fresh = s.fresh := rfl

/-! ## setCtx -/

@[simp] theorem setCtx_tempo (s : State) (c : CtxId) (x : Ctx) : (s.setCtx c x).tempo = s.tempo := rfl
@[simp] theorem setCtx_bad (s : State) (c : CtxId) (x : Ctx) : (s.setCtx c x).bad = s.bad := rfl
@[simp] theorem setCtx_lats (s : State) (c : CtxId) (x : Ctx) : (s.setCtx c x).lats = s.lats := rfl
@[simp] theorem setCtx_wall (s : State) (c : CtxId) (x : Ctx) : (s.setCtx c x).wall = s.wall := rfl
@[simp] theorem setCtx_wallFs (s : State) (c : CtxId) (x : Ctx) : (s.setCtx c x).wallFs = s.wallFs := rfl
@[simp] theorem setCtx_mem (s : State) (c : CtxId) (x : Ctx) : (s.setCtx c x).mem = s.mem := rfl
@[simp] theorem setCtx_tags (s : State) (c : CtxId) (x : Ctx) : (s.setCtx c x).tags = s.tags := rfl
@[simp] theorem setCtx_ctxs (s : State) (c : CtxId) (x : Ctx) : (s.setCtx c x).ctxs = insertAt s.ctxs c.val x := rfl
@[simp] theorem setCtx_cores (s : State) (c : CtxId) (x : Ctx) : (s.setCtx c x).cores = s.cores := rfl
@[simp] theorem setCtx_cmds (s : State) (c : CtxId) (x : Ctx) : (s.setCtx c x).cmds = s.cmds := rfl
@[simp] theorem setCtx_gangs (s : State) (c : CtxId) (x : Ctx) : (s.setCtx c x).gangs = s.gangs := rfl
@[simp] theorem setCtx_chains (s : State) (c : CtxId) (x : Ctx) : (s.setCtx c x).chains = s.chains := rfl
@[simp] theorem setCtx_regions (s : State) (c : CtxId) (x : Ctx) : (s.setCtx c x).regions = s.regions := rfl
@[simp] theorem setCtx_roots (s : State) (c : CtxId) (x : Ctx) : (s.setCtx c x).roots = s.roots := rfl
@[simp] theorem setCtx_queues (s : State) (c : CtxId) (x : Ctx) : (s.setCtx c x).queues = s.queues := rfl
@[simp] theorem setCtx_parts (s : State) (c : CtxId) (x : Ctx) : (s.setCtx c x).parts = s.parts := rfl
@[simp] theorem setCtx_funcs (s : State) (c : CtxId) (x : Ctx) : (s.setCtx c x).funcs = s.funcs := rfl
@[simp] theorem setCtx_dies (s : State) (c : CtxId) (x : Ctx) : (s.setCtx c x).dies = s.dies := rfl
@[simp] theorem setCtx_pkg (s : State) (c : CtxId) (x : Ctx) : (s.setCtx c x).pkg = s.pkg := rfl
@[simp] theorem setCtx_packets (s : State) (c : CtxId) (x : Ctx) : (s.setCtx c x).packets = s.packets := rfl
@[simp] theorem setCtx_timed (s : State) (c : CtxId) (x : Ctx) : (s.setCtx c x).timed = s.timed := rfl
@[simp] theorem setCtx_iss (s : State) (c : CtxId) (x : Ctx) : (s.setCtx c x).iss = s.iss := rfl
@[simp] theorem setCtx_agenda (s : State) (c : CtxId) (x : Ctx) : (s.setCtx c x).agenda = s.agenda := rfl
@[simp] theorem setCtx_draws (s : State) (c : CtxId) (x : Ctx) : (s.setCtx c x).draws = s.draws := rfl
@[simp] theorem setCtx_fresh (s : State) (c : CtxId) (x : Ctx) : (s.setCtx c x).fresh = s.fresh := rfl

/-! ## setCore -/

@[simp] theorem setCore_tempo (s : State) (k : CoreId) (x : Core) : (s.setCore k x).tempo = s.tempo := rfl
@[simp] theorem setCore_bad (s : State) (k : CoreId) (x : Core) : (s.setCore k x).bad = s.bad := rfl
@[simp] theorem setCore_lats (s : State) (k : CoreId) (x : Core) : (s.setCore k x).lats = s.lats := rfl
@[simp] theorem setCore_wall (s : State) (k : CoreId) (x : Core) : (s.setCore k x).wall = s.wall := rfl
@[simp] theorem setCore_wallFs (s : State) (k : CoreId) (x : Core) : (s.setCore k x).wallFs = s.wallFs := rfl
@[simp] theorem setCore_mem (s : State) (k : CoreId) (x : Core) : (s.setCore k x).mem = s.mem := rfl
@[simp] theorem setCore_tags (s : State) (k : CoreId) (x : Core) : (s.setCore k x).tags = s.tags := rfl
@[simp] theorem setCore_ctxs (s : State) (k : CoreId) (x : Core) : (s.setCore k x).ctxs = s.ctxs := rfl
@[simp] theorem setCore_cores (s : State) (k : CoreId) (x : Core) : (s.setCore k x).cores = insertAt s.cores k.val x := rfl
@[simp] theorem setCore_cmds (s : State) (k : CoreId) (x : Core) : (s.setCore k x).cmds = s.cmds := rfl
@[simp] theorem setCore_gangs (s : State) (k : CoreId) (x : Core) : (s.setCore k x).gangs = s.gangs := rfl
@[simp] theorem setCore_chains (s : State) (k : CoreId) (x : Core) : (s.setCore k x).chains = s.chains := rfl
@[simp] theorem setCore_regions (s : State) (k : CoreId) (x : Core) : (s.setCore k x).regions = s.regions := rfl
@[simp] theorem setCore_roots (s : State) (k : CoreId) (x : Core) : (s.setCore k x).roots = s.roots := rfl
@[simp] theorem setCore_queues (s : State) (k : CoreId) (x : Core) : (s.setCore k x).queues = s.queues := rfl
@[simp] theorem setCore_parts (s : State) (k : CoreId) (x : Core) : (s.setCore k x).parts = s.parts := rfl
@[simp] theorem setCore_funcs (s : State) (k : CoreId) (x : Core) : (s.setCore k x).funcs = s.funcs := rfl
@[simp] theorem setCore_dies (s : State) (k : CoreId) (x : Core) : (s.setCore k x).dies = s.dies := rfl
@[simp] theorem setCore_pkg (s : State) (k : CoreId) (x : Core) : (s.setCore k x).pkg = s.pkg := rfl
@[simp] theorem setCore_packets (s : State) (k : CoreId) (x : Core) : (s.setCore k x).packets = s.packets := rfl
@[simp] theorem setCore_timed (s : State) (k : CoreId) (x : Core) : (s.setCore k x).timed = s.timed := rfl
@[simp] theorem setCore_iss (s : State) (k : CoreId) (x : Core) : (s.setCore k x).iss = s.iss := rfl
@[simp] theorem setCore_agenda (s : State) (k : CoreId) (x : Core) : (s.setCore k x).agenda = s.agenda := rfl
@[simp] theorem setCore_draws (s : State) (k : CoreId) (x : Core) : (s.setCore k x).draws = s.draws := rfl
@[simp] theorem setCore_fresh (s : State) (k : CoreId) (x : Core) : (s.setCore k x).fresh = s.fresh := rfl

/-! ## setPart -/

@[simp] theorem setPart_tempo (s : State) (p : PartId) (x : Part) : (s.setPart p x).tempo = s.tempo := rfl
@[simp] theorem setPart_bad (s : State) (p : PartId) (x : Part) : (s.setPart p x).bad = s.bad := rfl
@[simp] theorem setPart_lats (s : State) (p : PartId) (x : Part) : (s.setPart p x).lats = s.lats := rfl
@[simp] theorem setPart_wall (s : State) (p : PartId) (x : Part) : (s.setPart p x).wall = s.wall := rfl
@[simp] theorem setPart_wallFs (s : State) (p : PartId) (x : Part) : (s.setPart p x).wallFs = s.wallFs := rfl
@[simp] theorem setPart_mem (s : State) (p : PartId) (x : Part) : (s.setPart p x).mem = s.mem := rfl
@[simp] theorem setPart_tags (s : State) (p : PartId) (x : Part) : (s.setPart p x).tags = s.tags := rfl
@[simp] theorem setPart_ctxs (s : State) (p : PartId) (x : Part) : (s.setPart p x).ctxs = s.ctxs := rfl
@[simp] theorem setPart_cores (s : State) (p : PartId) (x : Part) : (s.setPart p x).cores = s.cores := rfl
@[simp] theorem setPart_cmds (s : State) (p : PartId) (x : Part) : (s.setPart p x).cmds = s.cmds := rfl
@[simp] theorem setPart_gangs (s : State) (p : PartId) (x : Part) : (s.setPart p x).gangs = s.gangs := rfl
@[simp] theorem setPart_chains (s : State) (p : PartId) (x : Part) : (s.setPart p x).chains = s.chains := rfl
@[simp] theorem setPart_regions (s : State) (p : PartId) (x : Part) : (s.setPart p x).regions = s.regions := rfl
@[simp] theorem setPart_roots (s : State) (p : PartId) (x : Part) : (s.setPart p x).roots = s.roots := rfl
@[simp] theorem setPart_queues (s : State) (p : PartId) (x : Part) : (s.setPart p x).queues = s.queues := rfl
@[simp] theorem setPart_parts (s : State) (p : PartId) (x : Part) : (s.setPart p x).parts = insertAt s.parts p.val x := rfl
@[simp] theorem setPart_funcs (s : State) (p : PartId) (x : Part) : (s.setPart p x).funcs = s.funcs := rfl
@[simp] theorem setPart_dies (s : State) (p : PartId) (x : Part) : (s.setPart p x).dies = s.dies := rfl
@[simp] theorem setPart_pkg (s : State) (p : PartId) (x : Part) : (s.setPart p x).pkg = s.pkg := rfl
@[simp] theorem setPart_packets (s : State) (p : PartId) (x : Part) : (s.setPart p x).packets = s.packets := rfl
@[simp] theorem setPart_timed (s : State) (p : PartId) (x : Part) : (s.setPart p x).timed = s.timed := rfl
@[simp] theorem setPart_iss (s : State) (p : PartId) (x : Part) : (s.setPart p x).iss = s.iss := rfl
@[simp] theorem setPart_agenda (s : State) (p : PartId) (x : Part) : (s.setPart p x).agenda = s.agenda := rfl
@[simp] theorem setPart_draws (s : State) (p : PartId) (x : Part) : (s.setPart p x).draws = s.draws := rfl
@[simp] theorem setPart_fresh (s : State) (p : PartId) (x : Part) : (s.setPart p x).fresh = s.fresh := rfl

/-! ## setQueue -/

@[simp] theorem setQueue_tempo (s : State) (q : QueueId) (x : Queue) : (s.setQueue q x).tempo = s.tempo := rfl
@[simp] theorem setQueue_bad (s : State) (q : QueueId) (x : Queue) : (s.setQueue q x).bad = s.bad := rfl
@[simp] theorem setQueue_lats (s : State) (q : QueueId) (x : Queue) : (s.setQueue q x).lats = s.lats := rfl
@[simp] theorem setQueue_wall (s : State) (q : QueueId) (x : Queue) : (s.setQueue q x).wall = s.wall := rfl
@[simp] theorem setQueue_wallFs (s : State) (q : QueueId) (x : Queue) : (s.setQueue q x).wallFs = s.wallFs := rfl
@[simp] theorem setQueue_mem (s : State) (q : QueueId) (x : Queue) : (s.setQueue q x).mem = s.mem := rfl
@[simp] theorem setQueue_tags (s : State) (q : QueueId) (x : Queue) : (s.setQueue q x).tags = s.tags := rfl
@[simp] theorem setQueue_ctxs (s : State) (q : QueueId) (x : Queue) : (s.setQueue q x).ctxs = s.ctxs := rfl
@[simp] theorem setQueue_cores (s : State) (q : QueueId) (x : Queue) : (s.setQueue q x).cores = s.cores := rfl
@[simp] theorem setQueue_cmds (s : State) (q : QueueId) (x : Queue) : (s.setQueue q x).cmds = s.cmds := rfl
@[simp] theorem setQueue_gangs (s : State) (q : QueueId) (x : Queue) : (s.setQueue q x).gangs = s.gangs := rfl
@[simp] theorem setQueue_chains (s : State) (q : QueueId) (x : Queue) : (s.setQueue q x).chains = s.chains := rfl
@[simp] theorem setQueue_regions (s : State) (q : QueueId) (x : Queue) : (s.setQueue q x).regions = s.regions := rfl
@[simp] theorem setQueue_roots (s : State) (q : QueueId) (x : Queue) : (s.setQueue q x).roots = s.roots := rfl
@[simp] theorem setQueue_queues (s : State) (q : QueueId) (x : Queue) : (s.setQueue q x).queues = insertAt s.queues q.val x := rfl
@[simp] theorem setQueue_parts (s : State) (q : QueueId) (x : Queue) : (s.setQueue q x).parts = s.parts := rfl
@[simp] theorem setQueue_funcs (s : State) (q : QueueId) (x : Queue) : (s.setQueue q x).funcs = s.funcs := rfl
@[simp] theorem setQueue_dies (s : State) (q : QueueId) (x : Queue) : (s.setQueue q x).dies = s.dies := rfl
@[simp] theorem setQueue_pkg (s : State) (q : QueueId) (x : Queue) : (s.setQueue q x).pkg = s.pkg := rfl
@[simp] theorem setQueue_packets (s : State) (q : QueueId) (x : Queue) : (s.setQueue q x).packets = s.packets := rfl
@[simp] theorem setQueue_timed (s : State) (q : QueueId) (x : Queue) : (s.setQueue q x).timed = s.timed := rfl
@[simp] theorem setQueue_iss (s : State) (q : QueueId) (x : Queue) : (s.setQueue q x).iss = s.iss := rfl
@[simp] theorem setQueue_agenda (s : State) (q : QueueId) (x : Queue) : (s.setQueue q x).agenda = s.agenda := rfl
@[simp] theorem setQueue_draws (s : State) (q : QueueId) (x : Queue) : (s.setQueue q x).draws = s.draws := rfl
@[simp] theorem setQueue_fresh (s : State) (q : QueueId) (x : Queue) : (s.setQueue q x).fresh = s.fresh := rfl

/-! ## setFunc -/

@[simp] theorem setFunc_tempo (s : State) (f : FuncId) (x : Func) : (s.setFunc f x).tempo = s.tempo := rfl
@[simp] theorem setFunc_bad (s : State) (f : FuncId) (x : Func) : (s.setFunc f x).bad = s.bad := rfl
@[simp] theorem setFunc_lats (s : State) (f : FuncId) (x : Func) : (s.setFunc f x).lats = s.lats := rfl
@[simp] theorem setFunc_wall (s : State) (f : FuncId) (x : Func) : (s.setFunc f x).wall = s.wall := rfl
@[simp] theorem setFunc_wallFs (s : State) (f : FuncId) (x : Func) : (s.setFunc f x).wallFs = s.wallFs := rfl
@[simp] theorem setFunc_mem (s : State) (f : FuncId) (x : Func) : (s.setFunc f x).mem = s.mem := rfl
@[simp] theorem setFunc_tags (s : State) (f : FuncId) (x : Func) : (s.setFunc f x).tags = s.tags := rfl
@[simp] theorem setFunc_ctxs (s : State) (f : FuncId) (x : Func) : (s.setFunc f x).ctxs = s.ctxs := rfl
@[simp] theorem setFunc_cores (s : State) (f : FuncId) (x : Func) : (s.setFunc f x).cores = s.cores := rfl
@[simp] theorem setFunc_cmds (s : State) (f : FuncId) (x : Func) : (s.setFunc f x).cmds = s.cmds := rfl
@[simp] theorem setFunc_gangs (s : State) (f : FuncId) (x : Func) : (s.setFunc f x).gangs = s.gangs := rfl
@[simp] theorem setFunc_chains (s : State) (f : FuncId) (x : Func) : (s.setFunc f x).chains = s.chains := rfl
@[simp] theorem setFunc_regions (s : State) (f : FuncId) (x : Func) : (s.setFunc f x).regions = s.regions := rfl
@[simp] theorem setFunc_roots (s : State) (f : FuncId) (x : Func) : (s.setFunc f x).roots = s.roots := rfl
@[simp] theorem setFunc_queues (s : State) (f : FuncId) (x : Func) : (s.setFunc f x).queues = s.queues := rfl
@[simp] theorem setFunc_parts (s : State) (f : FuncId) (x : Func) : (s.setFunc f x).parts = s.parts := rfl
@[simp] theorem setFunc_funcs (s : State) (f : FuncId) (x : Func) : (s.setFunc f x).funcs = insertAt s.funcs f.val x := rfl
@[simp] theorem setFunc_dies (s : State) (f : FuncId) (x : Func) : (s.setFunc f x).dies = s.dies := rfl
@[simp] theorem setFunc_pkg (s : State) (f : FuncId) (x : Func) : (s.setFunc f x).pkg = s.pkg := rfl
@[simp] theorem setFunc_packets (s : State) (f : FuncId) (x : Func) : (s.setFunc f x).packets = s.packets := rfl
@[simp] theorem setFunc_timed (s : State) (f : FuncId) (x : Func) : (s.setFunc f x).timed = s.timed := rfl
@[simp] theorem setFunc_iss (s : State) (f : FuncId) (x : Func) : (s.setFunc f x).iss = s.iss := rfl
@[simp] theorem setFunc_agenda (s : State) (f : FuncId) (x : Func) : (s.setFunc f x).agenda = s.agenda := rfl
@[simp] theorem setFunc_draws (s : State) (f : FuncId) (x : Func) : (s.setFunc f x).draws = s.draws := rfl
@[simp] theorem setFunc_fresh (s : State) (f : FuncId) (x : Func) : (s.setFunc f x).fresh = s.fresh := rfl

/-! ## setDie -/

@[simp] theorem setDie_tempo (s : State) (d : DieId) (x : Die) : (s.setDie d x).tempo = s.tempo := rfl
@[simp] theorem setDie_bad (s : State) (d : DieId) (x : Die) : (s.setDie d x).bad = s.bad := rfl
@[simp] theorem setDie_lats (s : State) (d : DieId) (x : Die) : (s.setDie d x).lats = s.lats := rfl
@[simp] theorem setDie_wall (s : State) (d : DieId) (x : Die) : (s.setDie d x).wall = s.wall := rfl
@[simp] theorem setDie_wallFs (s : State) (d : DieId) (x : Die) : (s.setDie d x).wallFs = s.wallFs := rfl
@[simp] theorem setDie_mem (s : State) (d : DieId) (x : Die) : (s.setDie d x).mem = s.mem := rfl
@[simp] theorem setDie_tags (s : State) (d : DieId) (x : Die) : (s.setDie d x).tags = s.tags := rfl
@[simp] theorem setDie_ctxs (s : State) (d : DieId) (x : Die) : (s.setDie d x).ctxs = s.ctxs := rfl
@[simp] theorem setDie_cores (s : State) (d : DieId) (x : Die) : (s.setDie d x).cores = s.cores := rfl
@[simp] theorem setDie_cmds (s : State) (d : DieId) (x : Die) : (s.setDie d x).cmds = s.cmds := rfl
@[simp] theorem setDie_gangs (s : State) (d : DieId) (x : Die) : (s.setDie d x).gangs = s.gangs := rfl
@[simp] theorem setDie_chains (s : State) (d : DieId) (x : Die) : (s.setDie d x).chains = s.chains := rfl
@[simp] theorem setDie_regions (s : State) (d : DieId) (x : Die) : (s.setDie d x).regions = s.regions := rfl
@[simp] theorem setDie_roots (s : State) (d : DieId) (x : Die) : (s.setDie d x).roots = s.roots := rfl
@[simp] theorem setDie_queues (s : State) (d : DieId) (x : Die) : (s.setDie d x).queues = s.queues := rfl
@[simp] theorem setDie_parts (s : State) (d : DieId) (x : Die) : (s.setDie d x).parts = s.parts := rfl
@[simp] theorem setDie_funcs (s : State) (d : DieId) (x : Die) : (s.setDie d x).funcs = s.funcs := rfl
@[simp] theorem setDie_dies (s : State) (d : DieId) (x : Die) : (s.setDie d x).dies = insertAt s.dies d.val x := rfl
@[simp] theorem setDie_pkg (s : State) (d : DieId) (x : Die) : (s.setDie d x).pkg = s.pkg := rfl
@[simp] theorem setDie_packets (s : State) (d : DieId) (x : Die) : (s.setDie d x).packets = s.packets := rfl
@[simp] theorem setDie_timed (s : State) (d : DieId) (x : Die) : (s.setDie d x).timed = s.timed := rfl
@[simp] theorem setDie_iss (s : State) (d : DieId) (x : Die) : (s.setDie d x).iss = s.iss := rfl
@[simp] theorem setDie_agenda (s : State) (d : DieId) (x : Die) : (s.setDie d x).agenda = s.agenda := rfl
@[simp] theorem setDie_draws (s : State) (d : DieId) (x : Die) : (s.setDie d x).draws = s.draws := rfl
@[simp] theorem setDie_fresh (s : State) (d : DieId) (x : Die) : (s.setDie d x).fresh = s.fresh := rfl

/-! ## setGang -/

@[simp] theorem setGang_tempo (s : State) (g : Nat) (x : Gang) : (s.setGang g x).tempo = s.tempo := rfl
@[simp] theorem setGang_bad (s : State) (g : Nat) (x : Gang) : (s.setGang g x).bad = s.bad := rfl
@[simp] theorem setGang_lats (s : State) (g : Nat) (x : Gang) : (s.setGang g x).lats = s.lats := rfl
@[simp] theorem setGang_wall (s : State) (g : Nat) (x : Gang) : (s.setGang g x).wall = s.wall := rfl
@[simp] theorem setGang_wallFs (s : State) (g : Nat) (x : Gang) : (s.setGang g x).wallFs = s.wallFs := rfl
@[simp] theorem setGang_mem (s : State) (g : Nat) (x : Gang) : (s.setGang g x).mem = s.mem := rfl
@[simp] theorem setGang_tags (s : State) (g : Nat) (x : Gang) : (s.setGang g x).tags = s.tags := rfl
@[simp] theorem setGang_ctxs (s : State) (g : Nat) (x : Gang) : (s.setGang g x).ctxs = s.ctxs := rfl
@[simp] theorem setGang_cores (s : State) (g : Nat) (x : Gang) : (s.setGang g x).cores = s.cores := rfl
@[simp] theorem setGang_cmds (s : State) (g : Nat) (x : Gang) : (s.setGang g x).cmds = s.cmds := rfl
@[simp] theorem setGang_gangs (s : State) (g : Nat) (x : Gang) : (s.setGang g x).gangs = insertAt s.gangs g x := rfl
@[simp] theorem setGang_chains (s : State) (g : Nat) (x : Gang) : (s.setGang g x).chains = s.chains := rfl
@[simp] theorem setGang_regions (s : State) (g : Nat) (x : Gang) : (s.setGang g x).regions = s.regions := rfl
@[simp] theorem setGang_roots (s : State) (g : Nat) (x : Gang) : (s.setGang g x).roots = s.roots := rfl
@[simp] theorem setGang_queues (s : State) (g : Nat) (x : Gang) : (s.setGang g x).queues = s.queues := rfl
@[simp] theorem setGang_parts (s : State) (g : Nat) (x : Gang) : (s.setGang g x).parts = s.parts := rfl
@[simp] theorem setGang_funcs (s : State) (g : Nat) (x : Gang) : (s.setGang g x).funcs = s.funcs := rfl
@[simp] theorem setGang_dies (s : State) (g : Nat) (x : Gang) : (s.setGang g x).dies = s.dies := rfl
@[simp] theorem setGang_pkg (s : State) (g : Nat) (x : Gang) : (s.setGang g x).pkg = s.pkg := rfl
@[simp] theorem setGang_packets (s : State) (g : Nat) (x : Gang) : (s.setGang g x).packets = s.packets := rfl
@[simp] theorem setGang_timed (s : State) (g : Nat) (x : Gang) : (s.setGang g x).timed = s.timed := rfl
@[simp] theorem setGang_iss (s : State) (g : Nat) (x : Gang) : (s.setGang g x).iss = s.iss := rfl
@[simp] theorem setGang_agenda (s : State) (g : Nat) (x : Gang) : (s.setGang g x).agenda = s.agenda := rfl
@[simp] theorem setGang_draws (s : State) (g : Nat) (x : Gang) : (s.setGang g x).draws = s.draws := rfl
@[simp] theorem setGang_fresh (s : State) (g : Nat) (x : Gang) : (s.setGang g x).fresh = s.fresh := rfl

/-! ## setRegion -/

@[simp] theorem setRegion_tempo (s : State) (r : Nat) (x : Region) : (s.setRegion r x).tempo = s.tempo := rfl
@[simp] theorem setRegion_bad (s : State) (r : Nat) (x : Region) : (s.setRegion r x).bad = s.bad := rfl
@[simp] theorem setRegion_lats (s : State) (r : Nat) (x : Region) : (s.setRegion r x).lats = s.lats := rfl
@[simp] theorem setRegion_wall (s : State) (r : Nat) (x : Region) : (s.setRegion r x).wall = s.wall := rfl
@[simp] theorem setRegion_wallFs (s : State) (r : Nat) (x : Region) : (s.setRegion r x).wallFs = s.wallFs := rfl
@[simp] theorem setRegion_mem (s : State) (r : Nat) (x : Region) : (s.setRegion r x).mem = s.mem := rfl
@[simp] theorem setRegion_tags (s : State) (r : Nat) (x : Region) : (s.setRegion r x).tags = s.tags := rfl
@[simp] theorem setRegion_ctxs (s : State) (r : Nat) (x : Region) : (s.setRegion r x).ctxs = s.ctxs := rfl
@[simp] theorem setRegion_cores (s : State) (r : Nat) (x : Region) : (s.setRegion r x).cores = s.cores := rfl
@[simp] theorem setRegion_cmds (s : State) (r : Nat) (x : Region) : (s.setRegion r x).cmds = s.cmds := rfl
@[simp] theorem setRegion_gangs (s : State) (r : Nat) (x : Region) : (s.setRegion r x).gangs = s.gangs := rfl
@[simp] theorem setRegion_chains (s : State) (r : Nat) (x : Region) : (s.setRegion r x).chains = s.chains := rfl
@[simp] theorem setRegion_regions (s : State) (r : Nat) (x : Region) : (s.setRegion r x).regions = insertAt s.regions r x := rfl
@[simp] theorem setRegion_roots (s : State) (r : Nat) (x : Region) : (s.setRegion r x).roots = s.roots := rfl
@[simp] theorem setRegion_queues (s : State) (r : Nat) (x : Region) : (s.setRegion r x).queues = s.queues := rfl
@[simp] theorem setRegion_parts (s : State) (r : Nat) (x : Region) : (s.setRegion r x).parts = s.parts := rfl
@[simp] theorem setRegion_funcs (s : State) (r : Nat) (x : Region) : (s.setRegion r x).funcs = s.funcs := rfl
@[simp] theorem setRegion_dies (s : State) (r : Nat) (x : Region) : (s.setRegion r x).dies = s.dies := rfl
@[simp] theorem setRegion_pkg (s : State) (r : Nat) (x : Region) : (s.setRegion r x).pkg = s.pkg := rfl
@[simp] theorem setRegion_packets (s : State) (r : Nat) (x : Region) : (s.setRegion r x).packets = s.packets := rfl
@[simp] theorem setRegion_timed (s : State) (r : Nat) (x : Region) : (s.setRegion r x).timed = s.timed := rfl
@[simp] theorem setRegion_iss (s : State) (r : Nat) (x : Region) : (s.setRegion r x).iss = s.iss := rfl
@[simp] theorem setRegion_agenda (s : State) (r : Nat) (x : Region) : (s.setRegion r x).agenda = s.agenda := rfl
@[simp] theorem setRegion_draws (s : State) (r : Nat) (x : Region) : (s.setRegion r x).draws = s.draws := rfl
@[simp] theorem setRegion_fresh (s : State) (r : Nat) (x : Region) : (s.setRegion r x).fresh = s.fresh := rfl

/-! ## setChain -/

@[simp] theorem setChain_tempo (s : State) (u : Nat) (x : Chain) : (s.setChain u x).tempo = s.tempo := rfl
@[simp] theorem setChain_bad (s : State) (u : Nat) (x : Chain) : (s.setChain u x).bad = s.bad := rfl
@[simp] theorem setChain_lats (s : State) (u : Nat) (x : Chain) : (s.setChain u x).lats = s.lats := rfl
@[simp] theorem setChain_wall (s : State) (u : Nat) (x : Chain) : (s.setChain u x).wall = s.wall := rfl
@[simp] theorem setChain_wallFs (s : State) (u : Nat) (x : Chain) : (s.setChain u x).wallFs = s.wallFs := rfl
@[simp] theorem setChain_mem (s : State) (u : Nat) (x : Chain) : (s.setChain u x).mem = s.mem := rfl
@[simp] theorem setChain_tags (s : State) (u : Nat) (x : Chain) : (s.setChain u x).tags = s.tags := rfl
@[simp] theorem setChain_ctxs (s : State) (u : Nat) (x : Chain) : (s.setChain u x).ctxs = s.ctxs := rfl
@[simp] theorem setChain_cores (s : State) (u : Nat) (x : Chain) : (s.setChain u x).cores = s.cores := rfl
@[simp] theorem setChain_cmds (s : State) (u : Nat) (x : Chain) : (s.setChain u x).cmds = s.cmds := rfl
@[simp] theorem setChain_gangs (s : State) (u : Nat) (x : Chain) : (s.setChain u x).gangs = s.gangs := rfl
@[simp] theorem setChain_chains (s : State) (u : Nat) (x : Chain) : (s.setChain u x).chains = insertAt s.chains u x := rfl
@[simp] theorem setChain_regions (s : State) (u : Nat) (x : Chain) : (s.setChain u x).regions = s.regions := rfl
@[simp] theorem setChain_roots (s : State) (u : Nat) (x : Chain) : (s.setChain u x).roots = s.roots := rfl
@[simp] theorem setChain_queues (s : State) (u : Nat) (x : Chain) : (s.setChain u x).queues = s.queues := rfl
@[simp] theorem setChain_parts (s : State) (u : Nat) (x : Chain) : (s.setChain u x).parts = s.parts := rfl
@[simp] theorem setChain_funcs (s : State) (u : Nat) (x : Chain) : (s.setChain u x).funcs = s.funcs := rfl
@[simp] theorem setChain_dies (s : State) (u : Nat) (x : Chain) : (s.setChain u x).dies = s.dies := rfl
@[simp] theorem setChain_pkg (s : State) (u : Nat) (x : Chain) : (s.setChain u x).pkg = s.pkg := rfl
@[simp] theorem setChain_packets (s : State) (u : Nat) (x : Chain) : (s.setChain u x).packets = s.packets := rfl
@[simp] theorem setChain_timed (s : State) (u : Nat) (x : Chain) : (s.setChain u x).timed = s.timed := rfl
@[simp] theorem setChain_iss (s : State) (u : Nat) (x : Chain) : (s.setChain u x).iss = s.iss := rfl
@[simp] theorem setChain_agenda (s : State) (u : Nat) (x : Chain) : (s.setChain u x).agenda = s.agenda := rfl
@[simp] theorem setChain_draws (s : State) (u : Nat) (x : Chain) : (s.setChain u x).draws = s.draws := rfl
@[simp] theorem setChain_fresh (s : State) (u : Nat) (x : Chain) : (s.setChain u x).fresh = s.fresh := rfl

/-! ## setCmds -/

@[simp] theorem setCmds_tempo (s : State) (c : CtxId) (x : List Cmd) : (s.setCmds c x).tempo = s.tempo := rfl
@[simp] theorem setCmds_bad (s : State) (c : CtxId) (x : List Cmd) : (s.setCmds c x).bad = s.bad := rfl
@[simp] theorem setCmds_lats (s : State) (c : CtxId) (x : List Cmd) : (s.setCmds c x).lats = s.lats := rfl
@[simp] theorem setCmds_wall (s : State) (c : CtxId) (x : List Cmd) : (s.setCmds c x).wall = s.wall := rfl
@[simp] theorem setCmds_wallFs (s : State) (c : CtxId) (x : List Cmd) : (s.setCmds c x).wallFs = s.wallFs := rfl
@[simp] theorem setCmds_mem (s : State) (c : CtxId) (x : List Cmd) : (s.setCmds c x).mem = s.mem := rfl
@[simp] theorem setCmds_tags (s : State) (c : CtxId) (x : List Cmd) : (s.setCmds c x).tags = s.tags := rfl
@[simp] theorem setCmds_ctxs (s : State) (c : CtxId) (x : List Cmd) : (s.setCmds c x).ctxs = s.ctxs := rfl
@[simp] theorem setCmds_cores (s : State) (c : CtxId) (x : List Cmd) : (s.setCmds c x).cores = s.cores := rfl
@[simp] theorem setCmds_cmds (s : State) (c : CtxId) (x : List Cmd) : (s.setCmds c x).cmds = insertAt s.cmds c.val x := rfl
@[simp] theorem setCmds_gangs (s : State) (c : CtxId) (x : List Cmd) : (s.setCmds c x).gangs = s.gangs := rfl
@[simp] theorem setCmds_chains (s : State) (c : CtxId) (x : List Cmd) : (s.setCmds c x).chains = s.chains := rfl
@[simp] theorem setCmds_regions (s : State) (c : CtxId) (x : List Cmd) : (s.setCmds c x).regions = s.regions := rfl
@[simp] theorem setCmds_roots (s : State) (c : CtxId) (x : List Cmd) : (s.setCmds c x).roots = s.roots := rfl
@[simp] theorem setCmds_queues (s : State) (c : CtxId) (x : List Cmd) : (s.setCmds c x).queues = s.queues := rfl
@[simp] theorem setCmds_parts (s : State) (c : CtxId) (x : List Cmd) : (s.setCmds c x).parts = s.parts := rfl
@[simp] theorem setCmds_funcs (s : State) (c : CtxId) (x : List Cmd) : (s.setCmds c x).funcs = s.funcs := rfl
@[simp] theorem setCmds_dies (s : State) (c : CtxId) (x : List Cmd) : (s.setCmds c x).dies = s.dies := rfl
@[simp] theorem setCmds_pkg (s : State) (c : CtxId) (x : List Cmd) : (s.setCmds c x).pkg = s.pkg := rfl
@[simp] theorem setCmds_packets (s : State) (c : CtxId) (x : List Cmd) : (s.setCmds c x).packets = s.packets := rfl
@[simp] theorem setCmds_timed (s : State) (c : CtxId) (x : List Cmd) : (s.setCmds c x).timed = s.timed := rfl
@[simp] theorem setCmds_iss (s : State) (c : CtxId) (x : List Cmd) : (s.setCmds c x).iss = s.iss := rfl
@[simp] theorem setCmds_agenda (s : State) (c : CtxId) (x : List Cmd) : (s.setCmds c x).agenda = s.agenda := rfl
@[simp] theorem setCmds_draws (s : State) (c : CtxId) (x : List Cmd) : (s.setCmds c x).draws = s.draws := rfl
@[simp] theorem setCmds_fresh (s : State) (c : CtxId) (x : List Cmd) : (s.setCmds c x).fresh = s.fresh := rfl

/-! ## bump -/

@[simp] theorem bump_tempo (s : State) : s.bump.tempo = s.tempo := rfl
@[simp] theorem bump_wall (s : State) : s.bump.wall = s.wall := rfl
@[simp] theorem bump_wallFs (s : State) : s.bump.wallFs = s.wallFs := rfl
@[simp] theorem bump_mem (s : State) : s.bump.mem = s.mem := rfl
@[simp] theorem bump_tags (s : State) : s.bump.tags = s.tags := rfl
@[simp] theorem bump_ctxs (s : State) : s.bump.ctxs = s.ctxs := rfl
@[simp] theorem bump_cores (s : State) : s.bump.cores = s.cores := rfl
@[simp] theorem bump_cmds (s : State) : s.bump.cmds = s.cmds := rfl
@[simp] theorem bump_gangs (s : State) : s.bump.gangs = s.gangs := rfl
@[simp] theorem bump_chains (s : State) : s.bump.chains = s.chains := rfl
@[simp] theorem bump_regions (s : State) : s.bump.regions = s.regions := rfl
@[simp] theorem bump_roots (s : State) : s.bump.roots = s.roots := rfl
@[simp] theorem bump_queues (s : State) : s.bump.queues = s.queues := rfl
@[simp] theorem bump_parts (s : State) : s.bump.parts = s.parts := rfl
@[simp] theorem bump_funcs (s : State) : s.bump.funcs = s.funcs := rfl
@[simp] theorem bump_dies (s : State) : s.bump.dies = s.dies := rfl
@[simp] theorem bump_pkg (s : State) : s.bump.pkg = s.pkg := rfl
@[simp] theorem bump_packets (s : State) : s.bump.packets = s.packets := rfl
@[simp] theorem bump_timed (s : State) : s.bump.timed = s.timed := rfl
@[simp] theorem bump_iss (s : State) : s.bump.iss = s.iss := rfl
@[simp] theorem bump_agenda (s : State) : s.bump.agenda = s.agenda := rfl
@[simp] theorem bump_draws (s : State) : s.bump.draws = s.draws := rfl
@[simp] theorem bump_fresh (s : State) : s.bump.fresh = s.fresh + 1 := rfl

/-! ## drawn -/

@[simp] theorem drawn_tempo (s : State) : s.drawn.tempo = s.tempo := rfl
@[simp] theorem drawn_wall (s : State) : s.drawn.wall = s.wall := rfl
@[simp] theorem drawn_wallFs (s : State) : s.drawn.wallFs = s.wallFs := rfl
@[simp] theorem drawn_mem (s : State) : s.drawn.mem = s.mem := rfl
@[simp] theorem drawn_tags (s : State) : s.drawn.tags = s.tags := rfl
@[simp] theorem drawn_ctxs (s : State) : s.drawn.ctxs = s.ctxs := rfl
@[simp] theorem drawn_cores (s : State) : s.drawn.cores = s.cores := rfl
@[simp] theorem drawn_cmds (s : State) : s.drawn.cmds = s.cmds := rfl
@[simp] theorem drawn_gangs (s : State) : s.drawn.gangs = s.gangs := rfl
@[simp] theorem drawn_chains (s : State) : s.drawn.chains = s.chains := rfl
@[simp] theorem drawn_regions (s : State) : s.drawn.regions = s.regions := rfl
@[simp] theorem drawn_roots (s : State) : s.drawn.roots = s.roots := rfl
@[simp] theorem drawn_queues (s : State) : s.drawn.queues = s.queues := rfl
@[simp] theorem drawn_parts (s : State) : s.drawn.parts = s.parts := rfl
@[simp] theorem drawn_funcs (s : State) : s.drawn.funcs = s.funcs := rfl
@[simp] theorem drawn_dies (s : State) : s.drawn.dies = s.dies := rfl
@[simp] theorem drawn_pkg (s : State) : s.drawn.pkg = s.pkg := rfl
@[simp] theorem drawn_packets (s : State) : s.drawn.packets = s.packets := rfl
@[simp] theorem drawn_timed (s : State) : s.drawn.timed = s.timed := rfl
@[simp] theorem drawn_iss (s : State) : s.drawn.iss = s.iss := rfl
@[simp] theorem drawn_agenda (s : State) : s.drawn.agenda = s.agenda := rfl
@[simp] theorem drawn_draws (s : State) : s.drawn.draws = s.draws + 1 := rfl
@[simp] theorem drawn_fresh (s : State) : s.drawn.fresh = s.fresh := rfl

/-! ## delayed -/

@[simp] theorem delayed_tempo (s : State) (k : Nat) : (s.delayed k).tempo = s.tempo := rfl
@[simp] theorem delayed_wall (s : State) (k : Nat) : (s.delayed k).wall = s.wall := rfl
@[simp] theorem delayed_wallFs (s : State) (k : Nat) : (s.delayed k).wallFs = s.wallFs := rfl
@[simp] theorem delayed_mem (s : State) (k : Nat) : (s.delayed k).mem = s.mem := rfl
@[simp] theorem delayed_tags (s : State) (k : Nat) : (s.delayed k).tags = s.tags := rfl
@[simp] theorem delayed_bad (s : State) (k : Nat) : (s.delayed k).bad = s.bad := rfl
@[simp] theorem delayed_ctxs (s : State) (k : Nat) : (s.delayed k).ctxs = s.ctxs := rfl
@[simp] theorem delayed_cores (s : State) (k : Nat) : (s.delayed k).cores = s.cores := rfl
@[simp] theorem delayed_cmds (s : State) (k : Nat) : (s.delayed k).cmds = s.cmds := rfl
@[simp] theorem delayed_gangs (s : State) (k : Nat) : (s.delayed k).gangs = s.gangs := rfl
@[simp] theorem delayed_chains (s : State) (k : Nat) : (s.delayed k).chains = s.chains := rfl
@[simp] theorem delayed_regions (s : State) (k : Nat) : (s.delayed k).regions = s.regions := rfl
@[simp] theorem delayed_roots (s : State) (k : Nat) : (s.delayed k).roots = s.roots := rfl
@[simp] theorem delayed_queues (s : State) (k : Nat) : (s.delayed k).queues = s.queues := rfl
@[simp] theorem delayed_parts (s : State) (k : Nat) : (s.delayed k).parts = s.parts := rfl
@[simp] theorem delayed_funcs (s : State) (k : Nat) : (s.delayed k).funcs = s.funcs := rfl
@[simp] theorem delayed_dies (s : State) (k : Nat) : (s.delayed k).dies = s.dies := rfl
@[simp] theorem delayed_pkg (s : State) (k : Nat) : (s.delayed k).pkg = s.pkg := rfl
@[simp] theorem delayed_packets (s : State) (k : Nat) : (s.delayed k).packets = s.packets := rfl
@[simp] theorem delayed_timed (s : State) (k : Nat) : (s.delayed k).timed = s.timed := rfl
@[simp] theorem delayed_iss (s : State) (k : Nat) : (s.delayed k).iss = s.iss := rfl
@[simp] theorem delayed_agenda (s : State) (k : Nat) : (s.delayed k).agenda = s.agenda := rfl
@[simp] theorem delayed_fresh (s : State) (k : Nat) : (s.delayed k).fresh = s.fresh := rfl
@[simp] theorem delayed_draws (s : State) (k : Nat) : (s.delayed k).draws = s.draws + 1 := rfl
@[simp] theorem delayed_lats (s : State) (k : Nat) : (s.delayed k).lats = insertAt s.lats k (lookupD 0 s.lats k + 1) := rfl

/-! ## Updates of one entry, landings and the agenda -/

@[simp] theorem mapCtx_tempo (s : State) (c : CtxId) (h : Ctx → Ctx) : (s.mapCtx c h).tempo = s.tempo := rfl
@[simp] theorem mapCtx_bad (s : State) (c : CtxId) (h : Ctx → Ctx) : (s.mapCtx c h).bad = s.bad := rfl
@[simp] theorem mapCtx_lats (s : State) (c : CtxId) (h : Ctx → Ctx) : (s.mapCtx c h).lats = s.lats := rfl
@[simp] theorem mapCtx_wall (s : State) (c : CtxId) (h : Ctx → Ctx) : (s.mapCtx c h).wall = s.wall := rfl
@[simp] theorem mapCtx_wallFs (s : State) (c : CtxId) (h : Ctx → Ctx) : (s.mapCtx c h).wallFs = s.wallFs := rfl
@[simp] theorem mapCtx_mem (s : State) (c : CtxId) (h : Ctx → Ctx) : (s.mapCtx c h).mem = s.mem := rfl
@[simp] theorem mapCtx_tags (s : State) (c : CtxId) (h : Ctx → Ctx) : (s.mapCtx c h).tags = s.tags := rfl
@[simp] theorem mapCtx_cores (s : State) (c : CtxId) (h : Ctx → Ctx) : (s.mapCtx c h).cores = s.cores := rfl
@[simp] theorem mapCtx_cmds (s : State) (c : CtxId) (h : Ctx → Ctx) : (s.mapCtx c h).cmds = s.cmds := rfl
@[simp] theorem mapCtx_gangs (s : State) (c : CtxId) (h : Ctx → Ctx) : (s.mapCtx c h).gangs = s.gangs := rfl
@[simp] theorem mapCtx_chains (s : State) (c : CtxId) (h : Ctx → Ctx) : (s.mapCtx c h).chains = s.chains := rfl
@[simp] theorem mapCtx_regions (s : State) (c : CtxId) (h : Ctx → Ctx) : (s.mapCtx c h).regions = s.regions := rfl
@[simp] theorem mapCtx_roots (s : State) (c : CtxId) (h : Ctx → Ctx) : (s.mapCtx c h).roots = s.roots := rfl
@[simp] theorem mapCtx_queues (s : State) (c : CtxId) (h : Ctx → Ctx) : (s.mapCtx c h).queues = s.queues := rfl
@[simp] theorem mapCtx_parts (s : State) (c : CtxId) (h : Ctx → Ctx) : (s.mapCtx c h).parts = s.parts := rfl
@[simp] theorem mapCtx_funcs (s : State) (c : CtxId) (h : Ctx → Ctx) : (s.mapCtx c h).funcs = s.funcs := rfl
@[simp] theorem mapCtx_dies (s : State) (c : CtxId) (h : Ctx → Ctx) : (s.mapCtx c h).dies = s.dies := rfl
@[simp] theorem mapCtx_pkg (s : State) (c : CtxId) (h : Ctx → Ctx) : (s.mapCtx c h).pkg = s.pkg := rfl
@[simp] theorem mapCtx_packets (s : State) (c : CtxId) (h : Ctx → Ctx) : (s.mapCtx c h).packets = s.packets := rfl
@[simp] theorem mapCtx_timed (s : State) (c : CtxId) (h : Ctx → Ctx) : (s.mapCtx c h).timed = s.timed := rfl
@[simp] theorem mapCtx_iss (s : State) (c : CtxId) (h : Ctx → Ctx) : (s.mapCtx c h).iss = s.iss := rfl
@[simp] theorem mapCtx_agenda (s : State) (c : CtxId) (h : Ctx → Ctx) : (s.mapCtx c h).agenda = s.agenda := rfl
@[simp] theorem mapCtx_draws (s : State) (c : CtxId) (h : Ctx → Ctx) : (s.mapCtx c h).draws = s.draws := rfl
@[simp] theorem mapCtx_fresh (s : State) (c : CtxId) (h : Ctx → Ctx) : (s.mapCtx c h).fresh = s.fresh := rfl

@[simp] theorem mapCore_tempo (s : State) (k : CoreId) (h : Core → Core) : (s.mapCore k h).tempo = s.tempo := rfl
@[simp] theorem mapCore_bad (s : State) (k : CoreId) (h : Core → Core) : (s.mapCore k h).bad = s.bad := rfl
@[simp] theorem mapCore_lats (s : State) (k : CoreId) (h : Core → Core) : (s.mapCore k h).lats = s.lats := rfl
@[simp] theorem mapCore_wall (s : State) (k : CoreId) (h : Core → Core) : (s.mapCore k h).wall = s.wall := rfl
@[simp] theorem mapCore_wallFs (s : State) (k : CoreId) (h : Core → Core) : (s.mapCore k h).wallFs = s.wallFs := rfl
@[simp] theorem mapCore_mem (s : State) (k : CoreId) (h : Core → Core) : (s.mapCore k h).mem = s.mem := rfl
@[simp] theorem mapCore_tags (s : State) (k : CoreId) (h : Core → Core) : (s.mapCore k h).tags = s.tags := rfl
@[simp] theorem mapCore_ctxs (s : State) (k : CoreId) (h : Core → Core) : (s.mapCore k h).ctxs = s.ctxs := rfl
@[simp] theorem mapCore_cmds (s : State) (k : CoreId) (h : Core → Core) : (s.mapCore k h).cmds = s.cmds := rfl
@[simp] theorem mapCore_gangs (s : State) (k : CoreId) (h : Core → Core) : (s.mapCore k h).gangs = s.gangs := rfl
@[simp] theorem mapCore_chains (s : State) (k : CoreId) (h : Core → Core) : (s.mapCore k h).chains = s.chains := rfl
@[simp] theorem mapCore_regions (s : State) (k : CoreId) (h : Core → Core) : (s.mapCore k h).regions = s.regions := rfl
@[simp] theorem mapCore_roots (s : State) (k : CoreId) (h : Core → Core) : (s.mapCore k h).roots = s.roots := rfl
@[simp] theorem mapCore_queues (s : State) (k : CoreId) (h : Core → Core) : (s.mapCore k h).queues = s.queues := rfl
@[simp] theorem mapCore_parts (s : State) (k : CoreId) (h : Core → Core) : (s.mapCore k h).parts = s.parts := rfl
@[simp] theorem mapCore_funcs (s : State) (k : CoreId) (h : Core → Core) : (s.mapCore k h).funcs = s.funcs := rfl
@[simp] theorem mapCore_dies (s : State) (k : CoreId) (h : Core → Core) : (s.mapCore k h).dies = s.dies := rfl
@[simp] theorem mapCore_pkg (s : State) (k : CoreId) (h : Core → Core) : (s.mapCore k h).pkg = s.pkg := rfl
@[simp] theorem mapCore_packets (s : State) (k : CoreId) (h : Core → Core) : (s.mapCore k h).packets = s.packets := rfl
@[simp] theorem mapCore_timed (s : State) (k : CoreId) (h : Core → Core) : (s.mapCore k h).timed = s.timed := rfl
@[simp] theorem mapCore_iss (s : State) (k : CoreId) (h : Core → Core) : (s.mapCore k h).iss = s.iss := rfl
@[simp] theorem mapCore_agenda (s : State) (k : CoreId) (h : Core → Core) : (s.mapCore k h).agenda = s.agenda := rfl
@[simp] theorem mapCore_draws (s : State) (k : CoreId) (h : Core → Core) : (s.mapCore k h).draws = s.draws := rfl
@[simp] theorem mapCore_fresh (s : State) (k : CoreId) (h : Core → Core) : (s.mapCore k h).fresh = s.fresh := rfl

@[simp] theorem mapPart_tempo (s : State) (p : PartId) (h : Part → Part) : (s.mapPart p h).tempo = s.tempo := rfl
@[simp] theorem mapPart_bad (s : State) (p : PartId) (h : Part → Part) : (s.mapPart p h).bad = s.bad := rfl
@[simp] theorem mapPart_lats (s : State) (p : PartId) (h : Part → Part) : (s.mapPart p h).lats = s.lats := rfl
@[simp] theorem mapPart_wall (s : State) (p : PartId) (h : Part → Part) : (s.mapPart p h).wall = s.wall := rfl
@[simp] theorem mapPart_wallFs (s : State) (p : PartId) (h : Part → Part) : (s.mapPart p h).wallFs = s.wallFs := rfl
@[simp] theorem mapPart_mem (s : State) (p : PartId) (h : Part → Part) : (s.mapPart p h).mem = s.mem := rfl
@[simp] theorem mapPart_tags (s : State) (p : PartId) (h : Part → Part) : (s.mapPart p h).tags = s.tags := rfl
@[simp] theorem mapPart_ctxs (s : State) (p : PartId) (h : Part → Part) : (s.mapPart p h).ctxs = s.ctxs := rfl
@[simp] theorem mapPart_cores (s : State) (p : PartId) (h : Part → Part) : (s.mapPart p h).cores = s.cores := rfl
@[simp] theorem mapPart_cmds (s : State) (p : PartId) (h : Part → Part) : (s.mapPart p h).cmds = s.cmds := rfl
@[simp] theorem mapPart_gangs (s : State) (p : PartId) (h : Part → Part) : (s.mapPart p h).gangs = s.gangs := rfl
@[simp] theorem mapPart_chains (s : State) (p : PartId) (h : Part → Part) : (s.mapPart p h).chains = s.chains := rfl
@[simp] theorem mapPart_regions (s : State) (p : PartId) (h : Part → Part) : (s.mapPart p h).regions = s.regions := rfl
@[simp] theorem mapPart_roots (s : State) (p : PartId) (h : Part → Part) : (s.mapPart p h).roots = s.roots := rfl
@[simp] theorem mapPart_queues (s : State) (p : PartId) (h : Part → Part) : (s.mapPart p h).queues = s.queues := rfl
@[simp] theorem mapPart_funcs (s : State) (p : PartId) (h : Part → Part) : (s.mapPart p h).funcs = s.funcs := rfl
@[simp] theorem mapPart_dies (s : State) (p : PartId) (h : Part → Part) : (s.mapPart p h).dies = s.dies := rfl
@[simp] theorem mapPart_pkg (s : State) (p : PartId) (h : Part → Part) : (s.mapPart p h).pkg = s.pkg := rfl
@[simp] theorem mapPart_packets (s : State) (p : PartId) (h : Part → Part) : (s.mapPart p h).packets = s.packets := rfl
@[simp] theorem mapPart_timed (s : State) (p : PartId) (h : Part → Part) : (s.mapPart p h).timed = s.timed := rfl
@[simp] theorem mapPart_iss (s : State) (p : PartId) (h : Part → Part) : (s.mapPart p h).iss = s.iss := rfl
@[simp] theorem mapPart_agenda (s : State) (p : PartId) (h : Part → Part) : (s.mapPart p h).agenda = s.agenda := rfl
@[simp] theorem mapPart_draws (s : State) (p : PartId) (h : Part → Part) : (s.mapPart p h).draws = s.draws := rfl
@[simp] theorem mapPart_fresh (s : State) (p : PartId) (h : Part → Part) : (s.mapPart p h).fresh = s.fresh := rfl

@[simp] theorem mapQueue_tempo (s : State) (q : QueueId) (h : Queue → Queue) : (s.mapQueue q h).tempo = s.tempo := rfl
@[simp] theorem mapQueue_bad (s : State) (q : QueueId) (h : Queue → Queue) : (s.mapQueue q h).bad = s.bad := rfl
@[simp] theorem mapQueue_lats (s : State) (q : QueueId) (h : Queue → Queue) : (s.mapQueue q h).lats = s.lats := rfl
@[simp] theorem mapQueue_wall (s : State) (q : QueueId) (h : Queue → Queue) : (s.mapQueue q h).wall = s.wall := rfl
@[simp] theorem mapQueue_wallFs (s : State) (q : QueueId) (h : Queue → Queue) : (s.mapQueue q h).wallFs = s.wallFs := rfl
@[simp] theorem mapQueue_mem (s : State) (q : QueueId) (h : Queue → Queue) : (s.mapQueue q h).mem = s.mem := rfl
@[simp] theorem mapQueue_tags (s : State) (q : QueueId) (h : Queue → Queue) : (s.mapQueue q h).tags = s.tags := rfl
@[simp] theorem mapQueue_ctxs (s : State) (q : QueueId) (h : Queue → Queue) : (s.mapQueue q h).ctxs = s.ctxs := rfl
@[simp] theorem mapQueue_cores (s : State) (q : QueueId) (h : Queue → Queue) : (s.mapQueue q h).cores = s.cores := rfl
@[simp] theorem mapQueue_cmds (s : State) (q : QueueId) (h : Queue → Queue) : (s.mapQueue q h).cmds = s.cmds := rfl
@[simp] theorem mapQueue_gangs (s : State) (q : QueueId) (h : Queue → Queue) : (s.mapQueue q h).gangs = s.gangs := rfl
@[simp] theorem mapQueue_chains (s : State) (q : QueueId) (h : Queue → Queue) : (s.mapQueue q h).chains = s.chains := rfl
@[simp] theorem mapQueue_regions (s : State) (q : QueueId) (h : Queue → Queue) : (s.mapQueue q h).regions = s.regions := rfl
@[simp] theorem mapQueue_roots (s : State) (q : QueueId) (h : Queue → Queue) : (s.mapQueue q h).roots = s.roots := rfl
@[simp] theorem mapQueue_parts (s : State) (q : QueueId) (h : Queue → Queue) : (s.mapQueue q h).parts = s.parts := rfl
@[simp] theorem mapQueue_funcs (s : State) (q : QueueId) (h : Queue → Queue) : (s.mapQueue q h).funcs = s.funcs := rfl
@[simp] theorem mapQueue_dies (s : State) (q : QueueId) (h : Queue → Queue) : (s.mapQueue q h).dies = s.dies := rfl
@[simp] theorem mapQueue_pkg (s : State) (q : QueueId) (h : Queue → Queue) : (s.mapQueue q h).pkg = s.pkg := rfl
@[simp] theorem mapQueue_packets (s : State) (q : QueueId) (h : Queue → Queue) : (s.mapQueue q h).packets = s.packets := rfl
@[simp] theorem mapQueue_timed (s : State) (q : QueueId) (h : Queue → Queue) : (s.mapQueue q h).timed = s.timed := rfl
@[simp] theorem mapQueue_iss (s : State) (q : QueueId) (h : Queue → Queue) : (s.mapQueue q h).iss = s.iss := rfl
@[simp] theorem mapQueue_agenda (s : State) (q : QueueId) (h : Queue → Queue) : (s.mapQueue q h).agenda = s.agenda := rfl
@[simp] theorem mapQueue_draws (s : State) (q : QueueId) (h : Queue → Queue) : (s.mapQueue q h).draws = s.draws := rfl
@[simp] theorem mapQueue_fresh (s : State) (q : QueueId) (h : Queue → Queue) : (s.mapQueue q h).fresh = s.fresh := rfl

@[simp] theorem mapFunc_tempo (s : State) (f : FuncId) (h : Func → Func) : (s.mapFunc f h).tempo = s.tempo := rfl
@[simp] theorem mapFunc_bad (s : State) (f : FuncId) (h : Func → Func) : (s.mapFunc f h).bad = s.bad := rfl
@[simp] theorem mapFunc_lats (s : State) (f : FuncId) (h : Func → Func) : (s.mapFunc f h).lats = s.lats := rfl
@[simp] theorem mapFunc_wall (s : State) (f : FuncId) (h : Func → Func) : (s.mapFunc f h).wall = s.wall := rfl
@[simp] theorem mapFunc_wallFs (s : State) (f : FuncId) (h : Func → Func) : (s.mapFunc f h).wallFs = s.wallFs := rfl
@[simp] theorem mapFunc_mem (s : State) (f : FuncId) (h : Func → Func) : (s.mapFunc f h).mem = s.mem := rfl
@[simp] theorem mapFunc_tags (s : State) (f : FuncId) (h : Func → Func) : (s.mapFunc f h).tags = s.tags := rfl
@[simp] theorem mapFunc_ctxs (s : State) (f : FuncId) (h : Func → Func) : (s.mapFunc f h).ctxs = s.ctxs := rfl
@[simp] theorem mapFunc_cores (s : State) (f : FuncId) (h : Func → Func) : (s.mapFunc f h).cores = s.cores := rfl
@[simp] theorem mapFunc_cmds (s : State) (f : FuncId) (h : Func → Func) : (s.mapFunc f h).cmds = s.cmds := rfl
@[simp] theorem mapFunc_gangs (s : State) (f : FuncId) (h : Func → Func) : (s.mapFunc f h).gangs = s.gangs := rfl
@[simp] theorem mapFunc_chains (s : State) (f : FuncId) (h : Func → Func) : (s.mapFunc f h).chains = s.chains := rfl
@[simp] theorem mapFunc_regions (s : State) (f : FuncId) (h : Func → Func) : (s.mapFunc f h).regions = s.regions := rfl
@[simp] theorem mapFunc_roots (s : State) (f : FuncId) (h : Func → Func) : (s.mapFunc f h).roots = s.roots := rfl
@[simp] theorem mapFunc_queues (s : State) (f : FuncId) (h : Func → Func) : (s.mapFunc f h).queues = s.queues := rfl
@[simp] theorem mapFunc_parts (s : State) (f : FuncId) (h : Func → Func) : (s.mapFunc f h).parts = s.parts := rfl
@[simp] theorem mapFunc_dies (s : State) (f : FuncId) (h : Func → Func) : (s.mapFunc f h).dies = s.dies := rfl
@[simp] theorem mapFunc_pkg (s : State) (f : FuncId) (h : Func → Func) : (s.mapFunc f h).pkg = s.pkg := rfl
@[simp] theorem mapFunc_packets (s : State) (f : FuncId) (h : Func → Func) : (s.mapFunc f h).packets = s.packets := rfl
@[simp] theorem mapFunc_timed (s : State) (f : FuncId) (h : Func → Func) : (s.mapFunc f h).timed = s.timed := rfl
@[simp] theorem mapFunc_iss (s : State) (f : FuncId) (h : Func → Func) : (s.mapFunc f h).iss = s.iss := rfl
@[simp] theorem mapFunc_agenda (s : State) (f : FuncId) (h : Func → Func) : (s.mapFunc f h).agenda = s.agenda := rfl
@[simp] theorem mapFunc_draws (s : State) (f : FuncId) (h : Func → Func) : (s.mapFunc f h).draws = s.draws := rfl
@[simp] theorem mapFunc_fresh (s : State) (f : FuncId) (h : Func → Func) : (s.mapFunc f h).fresh = s.fresh := rfl

@[simp] theorem mapDie_tempo (s : State) (d : DieId) (h : Die → Die) : (s.mapDie d h).tempo = s.tempo := rfl
@[simp] theorem mapDie_bad (s : State) (d : DieId) (h : Die → Die) : (s.mapDie d h).bad = s.bad := rfl
@[simp] theorem mapDie_lats (s : State) (d : DieId) (h : Die → Die) : (s.mapDie d h).lats = s.lats := rfl
@[simp] theorem mapDie_wall (s : State) (d : DieId) (h : Die → Die) : (s.mapDie d h).wall = s.wall := rfl
@[simp] theorem mapDie_wallFs (s : State) (d : DieId) (h : Die → Die) : (s.mapDie d h).wallFs = s.wallFs := rfl
@[simp] theorem mapDie_mem (s : State) (d : DieId) (h : Die → Die) : (s.mapDie d h).mem = s.mem := rfl
@[simp] theorem mapDie_tags (s : State) (d : DieId) (h : Die → Die) : (s.mapDie d h).tags = s.tags := rfl
@[simp] theorem mapDie_ctxs (s : State) (d : DieId) (h : Die → Die) : (s.mapDie d h).ctxs = s.ctxs := rfl
@[simp] theorem mapDie_cores (s : State) (d : DieId) (h : Die → Die) : (s.mapDie d h).cores = s.cores := rfl
@[simp] theorem mapDie_cmds (s : State) (d : DieId) (h : Die → Die) : (s.mapDie d h).cmds = s.cmds := rfl
@[simp] theorem mapDie_gangs (s : State) (d : DieId) (h : Die → Die) : (s.mapDie d h).gangs = s.gangs := rfl
@[simp] theorem mapDie_chains (s : State) (d : DieId) (h : Die → Die) : (s.mapDie d h).chains = s.chains := rfl
@[simp] theorem mapDie_regions (s : State) (d : DieId) (h : Die → Die) : (s.mapDie d h).regions = s.regions := rfl
@[simp] theorem mapDie_roots (s : State) (d : DieId) (h : Die → Die) : (s.mapDie d h).roots = s.roots := rfl
@[simp] theorem mapDie_queues (s : State) (d : DieId) (h : Die → Die) : (s.mapDie d h).queues = s.queues := rfl
@[simp] theorem mapDie_parts (s : State) (d : DieId) (h : Die → Die) : (s.mapDie d h).parts = s.parts := rfl
@[simp] theorem mapDie_funcs (s : State) (d : DieId) (h : Die → Die) : (s.mapDie d h).funcs = s.funcs := rfl
@[simp] theorem mapDie_pkg (s : State) (d : DieId) (h : Die → Die) : (s.mapDie d h).pkg = s.pkg := rfl
@[simp] theorem mapDie_packets (s : State) (d : DieId) (h : Die → Die) : (s.mapDie d h).packets = s.packets := rfl
@[simp] theorem mapDie_timed (s : State) (d : DieId) (h : Die → Die) : (s.mapDie d h).timed = s.timed := rfl
@[simp] theorem mapDie_iss (s : State) (d : DieId) (h : Die → Die) : (s.mapDie d h).iss = s.iss := rfl
@[simp] theorem mapDie_agenda (s : State) (d : DieId) (h : Die → Die) : (s.mapDie d h).agenda = s.agenda := rfl
@[simp] theorem mapDie_draws (s : State) (d : DieId) (h : Die → Die) : (s.mapDie d h).draws = s.draws := rfl
@[simp] theorem mapDie_fresh (s : State) (d : DieId) (h : Die → Die) : (s.mapDie d h).fresh = s.fresh := rfl

@[simp] theorem mapGang_tempo (s : State) (g : Nat) (h : Gang → Gang) : (s.mapGang g h).tempo = s.tempo := by
  unfold State.mapGang; split <;> rfl
@[simp] theorem mapGang_bad (s : State) (g : Nat) (h : Gang → Gang) : (s.mapGang g h).bad = s.bad := by
  unfold State.mapGang; split <;> rfl
@[simp] theorem mapGang_lats (s : State) (g : Nat) (h : Gang → Gang) : (s.mapGang g h).lats = s.lats := by
  unfold State.mapGang; split <;> rfl
@[simp] theorem mapGang_wall (s : State) (g : Nat) (h : Gang → Gang) : (s.mapGang g h).wall = s.wall := by
  unfold State.mapGang; split <;> rfl
@[simp] theorem mapGang_wallFs (s : State) (g : Nat) (h : Gang → Gang) : (s.mapGang g h).wallFs = s.wallFs := by
  unfold State.mapGang; split <;> rfl
@[simp] theorem mapGang_mem (s : State) (g : Nat) (h : Gang → Gang) : (s.mapGang g h).mem = s.mem := by
  unfold State.mapGang; split <;> rfl
@[simp] theorem mapGang_tags (s : State) (g : Nat) (h : Gang → Gang) : (s.mapGang g h).tags = s.tags := by
  unfold State.mapGang; split <;> rfl
@[simp] theorem mapGang_ctxs (s : State) (g : Nat) (h : Gang → Gang) : (s.mapGang g h).ctxs = s.ctxs := by
  unfold State.mapGang; split <;> rfl
@[simp] theorem mapGang_cores (s : State) (g : Nat) (h : Gang → Gang) : (s.mapGang g h).cores = s.cores := by
  unfold State.mapGang; split <;> rfl
@[simp] theorem mapGang_cmds (s : State) (g : Nat) (h : Gang → Gang) : (s.mapGang g h).cmds = s.cmds := by
  unfold State.mapGang; split <;> rfl
@[simp] theorem mapGang_chains (s : State) (g : Nat) (h : Gang → Gang) : (s.mapGang g h).chains = s.chains := by
  unfold State.mapGang; split <;> rfl
@[simp] theorem mapGang_regions (s : State) (g : Nat) (h : Gang → Gang) : (s.mapGang g h).regions = s.regions := by
  unfold State.mapGang; split <;> rfl
@[simp] theorem mapGang_roots (s : State) (g : Nat) (h : Gang → Gang) : (s.mapGang g h).roots = s.roots := by
  unfold State.mapGang; split <;> rfl
@[simp] theorem mapGang_queues (s : State) (g : Nat) (h : Gang → Gang) : (s.mapGang g h).queues = s.queues := by
  unfold State.mapGang; split <;> rfl
@[simp] theorem mapGang_parts (s : State) (g : Nat) (h : Gang → Gang) : (s.mapGang g h).parts = s.parts := by
  unfold State.mapGang; split <;> rfl
@[simp] theorem mapGang_funcs (s : State) (g : Nat) (h : Gang → Gang) : (s.mapGang g h).funcs = s.funcs := by
  unfold State.mapGang; split <;> rfl
@[simp] theorem mapGang_dies (s : State) (g : Nat) (h : Gang → Gang) : (s.mapGang g h).dies = s.dies := by
  unfold State.mapGang; split <;> rfl
@[simp] theorem mapGang_pkg (s : State) (g : Nat) (h : Gang → Gang) : (s.mapGang g h).pkg = s.pkg := by
  unfold State.mapGang; split <;> rfl
@[simp] theorem mapGang_packets (s : State) (g : Nat) (h : Gang → Gang) : (s.mapGang g h).packets = s.packets := by
  unfold State.mapGang; split <;> rfl
@[simp] theorem mapGang_timed (s : State) (g : Nat) (h : Gang → Gang) : (s.mapGang g h).timed = s.timed := by
  unfold State.mapGang; split <;> rfl
@[simp] theorem mapGang_iss (s : State) (g : Nat) (h : Gang → Gang) : (s.mapGang g h).iss = s.iss := by
  unfold State.mapGang; split <;> rfl
@[simp] theorem mapGang_agenda (s : State) (g : Nat) (h : Gang → Gang) : (s.mapGang g h).agenda = s.agenda := by
  unfold State.mapGang; split <;> rfl
@[simp] theorem mapGang_draws (s : State) (g : Nat) (h : Gang → Gang) : (s.mapGang g h).draws = s.draws := by
  unfold State.mapGang; split <;> rfl
@[simp] theorem mapGang_fresh (s : State) (g : Nat) (h : Gang → Gang) : (s.mapGang g h).fresh = s.fresh := by
  unfold State.mapGang; split <;> rfl

@[simp] theorem mapRegion_tempo (s : State) (r : Nat) (h : Region → Region) : (s.mapRegion r h).tempo = s.tempo := by
  unfold State.mapRegion; split <;> rfl
@[simp] theorem mapRegion_bad (s : State) (r : Nat) (h : Region → Region) : (s.mapRegion r h).bad = s.bad := by
  unfold State.mapRegion; split <;> rfl
@[simp] theorem mapRegion_lats (s : State) (r : Nat) (h : Region → Region) : (s.mapRegion r h).lats = s.lats := by
  unfold State.mapRegion; split <;> rfl
@[simp] theorem mapRegion_wall (s : State) (r : Nat) (h : Region → Region) : (s.mapRegion r h).wall = s.wall := by
  unfold State.mapRegion; split <;> rfl
@[simp] theorem mapRegion_wallFs (s : State) (r : Nat) (h : Region → Region) : (s.mapRegion r h).wallFs = s.wallFs := by
  unfold State.mapRegion; split <;> rfl
@[simp] theorem mapRegion_mem (s : State) (r : Nat) (h : Region → Region) : (s.mapRegion r h).mem = s.mem := by
  unfold State.mapRegion; split <;> rfl
@[simp] theorem mapRegion_tags (s : State) (r : Nat) (h : Region → Region) : (s.mapRegion r h).tags = s.tags := by
  unfold State.mapRegion; split <;> rfl
@[simp] theorem mapRegion_ctxs (s : State) (r : Nat) (h : Region → Region) : (s.mapRegion r h).ctxs = s.ctxs := by
  unfold State.mapRegion; split <;> rfl
@[simp] theorem mapRegion_cores (s : State) (r : Nat) (h : Region → Region) : (s.mapRegion r h).cores = s.cores := by
  unfold State.mapRegion; split <;> rfl
@[simp] theorem mapRegion_cmds (s : State) (r : Nat) (h : Region → Region) : (s.mapRegion r h).cmds = s.cmds := by
  unfold State.mapRegion; split <;> rfl
@[simp] theorem mapRegion_gangs (s : State) (r : Nat) (h : Region → Region) : (s.mapRegion r h).gangs = s.gangs := by
  unfold State.mapRegion; split <;> rfl
@[simp] theorem mapRegion_chains (s : State) (r : Nat) (h : Region → Region) : (s.mapRegion r h).chains = s.chains := by
  unfold State.mapRegion; split <;> rfl
@[simp] theorem mapRegion_roots (s : State) (r : Nat) (h : Region → Region) : (s.mapRegion r h).roots = s.roots := by
  unfold State.mapRegion; split <;> rfl
@[simp] theorem mapRegion_queues (s : State) (r : Nat) (h : Region → Region) : (s.mapRegion r h).queues = s.queues := by
  unfold State.mapRegion; split <;> rfl
@[simp] theorem mapRegion_parts (s : State) (r : Nat) (h : Region → Region) : (s.mapRegion r h).parts = s.parts := by
  unfold State.mapRegion; split <;> rfl
@[simp] theorem mapRegion_funcs (s : State) (r : Nat) (h : Region → Region) : (s.mapRegion r h).funcs = s.funcs := by
  unfold State.mapRegion; split <;> rfl
@[simp] theorem mapRegion_dies (s : State) (r : Nat) (h : Region → Region) : (s.mapRegion r h).dies = s.dies := by
  unfold State.mapRegion; split <;> rfl
@[simp] theorem mapRegion_pkg (s : State) (r : Nat) (h : Region → Region) : (s.mapRegion r h).pkg = s.pkg := by
  unfold State.mapRegion; split <;> rfl
@[simp] theorem mapRegion_packets (s : State) (r : Nat) (h : Region → Region) : (s.mapRegion r h).packets = s.packets := by
  unfold State.mapRegion; split <;> rfl
@[simp] theorem mapRegion_timed (s : State) (r : Nat) (h : Region → Region) : (s.mapRegion r h).timed = s.timed := by
  unfold State.mapRegion; split <;> rfl
@[simp] theorem mapRegion_iss (s : State) (r : Nat) (h : Region → Region) : (s.mapRegion r h).iss = s.iss := by
  unfold State.mapRegion; split <;> rfl
@[simp] theorem mapRegion_agenda (s : State) (r : Nat) (h : Region → Region) : (s.mapRegion r h).agenda = s.agenda := by
  unfold State.mapRegion; split <;> rfl
@[simp] theorem mapRegion_draws (s : State) (r : Nat) (h : Region → Region) : (s.mapRegion r h).draws = s.draws := by
  unfold State.mapRegion; split <;> rfl
@[simp] theorem mapRegion_fresh (s : State) (r : Nat) (h : Region → Region) : (s.mapRegion r h).fresh = s.fresh := by
  unfold State.mapRegion; split <;> rfl

@[simp] theorem mapChain_tempo (s : State) (u : Nat) (h : Chain → Chain) : (s.mapChain u h).tempo = s.tempo := by
  unfold State.mapChain; split <;> rfl
@[simp] theorem mapChain_bad (s : State) (u : Nat) (h : Chain → Chain) : (s.mapChain u h).bad = s.bad := by
  unfold State.mapChain; split <;> rfl
@[simp] theorem mapChain_lats (s : State) (u : Nat) (h : Chain → Chain) : (s.mapChain u h).lats = s.lats := by
  unfold State.mapChain; split <;> rfl
@[simp] theorem mapChain_wall (s : State) (u : Nat) (h : Chain → Chain) : (s.mapChain u h).wall = s.wall := by
  unfold State.mapChain; split <;> rfl
@[simp] theorem mapChain_wallFs (s : State) (u : Nat) (h : Chain → Chain) : (s.mapChain u h).wallFs = s.wallFs := by
  unfold State.mapChain; split <;> rfl
@[simp] theorem mapChain_mem (s : State) (u : Nat) (h : Chain → Chain) : (s.mapChain u h).mem = s.mem := by
  unfold State.mapChain; split <;> rfl
@[simp] theorem mapChain_tags (s : State) (u : Nat) (h : Chain → Chain) : (s.mapChain u h).tags = s.tags := by
  unfold State.mapChain; split <;> rfl
@[simp] theorem mapChain_ctxs (s : State) (u : Nat) (h : Chain → Chain) : (s.mapChain u h).ctxs = s.ctxs := by
  unfold State.mapChain; split <;> rfl
@[simp] theorem mapChain_cores (s : State) (u : Nat) (h : Chain → Chain) : (s.mapChain u h).cores = s.cores := by
  unfold State.mapChain; split <;> rfl
@[simp] theorem mapChain_cmds (s : State) (u : Nat) (h : Chain → Chain) : (s.mapChain u h).cmds = s.cmds := by
  unfold State.mapChain; split <;> rfl
@[simp] theorem mapChain_gangs (s : State) (u : Nat) (h : Chain → Chain) : (s.mapChain u h).gangs = s.gangs := by
  unfold State.mapChain; split <;> rfl
@[simp] theorem mapChain_regions (s : State) (u : Nat) (h : Chain → Chain) : (s.mapChain u h).regions = s.regions := by
  unfold State.mapChain; split <;> rfl
@[simp] theorem mapChain_roots (s : State) (u : Nat) (h : Chain → Chain) : (s.mapChain u h).roots = s.roots := by
  unfold State.mapChain; split <;> rfl
@[simp] theorem mapChain_queues (s : State) (u : Nat) (h : Chain → Chain) : (s.mapChain u h).queues = s.queues := by
  unfold State.mapChain; split <;> rfl
@[simp] theorem mapChain_parts (s : State) (u : Nat) (h : Chain → Chain) : (s.mapChain u h).parts = s.parts := by
  unfold State.mapChain; split <;> rfl
@[simp] theorem mapChain_funcs (s : State) (u : Nat) (h : Chain → Chain) : (s.mapChain u h).funcs = s.funcs := by
  unfold State.mapChain; split <;> rfl
@[simp] theorem mapChain_dies (s : State) (u : Nat) (h : Chain → Chain) : (s.mapChain u h).dies = s.dies := by
  unfold State.mapChain; split <;> rfl
@[simp] theorem mapChain_pkg (s : State) (u : Nat) (h : Chain → Chain) : (s.mapChain u h).pkg = s.pkg := by
  unfold State.mapChain; split <;> rfl
@[simp] theorem mapChain_packets (s : State) (u : Nat) (h : Chain → Chain) : (s.mapChain u h).packets = s.packets := by
  unfold State.mapChain; split <;> rfl
@[simp] theorem mapChain_timed (s : State) (u : Nat) (h : Chain → Chain) : (s.mapChain u h).timed = s.timed := by
  unfold State.mapChain; split <;> rfl
@[simp] theorem mapChain_iss (s : State) (u : Nat) (h : Chain → Chain) : (s.mapChain u h).iss = s.iss := by
  unfold State.mapChain; split <;> rfl
@[simp] theorem mapChain_agenda (s : State) (u : Nat) (h : Chain → Chain) : (s.mapChain u h).agenda = s.agenda := by
  unfold State.mapChain; split <;> rfl
@[simp] theorem mapChain_draws (s : State) (u : Nat) (h : Chain → Chain) : (s.mapChain u h).draws = s.draws := by
  unfold State.mapChain; split <;> rfl
@[simp] theorem mapChain_fresh (s : State) (u : Nat) (h : Chain → Chain) : (s.mapChain u h).fresh = s.fresh := by
  unfold State.mapChain; split <;> rfl

@[simp] theorem land_tempo (s : State) (lat : Nat) (w : LandWhat) : (s.land lat w).tempo = s.tempo := rfl
@[simp] theorem land_bad (s : State) (lat : Nat) (w : LandWhat) : (s.land lat w).bad = s.bad := rfl
@[simp] theorem land_lats (s : State) (lat : Nat) (w : LandWhat) : (s.land lat w).lats = s.lats := rfl
@[simp] theorem land_wall (s : State) (lat : Nat) (w : LandWhat) : (s.land lat w).wall = s.wall := rfl
@[simp] theorem land_wallFs (s : State) (lat : Nat) (w : LandWhat) : (s.land lat w).wallFs = s.wallFs := rfl
@[simp] theorem land_mem (s : State) (lat : Nat) (w : LandWhat) : (s.land lat w).mem = s.mem := rfl
@[simp] theorem land_tags (s : State) (lat : Nat) (w : LandWhat) : (s.land lat w).tags = s.tags := rfl
@[simp] theorem land_cores (s : State) (lat : Nat) (w : LandWhat) : (s.land lat w).cores = s.cores := rfl
@[simp] theorem land_cmds (s : State) (lat : Nat) (w : LandWhat) : (s.land lat w).cmds = s.cmds := rfl
@[simp] theorem land_gangs (s : State) (lat : Nat) (w : LandWhat) : (s.land lat w).gangs = s.gangs := rfl
@[simp] theorem land_chains (s : State) (lat : Nat) (w : LandWhat) : (s.land lat w).chains = s.chains := rfl
@[simp] theorem land_regions (s : State) (lat : Nat) (w : LandWhat) : (s.land lat w).regions = s.regions := rfl
@[simp] theorem land_roots (s : State) (lat : Nat) (w : LandWhat) : (s.land lat w).roots = s.roots := rfl
@[simp] theorem land_queues (s : State) (lat : Nat) (w : LandWhat) : (s.land lat w).queues = s.queues := rfl
@[simp] theorem land_parts (s : State) (lat : Nat) (w : LandWhat) : (s.land lat w).parts = s.parts := rfl
@[simp] theorem land_funcs (s : State) (lat : Nat) (w : LandWhat) : (s.land lat w).funcs = s.funcs := rfl
@[simp] theorem land_dies (s : State) (lat : Nat) (w : LandWhat) : (s.land lat w).dies = s.dies := rfl
@[simp] theorem land_pkg (s : State) (lat : Nat) (w : LandWhat) : (s.land lat w).pkg = s.pkg := rfl
@[simp] theorem land_packets (s : State) (lat : Nat) (w : LandWhat) : (s.land lat w).packets = s.packets := rfl
@[simp] theorem land_timed (s : State) (lat : Nat) (w : LandWhat) : (s.land lat w).timed = s.timed := rfl
@[simp] theorem land_iss (s : State) (lat : Nat) (w : LandWhat) : (s.land lat w).iss = s.iss := rfl
@[simp] theorem land_agenda (s : State) (lat : Nat) (w : LandWhat) : (s.land lat w).agenda = s.agenda := rfl
@[simp] theorem land_draws (s : State) (lat : Nat) (w : LandWhat) : (s.land lat w).draws = s.draws := rfl
@[simp] theorem land_fresh (s : State) (lat : Nat) (w : LandWhat) : (s.land lat w).fresh = s.fresh := rfl

@[simp] theorem after_tempo (s : State) (n : Nat) (i : Instr) : (s.after n i).tempo = s.tempo := rfl
@[simp] theorem after_bad (s : State) (n : Nat) (i : Instr) : (s.after n i).bad = s.bad := rfl
@[simp] theorem after_lats (s : State) (n : Nat) (i : Instr) : (s.after n i).lats = s.lats := rfl
@[simp] theorem after_wall (s : State) (n : Nat) (i : Instr) : (s.after n i).wall = s.wall := rfl
@[simp] theorem after_wallFs (s : State) (n : Nat) (i : Instr) : (s.after n i).wallFs = s.wallFs := rfl
@[simp] theorem after_mem (s : State) (n : Nat) (i : Instr) : (s.after n i).mem = s.mem := rfl
@[simp] theorem after_tags (s : State) (n : Nat) (i : Instr) : (s.after n i).tags = s.tags := rfl
@[simp] theorem after_ctxs (s : State) (n : Nat) (i : Instr) : (s.after n i).ctxs = s.ctxs := rfl
@[simp] theorem after_cores (s : State) (n : Nat) (i : Instr) : (s.after n i).cores = s.cores := rfl
@[simp] theorem after_cmds (s : State) (n : Nat) (i : Instr) : (s.after n i).cmds = s.cmds := rfl
@[simp] theorem after_gangs (s : State) (n : Nat) (i : Instr) : (s.after n i).gangs = s.gangs := rfl
@[simp] theorem after_chains (s : State) (n : Nat) (i : Instr) : (s.after n i).chains = s.chains := rfl
@[simp] theorem after_regions (s : State) (n : Nat) (i : Instr) : (s.after n i).regions = s.regions := rfl
@[simp] theorem after_roots (s : State) (n : Nat) (i : Instr) : (s.after n i).roots = s.roots := rfl
@[simp] theorem after_queues (s : State) (n : Nat) (i : Instr) : (s.after n i).queues = s.queues := rfl
@[simp] theorem after_parts (s : State) (n : Nat) (i : Instr) : (s.after n i).parts = s.parts := rfl
@[simp] theorem after_funcs (s : State) (n : Nat) (i : Instr) : (s.after n i).funcs = s.funcs := rfl
@[simp] theorem after_dies (s : State) (n : Nat) (i : Instr) : (s.after n i).dies = s.dies := rfl
@[simp] theorem after_pkg (s : State) (n : Nat) (i : Instr) : (s.after n i).pkg = s.pkg := rfl
@[simp] theorem after_packets (s : State) (n : Nat) (i : Instr) : (s.after n i).packets = s.packets := rfl
@[simp] theorem after_timed (s : State) (n : Nat) (i : Instr) : (s.after n i).timed = s.timed := rfl
@[simp] theorem after_iss (s : State) (n : Nat) (i : Instr) : (s.after n i).iss = s.iss := rfl
@[simp] theorem after_draws (s : State) (n : Nat) (i : Instr) : (s.after n i).draws = s.draws := rfl
@[simp] theorem after_fresh (s : State) (n : Nat) (i : Instr) : (s.after n i).fresh = s.fresh := rfl

@[simp] theorem later_tempo (s : State) (n : Nat) (i : Instr) : (s.later n i).tempo = s.tempo := rfl
@[simp] theorem later_bad (s : State) (n : Nat) (i : Instr) : (s.later n i).bad = s.bad := rfl
@[simp] theorem later_wall (s : State) (n : Nat) (i : Instr) : (s.later n i).wall = s.wall := rfl
@[simp] theorem later_wallFs (s : State) (n : Nat) (i : Instr) : (s.later n i).wallFs = s.wallFs := rfl
@[simp] theorem later_mem (s : State) (n : Nat) (i : Instr) : (s.later n i).mem = s.mem := rfl
@[simp] theorem later_tags (s : State) (n : Nat) (i : Instr) : (s.later n i).tags = s.tags := rfl
@[simp] theorem later_ctxs (s : State) (n : Nat) (i : Instr) : (s.later n i).ctxs = s.ctxs := rfl
@[simp] theorem later_cores (s : State) (n : Nat) (i : Instr) : (s.later n i).cores = s.cores := rfl
@[simp] theorem later_cmds (s : State) (n : Nat) (i : Instr) : (s.later n i).cmds = s.cmds := rfl
@[simp] theorem later_gangs (s : State) (n : Nat) (i : Instr) : (s.later n i).gangs = s.gangs := rfl
@[simp] theorem later_chains (s : State) (n : Nat) (i : Instr) : (s.later n i).chains = s.chains := rfl
@[simp] theorem later_regions (s : State) (n : Nat) (i : Instr) : (s.later n i).regions = s.regions := rfl
@[simp] theorem later_roots (s : State) (n : Nat) (i : Instr) : (s.later n i).roots = s.roots := rfl
@[simp] theorem later_queues (s : State) (n : Nat) (i : Instr) : (s.later n i).queues = s.queues := rfl
@[simp] theorem later_parts (s : State) (n : Nat) (i : Instr) : (s.later n i).parts = s.parts := rfl
@[simp] theorem later_funcs (s : State) (n : Nat) (i : Instr) : (s.later n i).funcs = s.funcs := rfl
@[simp] theorem later_dies (s : State) (n : Nat) (i : Instr) : (s.later n i).dies = s.dies := rfl
@[simp] theorem later_pkg (s : State) (n : Nat) (i : Instr) : (s.later n i).pkg = s.pkg := rfl
@[simp] theorem later_packets (s : State) (n : Nat) (i : Instr) : (s.later n i).packets = s.packets := rfl
@[simp] theorem later_timed (s : State) (n : Nat) (i : Instr) : (s.later n i).timed = s.timed := rfl
@[simp] theorem later_iss (s : State) (n : Nat) (i : Instr) : (s.later n i).iss = s.iss := rfl
@[simp] theorem later_fresh (s : State) (n : Nat) (i : Instr) : (s.later n i).fresh = s.fresh := rfl

end Sys2Proof.Machine
end

