-- ==== Sys2Proof/Tests/Slice0.lean ====
section
/-! SUPPORT. Tests of the model: ill-formed terms refused, words written out from the encodings of the manual, and single
instructions against worked examples and against values computed by hand from the rules. -/

namespace Sys2Proof.Tests

open Sys2Proof Sys2Proof.Machine

set_option Elab.async false

/-! ## Ill-formed terms are refused (02 R51), one for each check of `Instr.flaw` -/

theorem test_ill_target : (Instr.jmp 8320 false { iq := .always, sc := 0 }).wellFormed = false := by decide
theorem test_ill_empty_body : (Instr.loop 0 0 { iq := .always, sc := 0 }).wellFormed = false := by decide
theorem test_ill_scalar_dest : (Instr.add .ones .zero .zero).wellFormed = false := by decide
theorem test_ill_last_result_dest : (Instr.li (.last .sa false) 1).wellFormed = false := by decide
theorem test_ill_movo_dest : (Instr.movo (.s 0) (.s 1)).wellFormed = false := by decide
theorem test_ill_field_end : (Instr.bext (.s 0) (.s 1) 60 4).wellFormed = false := by decide
theorem test_field_end : (Instr.bext (.s 0) (.s 1) 60 3).wellFormed = true := by decide
theorem test_ill_movt_read_only : (Instr.movt (.s 0) .tempo).wellFormed = false := by decide
theorem test_ill_sign_extension : (Instr.ld (.s 0) (.s 1) .d true 0).wellFormed = false := by decide
theorem test_ill_gather_n4 : (Instr.vgth (.v 0) (.s 0) (.v 1) 0 .b4).wellFormed = false := by decide
theorem test_ill_scatter_n4 : (Instr.vsct (.v 0) (.s 0) (.v 1) 0 .b4).wellFormed = false := by decide
theorem test_ill_atomic_type : (Instr.aand (.s 0) (.s 1) (.s 2) .fp32).wellFormed = false := by decide
theorem test_ill_arith_type : (Instr.vshl (.v 0) (.v 1) (.v 2) 0 .fp32).wellFormed = false := by decide
theorem test_ill_vector_dest : (Instr.vadd .lane (.v 1) (.v 2) 0 .fp32).wellFormed = false := by decide
theorem test_ill_predicate_dest : (Instr.pand 0 1 2).wellFormed = false := by decide
theorem test_ill_compare_dest : (Instr.vcmp .eq 0 (.v 1) (.v 2) 0 .fp32).wellFormed = false := by decide
theorem test_ill_unordered_integer : (Instr.vcmp .un 1 (.v 1) (.v 2) 0 .i8).wellFormed = false := by decide
theorem test_ill_butterfly : (Instr.vshuf (.v 0) (.v 1) (.bfly 7) 0 .fp32).wellFormed = false := by decide
theorem test_ill_float_logic : (Instr.vred (.v 0) (.v 1) .xor 0 .fp32).wellFormed = false := by decide
theorem test_ill_convert_to_itself : (Instr.vcvt (.v 0) (.v 1) .fp32 0 .fp32).wellFormed = false := by decide
theorem test_ill_pair_base : (Instr.vdraw (.v 0) (.v 1) (.s 0) 0).wellFormed = false := by decide
theorem test_ill_count_dest : (Instr.pcnt .zero 1 .fp32).wellFormed = false := by decide
theorem test_event_has_no_word : (Instr.hostLinkUp).wellFormed = false := by decide

/-! ## Words written out in the manual decode to what they stand for -/

/-- R176 -/
theorem test_decode_bext : decodeSlot 1 0x4830701C = .ok (some (.bext (.s 3) (.s 1) 48 7)) := by rfl
theorem test_decode_addi : decodeSlot 2 0x20207FFF = .ok (some (.addi (.s 2) (.s 1) 0x3FFF)) := by rfl
theorem test_decode_li : decodeSlot 1 0x401FFFFE = .ok (some (.li (.s 1) 0xFFFFE)) := by rfl
theorem test_decode_lui : decodeSlot 1 0x441CBEEF = .ok (some (.lui (.s 1) 3 0xBEEF)) := by rfl
/-- R178 -/
theorem test_decode_stg : decodeSlot 1 0x68518000 = .ok (some (.stg (.s 5) 3)) ∧
    decodeSlot 1 0x68590000 = .ok (some (.stg (.s 5) 18)) := ⟨rfl, rfl⟩
/-- R427 -/
theorem test_decode_handler : decodeSlot 1 0x80518000 = .ok (some (.frd (.s 5) 0 (.recd 0))) ∧
    decodeSlot 1 0x8BE00000 = .ok (some (.fres 0)) ∧ decodeSlot 1 0x90220000 = .ok (some (.fpassHost (.s 2) 0)) ∧
    decodeSlot 1 0x94940000 = .ok (some (.fstat (.s 9) 1)) ∧ decodeSlot 1 0x98040000 = .ok (some (.hmov 1 0)) := ⟨rfl, rfl, rfl, rfl, rfl⟩
theorem test_decode_frd_snap : decodeSlot 1 0x80A16900 = .ok (some (.frd (.s 10) 0 (.snap 5 1 0))) ∧
    decodeSlot 1 0x84A16900 = .ok (some (.fwr (.s 10) 0 (.snap 5 1 0))) := ⟨rfl, rfl⟩
/-- R313 -/
theorem test_decode_lkr : decodeSlot 6 0x40447000 = .ok (some (.lkr 4 2 7)) := by rfl
theorem test_decode_lkz : decodeSlot 6 0x48040000 = .ok (some (.lkz 2)) := by rfl
/-- R201 -/
theorem test_decode_vld : decodeSlot 5 0x2031C002 = .ok (some (.vld (.v 3) (.s 7) 2)) := by rfl
/-- R256, R260, R263, R265 to R273, R284, R287 -/
theorem test_decode_vmulw : decodeSlot 3 0x48804200 = .ok (some (.vmulw (.v 8) (.v 1) (.v 2) 0 .i8)) := by rfl
theorem test_decode_vcmp : decodeSlot 3 0x51314608 = .ok (some (.vcmp .lt 3 (.v 5) (.v 6) 0 .fp32)) := by rfl
theorem test_decode_vshuf : decodeSlot 4 0x64225004 = .ok (some (.vshuf (.v 2) (.v 9) (.bfly 0) 0 .i32)) := by rfl
theorem test_decode_vred : decodeSlot 3 0x6C328008 = .ok (some (.vred (.v 3) (.v 10) .add 0 .fp32)) := by rfl
theorem test_decode_vcvt : decodeSlot 3 0x74721009 = .ok (some (.vcvt (.v 7) (.v 8) .fp32 0 .bf16)) := by rfl
theorem test_decode_vpln : decodeSlot 3 0x80518300 = .ok (some (.vpln (.v 5) (.v 6) 3 0 .i8)) := by rfl
theorem test_decode_pand : decodeSlot 3 0xC1380000 = .ok (some (.pand 2 3 4)) := by rfl
theorem test_decode_pcnt : decodeSlot 3 0xD0540008 = .ok (some (.pcnt (.s 5) 2 .fp32)) := by rfl
theorem test_decode_vdraw : decodeSlot 3 0xACA30705 = .ok (some (.vdraw (.v 10) (.v 12) (.s 7) 0)) := by rfl
theorem test_decode_vamax : decodeSlot 4 0xB0024009 = .ok (some (.vamax (.v 9) 0 .bf16)) := by rfl
theorem test_empty_slot : decodeSlot 1 0 = .ok none := by rfl
theorem test_reserved_major : decodeSlot 1 0xFC000000 = .error 1 := by rfl
theorem test_sb_has_no_handler_form : decodeSlot 2 0x8BE00000 = .error 1 := by rfl

/-- R55, R161, R194, R205, R207, R209, R219, R251, R276, R298, R320, R347, R386, R393 -/
theorem test_decode_ctl : decodeSlot 0 0x0457FE80 = .ok (some (.br (.s 5) false 0xFFD false { iq := .always, sc := 0 })) ∧
    decodeSlot 0 0x09300280 = .ok (some (.brp 2 false .b32 5 false { iq := .always, sc := 0 })) ∧
    decodeSlot 0 0x24002000 = .ok (some (.loop 0 4 { iq := .always, sc := 0 })) := ⟨rfl, rfl, rfl⟩
theorem test_decode_special : decodeSlot 1 0x60B20000 = .ok (some (.movs (.s 11) (.lix 0))) ∧
    decodeSlot 2 0x644210C0 = .ok (some (.movt (.s 4) (.lct 3))) := ⟨rfl, rfl⟩
theorem test_decode_mem : decodeSlot 5 0x0C9118C0 = .ok (some (.lde (.s 9) (.s 4) .d false 12)) ∧
    decodeSlot 5 0x4080C400 = .ok (some (.aadd (.s 8) (.s 3) (.s 4) .i32)) ∧
    decodeSlot 5 0x7C608525 = .ok (some (.aord (.s 6) (.s 2) (.s 5) 9 true)) ∧
    decodeSlot 5 0x81C00000 = .ok (some (.fence .pkg .full)) := ⟨rfl, rfl, rfl, rfl⟩
theorem test_decode_tlbi : decodeSlot 1 0x9C924000 = .ok (some (.tlbiPage (.s 9) .die)) := by rfl
theorem test_decode_vector : decodeSlot 3 0x0410830B = .ok (some (.vadd (.v 1) (.v 2) (.v 3) 0 .e4m3)) ∧
    decodeSlot 4 0x94414608 = .ok (some (.vdiv (.v 4) (.v 5) (.v 6) 0)) ∧
    decodeSlot 3 0xA020C008 = .ok (some (.vrcpa (.v 2) (.v 3) 0)) := ⟨rfl, rfl, rfl⟩
theorem test_decode_mx : decodeSlot 6 0x04316000 = .ok (some (.mma 3 5 true .prod false)) ∧
    decodeSlot 6 0x04316C00 = .ok (some (.mma 3 5 true .hamm true)) ∧
    decodeSlot 6 0x20400000 = .ok (some (.chb (.s 4))) ∧ decodeSlot 6 0x24318900 = .ok (some (.chc 3 (.s 6) 9)) ∧
    decodeSlot 6 0x28318A00 = .ok (some (.chs 3 (.s 6) 10)) ∧ decodeSlot 6 0x2C304700 = .ok (some (.chp 3 1 (.s 7))) ∧
    decodeSlot 6 0x30300000 = .ok (some (.chr 3 0)) ∧ decodeSlot 6 0x34380000 = .ok (some (.chfAbort 3)) :=
  ⟨rfl, rfl, rfl, rfl, rfl, rfl, rfl, rfl⟩
theorem test_decode_xe : decodeSlot 7 0x04102000 = .ok (some (.xcp 1 0 1 false false false)) ∧
    decodeSlot 7 0x08600000 = .ok (some (.xcnvPl 6 0 false)) ∧ decodeSlot 7 0x0C740000 = .ok (some (.xcprGet 7 4 false)) ∧
    decodeSlot 7 0x10000000 = .ok (some .rfen) ∧ decodeSlot 7 0x2058_0000 = .ok (some (.xpf 5 8 false)) ∧
    decodeSlot 7 0x309A0000 = .ok (some (.xrte 9 10 false)) ∧ decodeSlot 7 0x34500000 = .ok (some (.xcan 5)) :=
  ⟨rfl, rfl, rfl, rfl, rfl, rfl, rfl⟩
theorem test_decode_fabric : decodeSlot 7 0x40300000 = .ok (some (.xsnd 3 0)) ∧
    decodeSlot 7 0x44440000 = .ok (some (.xrcv 4 4)) ∧ decodeSlot 7 0x50828000 = .ok (some (.xwr 8 2 true false)) ∧
    decodeSlot 7 0x589A0000 = .ok (some (.xatm 9 10 false false)) := ⟨rfl, rfl, rfl, rfl⟩

/-! ## Single instructions against the manual's worked examples

Each runs one instruction at the issue point of a state that holds the operands, and looks at what is set to land. -/

/-- The state after one instruction, none where it stops. -/
def after (i : Instr) (s : State) : Option State := match exec i s with | .next t => some t | _ => none

/-- What the instruction sets to land in the issuing context. -/
def lands (i : Instr) (s : State) : List LandWhat := match after i s with | some t => t.ic.pend.map (·.what) | none => []

/-- State after reset at slot k of a bundle of context 0, with scalar and vector registers given. -/
def held (k : Fin 8) (ss : List (Fin 48 × Word)) (vs : List (Fin 32 × Nat)) : State :=
  let r := ss.foldl (fun r x => { r with s := r.s.set x.1 x.2 }) Regs.reset
  let r := vs.foldl (fun r x => { r with v := r.v.set x.1 (BitVec.ofNat 4096 x.2) }) r
  let s := State.reset.setCtx 0 { Ctx.reset with run := .run, regs := r }
  { s with iss := { s.iss with ctx := 0, slot := k } }

/-- The first n elements of the first register that a vector instruction sets to land, and its flags. -/
def elems (i : Instr) (s : State) (bits n : Nat) : List Nat × List Nat :=
  match lands i s with
  | .v ((_, r) :: _) _ :: .fps f :: _ => ((List.range n).map (lane r.toNat bits), [f.toNat])
  | .v ((_, r) :: _) _ :: _ => ((List.range n).map (lane r.toNat bits), [])
  | _ => ([], [])

/-- R176 -/
theorem test_lui : lands (.lui (.s 1) 3 0xBEEF) (held 1 [(1, 0xFFFFFFFFFFFFFFFE)] []) =
    [.s (.s 1) (some .sa) 0xBEEFFFFFFFFFFFFE] := by decide +kernel
theorem test_bext : lands (.bext (.s 3) (.s 1) 48 7) (held 1 [(1, 0xBEEFFFFFFFFFFFFE)] []) =
    [.s (.s 3) (some .sa) 0xEF] := by decide +kernel
theorem test_addi_negative : lands (.addi (.s 2) (.s 1) 0x3FFF) (held 2 [(1, 0xBEEFFFFFFFFFFFFE)] []) =
    [.s (.s 2) (some .sb) 0xBEEFFFFFFFFFFFFD] := by decide +kernel
/-- R172: a divisor of 0 -/
theorem test_divu_zero : lands (.divu (.s 2) (.s 1) .zero) (held 1 [(1, 5)] []) =
    [.s (.s 2) (some .sa) 0xFFFFFFFFFFFFFFFF] := by decide +kernel
theorem test_mulh_signs : lands (.mulh (.s 2) .ones .ones) (held 1 [] []) = [.s (.s 2) (some .sa) 0] ∧
    lands (.mulhu (.s 2) .ones .ones) (held 1 [] []) = [.s (.s 2) (some .sa) 0xFFFFFFFFFFFFFFFE] := by decide +kernel
/-- R171: only bits 5 to 0 of a count are read -/
theorem test_sar_count : lands (.sar (.s 2) (.s 1) (.s 3)) (held 1 [(1, 0x8000000000000000), (3, 0xFF)] []) =
    [.s (.s 2) (some .sa) 0xFFFFFFFFFFFFFFFF] := by decide +kernel
/-- R59, R41: the zero code as a destination -/
theorem test_zero_destination : lands (.add .zero .ones .ones) (held 1 [] []) =
    [.s .zero (some .sa) 0xFFFFFFFFFFFFFFFE] := by decide +kernel
/-- the example after R251 -/
theorem test_vadd_e4m3 : elems (.vadd (.v 1) (.v 2) (.v 3) 0 .e4m3) (held 3 [] [(2, 0x40387F7E), (3, 0x01383878)]) 8 4 =
    ([0x7F, 0x7F, 0x40, 0x40], [flagOF + flagNX]) := by decide +kernel
/-- R254: VABS.I8 of -128 -/
theorem test_vabs_least : (elems (.vabs (.v 1) (.v 2) 0 .i8) (held 3 [] [(2, 0x80)]) 8 2).1 = [0x80, 0] := by decide +kernel
/-- R265: VRED.ADD of 2^24, 1, 1 and -2^24 -/
theorem test_vred_add : (elems (.vred (.v 3) (.v 10) .add 0 .fp32)
    (held 3 [] [(10, 0xCB8000003F8000003F8000004B800000)]) 32 2).1 = [0x40000000, 0] := by decide +kernel
/-- R97: VCVT.BF16.FP32 of a tie -/
theorem test_vcvt_tie : elems (.vcvt (.v 7) (.v 8) .fp32 0 .bf16) (held 3 [] [(8, 0x3F808000)]) 16 2 =
    ([0x3F80, 0], [flagNX]) := by decide +kernel
/-- R271: the plane words of 5, -3, 7 and -8 in four planes -/
theorem test_vpln : elems (.vpln (.v 5) (.v 6) 3 0 .i8) (held 3 [] [(6, 0xF807FD05)]) 64 5 = ([0xA, 7, 4, 7, 0], []) := by
  decide +kernel
theorem test_vunpl_truncates : (elems (.vunpl (.v 7) (.v 5) 1 0 .i8)
    (held 3 [] [(5, 0xA + 7 * 2 ^ 64 + 4 * 2 ^ 128 + 7 * 2 ^ 192)]) 8 4).1 = [1, 0xFF, 1, 0xFE] := by decide +kernel
/-- R281: VRCPA of 3.0 -/
theorem test_vrcpa : (elems (.vrcpa (.v 2) (.v 3) 0) (held 3 [] [(3, 0x40400000)]) 32 1).1 = [0x3EAAAAAA] := by decide +kernel
/-- R256: logical element 5 of VMULW.I8 of -3 and 100 stands in the second register at position 1 -/
theorem test_vmulw : lands (.vmulw (.v 8) (.v 1) (.v 2) 0 .i8) (held 3 [] [(1, 0xFD * 2 ^ 40), (2, 0x64 * 2 ^ 40)]) =
    [.v [(.v 8, 0), (.v 9, 0xFFFFFED400000000), (.v 10, 0), (.v 11, 0)] (some .va), .fps 0] := by decide +kernel
/-- R62, R198, R200: a store of 8 bytes at an address that is no multiple of 8 raises ALIGN and commits nothing -/
theorem test_store_misaligned : (after (.st (.s 1) (.s 2) .d 0) (held 5 [(2, 4)] [])).map
    (fun t => (t.ic.run, t.ic.frz.map fun f => (f.cause, f.detail, f.faddr), t.ic.acc.length)) =
    some (.frozen, some (0x13, 1, 4), 0) := by decide +kernel
/-- R185, R198: a load of the core scratchpad performs 2 tempo after issue -/
theorem test_load_commits : (after (.ld (.s 1) (.s 2) .w true 1) (held 5 [(2, 8)] [])).map
    (fun t => t.ic.acc.map fun a => (a.due, a.op)) = some [(2, .load (keyScratch 0 12) 4 true (.s 1))] := by decide +kernel
/-- R207: the sums that follow the example of AORD.FP32 -/
theorem test_ordered_sums : aordAdd true 0 0x3F800000 = 0x3F800000 ∧ aordAdd true 0x3F800000 0x4B800000 = 0x4B800000 ∧
    aordAdd true 0x4B800000 0xCB800000 = 0 ∧ aordAdd true 0 0x3F800000 = 0x3F800000 := by decide +kernel

end Sys2Proof.Tests
end

