-- ==== Sys2Proof/Tests/Witnesses.lean ====
section
/-! SUPPORT. For each statement with hypotheses a theorem that shows a concrete state and operands that meet them together; where a
statement has several clauses, one for each clause, at an edge of its range where it has one. -/

namespace Sys2Proof.Tests

open Sys2Proof Sys2Proof.Machine

set_option Elab.async false

/-- A context at the issue point of slot k, with what the function makes of a context that holds no work. -/
def onCtx (k : Fin 8) (f : Ctx → Ctx) : State := { (State.reset.mapCtx 0 f) with iss := { State.reset.iss with ctx := 0, slot := k } }

/-- The same with the control state given. -/
def onCtl (f : Ctl → Ctl) : State := onCtx 0 fun x => { x with ctl := f x.ctl }

/-- The context runs as the one member of an elastic gang. -/
def inGang0 (f : Gang → Gang) (g : Ctx → Ctx) : State :=
  (onCtx 0 fun x => g { x with run := .run, gang := some 0 }).setGang 0 (f (fetchGang 0))

def q0 : CtlQ := { iq := .always, sc := 0 }

/-! ## Encodings and the machine -/

theorem wit_DecodeOfEncode :
    ((Instr.add (.s 47) (.last .ld true) .ones).wellFormed = true ∧ (Instr.add (.s 47) (.last .ld true) .ones).homeSlot = some 1 ∧
      (encode (.add (.s 47) (.last .ld true) .ones)).isSome = true ∧ saOnly (.add (.s 47) (.last .ld true) .ones) = false) ∧
    ((Instr.vsel (.vo 7) .lane .zero 7 .n4).wellFormed = true ∧ (Instr.vsel (.vo 7) .lane .zero 7 .n4).homeSlot = some 3 ∧
      (encode (.vsel (.vo 7) .lane .zero 7 .n4)).isSome = true) := by decide +kernel

theorem wit_EncodeOfDecode : decodeSlot 1 0x401FFFFE = .ok (some (.li (.s 1) 0xFFFFE)) ∧
    decodeSlot 2 0x401FFFFE = .ok (some (.li (.s 1) 0xFFFFE)) ∧
    decodeSlot 4 0xC1380000 = .ok (some (.pand 2 3 4)) := ⟨rfl, rfl, rfl⟩

theorem wit_StepKeepsMemoryCanonical : State.reset.Inv ∧ ∃ t, step State.reset = .next t := ⟨rfl, _, rfl⟩

/-- A state whose next step issues LI s1, -2, in slot sa of its bundle. -/
def liState : State :=
  (State.reset.withFetchWord 32 0).mapCore 0 fun k => { k with code := insertAt k.code 0 (BitVec.ofNat 256 (0x401FFFFE * 2 ^ 32)) }

/-- A state with nothing left to do in its tempo. -/
def idleState : State := { State.reset with pkg := { State.reset.pkg with bstate := 2 } }

theorem wit_StepGoesOn : idleState.nextAction = .tick ∧ (∃ t, step idleState = .next t) ∧ liState.nextAction = .present 0 ∧
    ∃ t, step liState = .next t := ⟨by decide +kernel, ⟨_, rfl⟩, by decide +kernel, ⟨_, rfl⟩⟩

theorem wit_StepRunsTheDecodedInstruction : liState.nextAction = .present 0 ∧ (liState.ctx 0).hold = none ∧
    (liState.atBundle 0).presentFlaw = none ∧ (liState.atBundle 0).firstFlaw = none ∧
    (liState.atBundle 0).beginPresent.executes = true ∧
    (liState.atBundle 0).beginPresent.instrsFrom (liState.atBundle 0).beginPresent.ic.entrySlot =
      [(0, .nop q0), (1, .li (.s 1) 0xFFFFE)] ∧
    (liState.atBundle 0).beginPresent.holdReady liState.tempo = .go ∧ (liState.atBundle 0).beginPresent.collides = false ∧
    ((liState.atBundle 0).beginPresent.runPoint 1).regBad (.li (.s 1) 0xFFFFE) = none := by
  decide +kernel

/-! ## Scalar operations -/

theorem wit_ScalarResult :
    State.reset.scalarRule (.shl (.s 0) .ones .ones) = some (1, SReg.s 0, (((2 ^ 64 - 1) * 2 ^ 63 : Nat) : Int)) ∧
    (Instr.shl (.s 0) .ones .ones).flaw = none ∧ State.reset.scoreHit (.shl (.s 0) .ones .ones) 1 = false := by decide +kernel

theorem wit_MovsReads : State.reset.scoreHit (.movs (.s 0) .tempo) 2 = false ∧
    (State.reset.scoreHit (.movs (.s 0) .pcid) 2 = false ∧ State.reset.pinvOf State.reset.iss.ctx = false) ∧
    (let s := onCtl fun k => { k with kind := .second }
     s.scoreHit (.movs (.s 0) .frec) 2 = false ∧ s.ic.ctl.kind = .second) ∧
    (let s := { State.reset with iss := { State.reset.iss with before := some State.reset.ic.ctl } }
     s.scoreHit (.movs (.s 0) .csw) 2 = false ∧ s.iss.before = some s.ic.ctl) ∧
    State.reset.ic.ctl.kind ≠ .second ∧
    (let s := inGang0 (fun g => { g with kernel := { g.kernel with pinv := true } }) id
     s.scoreHit (.movs (.s 0) .pcid) 2 = false ∧ s.pinvOf s.iss.ctx = true) := by decide +kernel

theorem wit_MovtAndStg : State.reset.scoreHit (.movt (.s 0) .tags) 2 = false ∧
    (let s := held 1 [(0, 0x34)] []
     s.scoreHit (.movt (.s 0) .nfmtV) 2 = false ∧ 2 ≤ (s.rdS 0 (.s 0)).toNat % 16 ∧ (s.rdS 0 (.s 0)).toNat % 16 ≤ 8 ∧
       ((s.rdS 0 (.s 0)).getLsbD 5 = true → (s.rdS 0 (.s 0)).getLsbD 4 = true)) ∧
    (let s := held 1 [(0, 0x24)] []
     s.scoreHit (.movt (.s 0) .nfmtV) 2 = false ∧
       ((s.rdS 0 (.s 0)).getLsbD 5 = true ∧ (s.rdS 0 (.s 0)).getLsbD 4 = false)) ∧
    (let s := held 1 [(0, 1)] []
     s.scoreHit (.movt (.s 0) .nfmtV) 2 = false ∧ (s.rdS 0 (.s 0)).toNat % 16 < 2) ∧
    (let s := held 1 [(0, 9)] []
     s.scoreHit (.movt (.s 0) .nfmtV) 2 = false ∧ 8 < (s.rdS 0 (.s 0)).toNat % 16) ∧
    State.reset.scoreHit (.movt (.s 0) .nfmtM) 2 = false ∧ State.reset.scoreHit (.stg (.s 0) 23) 1 = false := by decide +kernel

/-- A context with one landing due. -/
def landState (w : LandWhat) : State := onCtx 1 fun x => { x with pend := [{ due := 0, issued := 0, slot := 1, what := w }] }

theorem wit_LandingWritesItsRegister : ∀ w ∈ [LandWhat.s (.s 47) (some .sa) 5, .s (.so 7) none 5, .s .zero (some .sb) 5,
      .v [(.v 31, 5), (.vo 7, 6)] (some .vb), .v [] none, .stg 23 5, .fps 0x40, .amax (some 5) true, .amax none false, .p 0 5, .p 7 5, .spr .tags 5, .spr .fps 5, .spr .amax 5, .spr (.lct 5) 5, .spr (.lsd 0) 5, .spr .csw 16],
    ((landState w).ctx 0).pend = [{ due := 0, issued := 0, slot := 1, what := w }] ∧ 0 ≤ (landState w).tempo ∧
      (landState w).paused 0 = false ∧ w.register = true ∧ ((landState w).core (coreOf 0)).lk = [] := by decide +kernel

/-! ## The ctl slot -/

theorem wit_BranchesPend :
    (let s := held 0 [(1, 5)] []
     s.scoreHit (.br (.s 1) false 4 false q0) 1 = false ∧ (s.rdS 0 (.s 1) = 0 ↔ false = true) ∧
       s.mayEnter (relTarget s.iss.pc.toNat 4) = true ∧ s.loopFlaw (relTarget s.iss.pc.toNat 4) true = false) ∧
    (let s := held 0 [] []
     s.scoreHit (.br (.s 1) false 4 false q0) 1 = false ∧ ¬(s.rdS 0 (.s 1) = 0 ↔ false = true)) ∧
    (let s := held 0 [] []
     s.scoreHit (.brp 0 false .b32 4 false q0) 1 = false ∧ (∀ j, j < 4096 / ESize.bits .b32 → (s.rdP 0 0).getLsbD j = !false) ∧
       s.mayEnter (relTarget s.iss.pc.toNat 4) = true ∧ s.loopFlaw (relTarget s.iss.pc.toNat 4) true = false) ∧
    (let s := held 0 [] []
     s.scoreHit (.brp 1 false .b32 4 false q0) 1 = false ∧ ∀ j, j < 4096 / ESize.bits .b32 → (s.rdP 0 1).getLsbD j = false) ∧
    ((held 0 [] []).mayEnter 4095 = true ∧ (held 0 [] []).loopFlaw 4095 true = false) ∧
    ((held 0 [] []).mayEnter 8319 = true ∧ (held 0 [] []).loopFlaw 8319 true = false) := by decide +kernel

/-- Loop level 0 is active over the bundles 5 to 9. -/
def inLoop : Ctl → Ctl := fun k =>
  { k with pc := 6, nest := [0], loops := k.loops.set 0 { k.loops[0] with st := .active, count := 3, first := 5, last := 9 } }

theorem wit_BranchFaults : (held 0 [] []).mayEnter 4096 = false ∧
    (let s := onCtl inLoop
     s.mayEnter 10 = true ∧ s.loopFlaw 10 true = true) ∧
    (let s := onCtl fun k => { k with depth := 8 }
     s.mayEnter 0 = true ∧ s.ic.ctl.depth.val = 8) ∧
    (let s := onCtl inLoop
     s.scoreHit (.br .zero true 40 false q0) 1 = false ∧ (s.rdS 0 .zero = 0 ↔ true = true) ∧
       s.mayEnter (relTarget s.iss.pc.toNat 40) = true ∧ s.loopFlaw (relTarget s.iss.pc.toNat 40) true = true) ∧
    (let s := onCtl fun k => { inLoop k with
       depth := 1, rstk := k.rstk.set 0 12, loops := k.loops.set 0 { (inLoop k).loops[0] with first := 0, last := 1, depth := 1 } }
     s.ic.ctl.depth.val = (0 : Fin 8).val + 1 ∧ s.mayEnter (s.ic.ctl.rstk[(0 : Fin 8)]).toNat = true ∧
       s.loopFlaw (s.ic.ctl.rstk[(0 : Fin 8)]).toNat false = true ∧ s.mayEnter 12 = true ∧ s.ic.ctl.depth.val < 8 ∧
       s.loopFlaw 12 false = true) ∧
    (held 0 [] []).ic.ctl.depth.val = 0 ∧
    (let s := onCtx 0 fun x => { x with regs := x.regs.setP 1 1 }
     s.scoreHit (.brp 1 false .b32 0 false q0) 1 = false ∧ (s.rdP 0 1).getLsbD 0 = true ∧ (s.rdP 0 1).getLsbD 127 = false) := by
  decide +kernel

theorem wit_CallAndReturn :
    (let s := onCtl fun k => { k with depth := 7 }
     s.mayEnter 8192 = true ∧ s.loopFlaw 8192 false = false ∧ s.ic.ctl.depth.val < 8) ∧
    (let s := onCtl fun k => { k with depth := 8, rstk := k.rstk.set 7 12 }
     s.ic.ctl.depth.val = (7 : Fin 8).val + 1 ∧ s.mayEnter (s.ic.ctl.rstk[(7 : Fin 8)]).toNat = true ∧
       s.loopFlaw (s.ic.ctl.rstk[(7 : Fin 8)]).toNat false = false) := by decide +kernel

theorem wit_LoopLevels :
    (let s := onCtl fun k => { k with lct := k.lct.set 5 0xFFFFFFFF }
     s.ic.ctl.loops[(5 : Fin 6)].st ≠ .active ∧ s.ic.ctl.lct[(5 : Fin 6)].toNat < 2 ^ 32) ∧
    (let s := onCtl fun k => inLoop { k with loops := k.loops.set 1 { k.loops[1] with st := .armed, count := 1 } }
     s.ic.ctl.loops[(1 : Fin 6)].st = .armed ∧ regionOf (s.iss.pc.toNat + 1) = regionOf (s.iss.pc.toNat + (4 : BitVec 12).toNat) ∧
       (s.ic.ctl.nest.all fun m => decide (s.iss.pc.toNat + (4 : BitVec 12).toNat ≤ s.ic.ctl.loops[m].last.toNat)) = true ∧
       s.ic.ctl.loops[(1 : Fin 6)].count ≠ 0) ∧
    (let s := onCtl fun k => { k with loops := k.loops.set 1 { k.loops[1] with st := .armed } }
     s.ic.ctl.loops[(1 : Fin 6)].st = .armed ∧ s.ic.ctl.nest = [] ∧ s.ic.ctl.loops[(1 : Fin 6)].count = 0) ∧
    (let s := onCtl inLoop
     s.ic.ctl.loops[(0 : Fin 6)].st = .active ∧ s.ic.ctl.nest = [] ++ 0 :: [] ∧ (0 : Fin 6) ∉ ([] : List (Fin 6))) ∧
    (held 0 [] []).ic.ctl.loops[(0 : Fin 6)].st ≠ .active ∧ (held 0 [] []).ic.ctl.loops[(0 : Fin 6)].st ≠ .armed ∧
    (let s : State := { onCtl id with iss := { State.reset.iss with pc := 4094 } }
     regionOf (s.iss.pc.toNat + 1) ≠ regionOf (s.iss.pc.toNat + (2 : BitVec 12).toNat)) ∧
    2 ^ 32 ≤ (onCtl fun k => { k with lct := k.lct.set 0 0x100000000 }).ic.ctl.lct[(0 : Fin 6)].toNat := by decide +kernel

theorem wit_NextIndex :
    (let k := { Ctl.reset with pbv := true, pbt := 7 }
     k.pbv = true) ∧
    (let k := { inLoop Ctl.reset with pc := 9 }
     k.pbv = false ∧ k.nest = 0 :: [] ∧ k.loops[(0 : Fin 6)].last.toNat = k.pc.toNat ∧
       k.loops[(0 : Fin 6)].depth.toNat = k.depth.val ∧ (k.loops[(0 : Fin 6)].iter + 1).toNat < k.loops[(0 : Fin 6)].count.toNat) ∧
    (let k := { inLoop Ctl.reset with pc := 9, loops := (inLoop Ctl.reset).loops.set 0 { (inLoop Ctl.reset).loops[0] with iter := 2 } }
     k.pbv = false ∧ k.nest = [0] ∧ k.loops[(0 : Fin 6)].last.toNat = k.pc.toNat ∧
       k.loops[(0 : Fin 6)].depth.toNat = k.depth.val ∧ k.loops[(0 : Fin 6)].count.toNat ≤ (k.loops[(0 : Fin 6)].iter + 1).toNat) ∧
    (let k := inLoop Ctl.reset
     k.pbv = false ∧ k.nest = 0 :: [] ∧ ¬(k.loops[(0 : Fin 6)].last.toNat = k.pc.toNat)) := by decide +kernel

/-- Levels 1 and 2 end at bundle 9 with their last iterations done, level 0 around them with iterations left, or ends at bundle e. -/
def nestedLoops (e : Word) : Ctl :=
  let l : Loop := { Ctl.reset.loops[(0 : Fin 6)] with st := .active, count := 3, iter := 2, first := 7, last := 9 }
  { Ctl.reset with
    pc := 9, nest := [2, 1] ++ [0], loops := ((Ctl.reset.loops.set 2 l).set 1 l).set 0 { l with iter := 1, first := 5, last := e } }

theorem wit_NextIndex_nested :
    ((nestedLoops 9).pbv = false ∧ (nestedLoops 9).nest = [2, 1] ++ [0] ∧ (nestedLoops 9).nest.Nodup ∧
      (∀ n ∈ ([2, 1] : List (Fin 6)), (nestedLoops 9).loops[n].last.toNat = 9 ∧
        (nestedLoops 9).loops[n].depth.toNat = (nestedLoops 9).depth.val ∧
        (nestedLoops 9).loops[n].count.toNat ≤ ((nestedLoops 9).loops[n].iter + 1).toNat) ∧
      (nestedLoops 9).loops[(0 : Fin 6)].last.toNat = 9 ∧
      ((nestedLoops 9).loops[(0 : Fin 6)].iter + 1).toNat < (nestedLoops 9).loops[(0 : Fin 6)].count.toNat) ∧
    (nestedLoops 12).nest = [2, 1] ++ [0] ∧ (nestedLoops 12).loops[(0 : Fin 6)].last.toNat ≠ (nestedLoops 12).pc.toNat := by
  decide +kernel

theorem wit_ChambersAndModes :
    (held 0 [] []).ic.ctl.kind = .primary ∧
    (let s := (held 0 [] []).mapCore 0 fun k => { k with chB := { k.chB with valid := true } }
     s.ic.ctl.kind = .primary ∧ s.ic.ctl.nest = [] ∧
       ((s.core (coreOf s.iss.ctx)).chamber (!s.ic.ctl.chamberB)).valid = true) ∧
    (let s := held 0 [] []
     ((s.core (coreOf s.iss.ctx)).chamber (!s.ic.ctl.chamberB)).valid = false) ∧
    ((onCtl inLoop).ic.ctl.kind = .primary ∧ (onCtl inLoop).ic.ctl.nest ≠ []) ∧
    ((held 0 [] []).core (coreOf (held 0 [] []).iss.ctx)).working = [] ∧
    (((held 0 [] []).mapCore 0 fun k => { k with working := [(true, k.templates)] }).core 0).working =
      (true, ((held 0 [] []).core 0).templates) :: [] ∧
    (onCtl fun k => { k with kind := .secondary }).ic.ctl.kind = .secondary ∧
    (onCtl fun k => { k with kind := .second }).ic.ctl.kind = .second := by decide +kernel

/-- A member about to present a bundle of one barrier instruction. -/
def barState (i : Instr) (f : Ctx → Ctx) : State :=
  let s := (State.reset.withFetchWord 32 0).mapCore 0 fun k => { k with code := insertAt k.code 0 (((encode i).getD 0).setWidth 256) }
  (s.setGang 0 (fetchGang 0)).mapCtx 0 fun x => f { x with gang := some 0 }

theorem wit_Barriers_misuse : ∀ w ∈ [(Instr.bar 5 q0, true), (.bara 5 q0, true), (.barw 5 q0, false)],
    let s := barState w.1 fun x => { x with arrivals := x.arrivals.set 5 { arrived := w.2, phase := (fetchGang 0).barriers[5].phase } }
    let u := s.atBundle 0
    s.nextAction = .present 0 ∧ (s.ctx 0).hold = none ∧ s.gangOf 0 = some (fetchGang 0) ∧ u.presentFlaw = none ∧ u.executes = true ∧
      u.inDelay = false ∧ u.instrsFrom u.ic.entrySlot = [(0, w.1)] ∧
      (s.ctx 0).arrivals[(5 : Fin 16)] = { arrived := w.2, phase := (fetchGang 0).barriers[(5 : Fin 16)].phase } := by decide +kernel

theorem wit_Barriers :
    (let s := (State.reset.withFetchWord 32 0).atBundle 0
     let s := { s with iss := { s.iss with words := ((encode (.bara 0 q0)).getD 0).setWidth 256 } }
     s.executes = true ∧ (s.instrsFrom s.ic.entrySlot = [(0, .bara 0 q0)] ∨ s.instrsFrom s.ic.entrySlot = [(0, .bar 0 q0)])) ∧
    (let s := inGang0 id id
     s.ic.gang = some 0 ∧ s.gang? 0 = some (fetchGang 0) ∧ (fetchGang 0).id = 0 ∧ s.inGang = true ∧
       (fetchGang 0).barriers[(15 : Fin 16)].count + 1 = (fetchGang 0).barriers[(15 : Fin 16)].expected) ∧
    (let g := { fetchGang 0 with barriers := (fetchGang 0).barriers.set 0 { (fetchGang 0).barriers[0] with expected := 2 } }
     let s := inGang0 (fun _ => g) id
     s.ic.gang = some 0 ∧ s.gang? 0 = some g ∧ g.id = 0 ∧ g.barriers[(0 : Fin 16)].count + 1 ≠ g.barriers[(0 : Fin 16)].expected) ∧
    (onCtl fun k => { k with kind := .second }).ic.ctl.kind = .second := by decide +kernel

theorem wit_TagWaits :
    (let s := onCtx 0 fun x => { x with regs := x.regs.setS (.s 1) 0x8000000000000001, spr := { x.spr with tags := 1 } }
     s.scoreHit (.wtany (.s 1) q0) 1 = false ∧ s.ic.spr.tags &&& s.waitMask (.s 1) ≠ 0) ∧
    (let s := onCtx 0 fun x => { x with regs := x.regs.setS (.s 1) 3, spr := { x.spr with tags := 3 } }
     s.scoreHit (.wtall (.s 1) q0) 1 = false ∧ s.ic.spr.tags &&& s.waitMask (.s 1) = s.waitMask (.s 1)) ∧
    (let s := held 0 [] []
     s.scoreHit (.wtall .zero q0) 1 = false ∧ s.ic.spr.tags &&& s.waitMask .zero = s.waitMask .zero) ∧
    (let s := held 0 [(1, 3)] []
     s.scoreHit (.wtany (.s 1) q0) 1 = false ∧ (s.ic.spr.tags ||| s.tagsInFlight s.iss.ctx) &&& s.waitMask (.s 1) = 0 ∧
       s.scoreHit (.wtall (.s 1) q0) 1 = false ∧
       (s.ic.spr.tags ||| s.tagsInFlight s.iss.ctx) &&& s.waitMask (.s 1) ≠ s.waitMask (.s 1)) := by decide +kernel

theorem wit_TaskEndsAndSafePoints :
    ((held 0 [] []).ic.ctl.nest = [] ∧ (held 0 [] []).ic.ctl.depth = 0) ∧
    ((onCtl inLoop).ic.ctl.nest ≠ [] ∨ (onCtl inLoop).ic.ctl.depth ≠ 0) ∧
    (let s := { inGang0 id id with iss := { State.reset.iss with words := 0 } }
     ctlAlone s.iss.words = true ∧ s.gangOf s.iss.ctx = some (fetchGang 0) ∧ (fetchGang 0).adjourn = false ∧
       s.ic.ctl.kind = .primary) ∧
    (let g := { fetchGang 0 with adjourn := true }
     let s := inGang0 (fun _ => g) id
     ctlAlone s.iss.words = true ∧ s.ic.gang = some g.id ∧ s.gang? g.id = some g ∧ g.adjourn = true ∧ g.writing = false ∧
       g.kernel.tlen = none ∧ g.target = none ∧ s.ic.ctl.kind = .primary) ∧
    ctlAlone (BitVec.ofNat 256 (0x401FFFFE * 2 ^ 32)) = false := by decide +kernel

theorem wit_FaultFreezesItsContext :
    (let g := { fetchGang 0 with kernel := { fetchKernel with tlen := some 100 } }
     let s := inGang0 (fun _ => g) id
     s.Inv ∧ (∀ d : CtxId, (s.ctx d).frz = none) ∧ s.ic.gang = some 0 ∧ s.gang? 0 = some g ∧ g.kernel.tlen ≠ none ∧ s.ic.ctl.kind ≠ .second) := by
  refine ⟨rfl, ?_⟩; decide +kernel

/-! ## Core accesses -/

/-- Slot mem, with scalar registers, in partition 0 whose address space 0 has 4 rows of shared scratch a die from row 0 on. -/
def memState (ss : List (Fin 48 × Word)) : State :=
  (held 5 ss []).setPart 0 { Part.reset with asids := [{ root := 0, pasid := 0, func := 0, asid := 0, sroff := 0, srcnt := 4 }] }

theorem wit_ScratchpadAccessCommits :
    (let s := memState [(2, 0x3FFFF8), (3, 8)]
     ∃ r, s.memRule (.ld (.s 1) (.s 2) .d false 0) = some r ∧ r.addr < 0x400000 ∧ r.addr % r.bytes = 0 ∧
       s.scoreHit (.ld (.s 1) (.s 2) .d false 0) (2 + r.lat) = false ∧
       s.racesOf s.iss.ctx (.scratch (coreOf s.iss.ctx)) (r.op 0).kind [(r.addr, r.addr + r.bytes - 1)] = none ∧ s.elasticFree r.tag) ∧
    (let s := memState [(2, 0x3FFFF8), (3, 8)]
     ∃ r, s.memRule (.acasE (.s 1) (.s 2) (.s 3) 63 .i64) = some r ∧ r.addr < 0x400000 ∧ r.addr % r.bytes = 0 ∧
       s.scoreHit (.acasE (.s 1) (.s 2) (.s 3) 63 .i64) elasticLat = false ∧
       s.racesOf s.iss.ctx (.scratch (coreOf s.iss.ctx)) (r.op 0).kind [(r.addr, r.addr + r.bytes - 1)] = none ∧
       s.elasticFree r.tag) :=
  ⟨⟨_, rfl, by decide +kernel, by decide +kernel, by decide +kernel, by decide +kernel, trivial⟩,
   ⟨_, rfl, by decide +kernel, by decide +kernel, by decide +kernel, by decide +kernel, ⟨by decide +kernel, .inl (by decide +kernel)⟩⟩⟩

theorem wit_SharedAccessCommits :
    let s := memState [(2, 0x400FFF8)]
    (s.memRule (.ld (.s 1) (.s 2) .d false 0)).map (fun r => (r.addr, r.bytes, r.tag)) = some (0x4000000 + 0xFFF8, 8, none) ∧
      (s.memRule (.ld (.s 1) (.s 2) .d false 0)).map (fun r => (r.op 0).kind) = some { rd := true, wr := false } ∧
      0xFFF8 < 0x8000000 ∧ 0xFFF8 / 16384 < (s.rowsOf s.iss.ctx).2 ∧
      s.scoreHit (.ld (.s 1) (.s 2) .d false 0) (s.planShared s.iss.ctx 0xFFF8 8 + 4 - s.tempo) = false ∧
      s.racesOf s.iss.ctx (.shared (coreOf s.iss.ctx)) { rd := true, wr := false } [(0x400FFF8, 0x400FFFF)] = none := by
  decide +kernel

theorem wit_TranslatedAccessIsSent :
    let s := memState [(2, 0xFFFFFFFFFFFFF8)]
    ∃ r, s.memRule (.lde (.s 1) (.s 2) .d false 63) = some r ∧ r.tag = some 63 ∧ 2 ^ 32 ≤ r.addr ∧ r.addr < 2 ^ 56 ∧
      r.addr % r.bytes = 0 ∧ s.scoreHit (.lde (.s 1) (.s 2) .d false 63) elasticLat = false ∧
      s.racesOf s.iss.ctx (.virt s.ic.spr.asid) (r.op 0).kind [(r.addr, r.addr + r.bytes - 1)] = none ∧ s.elasticFree (some 63) :=
  ⟨_, rfl, rfl, by decide +kernel, by decide +kernel, by decide +kernel, by decide +kernel, by decide +kernel,
    ⟨by decide +kernel, .inl (by decide +kernel)⟩⟩

theorem wit_OrderedAtomicIsSent :
    (let s := memState [(2, 0x100000000)]
     let a := (s.rdS 1 (.s 2)).toNat
     2 ^ 32 ≤ a ∧ a < 2 ^ 56 ∧ s.racesOf s.iss.ctx (.virt s.ic.spr.asid) { rd := false, wr := true } [(a, a + 8 - 1)] = none ∧
       a % 8 = 0 ∧ s.scoreHit (.aord (.s 3) (.s 2) (.s 4) 0 false) elasticLat = false ∧ s.tagHeld s.iss.ctx 0 = false ∧
       s.fixedOf s.iss.ctx = none) ∧
    (let s := memState [(2, 0x400FFFC)]
     let a := (s.rdS 1 (.s 2)).toNat
     0x4000000 ≤ a ∧ a < 0xC000000 ∧ (a - 0x4000000) / 16384 < (s.rowsOf s.iss.ctx).2 ∧
       s.racesOf s.iss.ctx (.shared (coreOf s.iss.ctx)) { rd := false, wr := true } [(a, a + 4 - 1)] = none ∧ a % 4 = 0 ∧
       s.scoreHit (.aord (.s 3) (.s 2) (.s 4) 0 true) elasticLat = false ∧ s.tagHeld s.iss.ctx 0 = false ∧
       s.fixedOf s.iss.ctx = none) ∧
    (let s := memState [(2, 0x3FFFF8)]
     (s.rdS 1 (.s 2)).toNat < 0x400000 ∧ s.scoreHit (.aord (.s 3) (.s 2) (.s 4) 0 false) elasticLat = false) := by decide +kernel

/-- An address at each edge of the windows, of the rows, and misaligned ones; the context has 4 rows. -/
theorem wit_AccessFaults : (([0x100000000000000, 0x400000, 0x3FFFFF8, 0xC000000, 0xFFFFFFF8, 0x100000000, 0x4010000, 4, 0x400FFFC] :
      List Word).all fun a =>
    (((memState [(2, a)]).memRule (.ld (.s 1) (.s 2) .d false 0)).map fun r => (r.addr, r.bytes, r.tag)) == some (a.toNat, 8, none) &&
      !(memState [(2, a)]).scoreHit (.ld (.s 1) (.s 2) .d false 0) 4 && ((memState [(2, a)]).rowsOf 0).2 == 4) = true := by
  decide +kernel

/-- The same for VST, and for the bases and elements of VGTH and VSCT. -/
theorem wit_AccessFaults_vector :
    (([0x100000000000000, 0x400000, 0x3FFFE00, 0xC000000, 0xFFFFFE00, 0x100000000, 0x4010000, 4, 0x400FFFC] : List Word).all fun a =>
      let s := memState [(2, a)]
      addressOf (s.rdS 1 (.s 2)) (0 : BitVec 9).toInt 512 == a.toNat && !s.scoreHit (.vst (.v 1) (.s 2) 0 .b8 0) 4 &&
        (s.rowsOf 0).2 == 4) = true ∧
    (([0x100000000000000, 0x400000, 0x3FFFFFC, 0x4000000, 0xC000000, 0xFFFFFFFC, 0x100000000, 2] : List Word).all fun a =>
      let s := memState [(2, a)]
      s.rdS 0 (.s 2) == a && s.rdS 1 (.s 2) == a && !s.scoreHit (.vgth (.v 1) (.s 2) (.v 3) 0 .b32) 6 &&
        !s.scoreHit (.vsct (.v 1) (.s 2) (.v 3) 0 .b32) 6) = true ∧
    (let s := (memState [(2, 0x3FFFFC)]).mapCtx 0 fun x => { x with regs := (x.regs.putV (.v 3) 1).setP 1 1 }
     (s.rdS 0 (.s 2)).toNat < 0x400000 ∧ (s.rdS 0 (.s 2)).toNat % 4 = 0 ∧ (s.rdP 2 1).getLsbD 0 = true ∧
       0x3FFFFF < elementAt (s.rdS 0 (.s 2)) (s.rdV 1 32 (.v 3)) 4 0 ∧ (s.rdP 3 1).getLsbD 0 = true ∧
       0x3FFFFF < elementAt (s.rdS 1 (.s 2)) (s.rdV 2 32 (.v 3)) 4 0) := by decide +kernel

/-- A context of guarded accesses, with an XCP from 0x1000 to 0 under way. -/
def guardState (ss : List (Fin 48 × Word)) : State :=
  let s := memState ss
  ((s.setGang 0 { fetchGang 0 with kernel := { fetchKernel with guard := true } }).mapCtx 0 fun x => { x with gang := some 0 }).setCmds 0
    [{ Cmd.new 9 (.xcp 0 false false) State.reset with
        src := footOf (.scratch 0) 0x1000 256, dst := footOf (.scratch 0) 0 256 }]

theorem wit_AccessFaults_race :
    (let s := guardState [(2, 0)]
     ∃ r, s.memRule (.ld (.s 1) (.s 2) .d false 0) = some r ∧ r.addr < 0x400000 ∧ r.addr % r.bytes = 0 ∧ r.tag = none ∧
       s.scoreHit (.ld (.s 1) (.s 2) .d false 0) (s.ic.tagLands (s.tempo + 2 + r.lat) r.tag - s.tempo) = false ∧
       (s.racesOf s.iss.ctx (.scratch (coreOf s.iss.ctx)) (r.op 0).kind [(r.addr, r.addr + r.bytes - 1)]).isSome = true) ∧
    (let s := guardState [(2, 0x1000)]
     let a := addressOf (s.rdS 1 (.s 2)) (0 : BitVec 9).toInt 512
     a < 0x400000 ∧ a % 512 = 0 ∧ s.scoreHit (.vst (.v 1) (.s 2) 0 .b8 0) 4 = false ∧
       (s.racesOf s.iss.ctx (.scratch (coreOf s.iss.ctx)) { rd := false, wr := true }
         (maskSpans a (predMask (ESize.bits .b8) (s.rdP 2 0)))).isSome = true) ∧
    (let s := guardState [(2, 0)]
     (s.rdS 0 (.s 2)).toNat < 0x400000 ∧
       (s.racesOf s.iss.ctx (.scratch (coreOf s.iss.ctx)) { rd := true, wr := false }
         (elementSpans (s.rdS 0 (.s 2)) (s.rdV 1 32 (.v 3)) (s.rdP 2 0) 4)).isSome = true ∧
       (s.racesOf s.iss.ctx (.scratch (coreOf s.iss.ctx)) { rd := false, wr := true }
         (elementSpans (s.rdS 1 (.s 2)) (s.rdV 2 32 (.v 3)) (s.rdP 3 0) 4)).isSome = true) :=
  ⟨⟨_, rfl, by decide +kernel, by decide +kernel, rfl, by decide +kernel, by decide +kernel⟩, by decide +kernel, by decide +kernel⟩

theorem wit_VectorAccessCommits :
    (let s := memState [(2, 0x3FFE00)]
     let a := addressOf (s.rdS 1 (.s 2)) (0 : BitVec 9).toInt 512
     a < 0x400000 ∧ a % 512 = 0 ∧ s.scoreHit (.vst (.v 1) (.s 2) 0 .b8 0) 4 = false ∧
       s.racesOf s.iss.ctx (.scratch (coreOf s.iss.ctx)) { rd := false, wr := true }
         (maskSpans a (predMask (ESize.bits .b8) (s.rdP 2 0))) = none) ∧
    (let s := memState [(2, 0x400FE00)]
     let a := addressOf (s.rdS 1 (.s 2)) (0 : BitVec 9).toInt 512
     a % 512 = 0 ∧ a = 0x4000000 + 0xFE00 ∧ 0xFE00 / 16384 < (s.rowsOf s.iss.ctx).2 ∧
       s.scoreHit (.vst (.v 1) (.s 2) 0 .b8 0) (s.planShared s.iss.ctx 0xFE00 512 + 4 - s.tempo) = false ∧
       s.racesOf s.iss.ctx (.shared (coreOf s.iss.ctx)) { rd := false, wr := true }
         (maskSpans a (predMask (ESize.bits .b8) (s.rdP 2 0))) = none) ∧
    (let s := memState [(2, 0x3FFFFC)]
     let b := (s.rdS 0 (.s 2)).toNat
     ESize.b32 ≠ .b4 ∧ b < 0x400000 ∧ b % 4 = 0 ∧ s.scoreHit (.vgth (.v 1) (.s 2) (.v 3) 0 .b32) 6 = false ∧
       (∀ j, j < 128 → (s.rdP 2 0).getLsbD j = true →
         (b + lane (s.rdV 1 (ESize.bits .b32) (.v 3)).toNat 32 j * 4) % 2 ^ 64 ≤ 0x3FFFFF) ∧
       s.racesOf s.iss.ctx (.scratch (coreOf s.iss.ctx)) { rd := true, wr := false }
         (elementSpans (s.rdS 0 (.s 2)) (s.rdV 1 32 (.v 3)) (s.rdP 2 0) 4) = none) ∧
    (let s := memState [(2, 0x3FFFFC)]
     let b := (s.rdS 1 (.s 2)).toNat
     ESize.b32 ≠ .b4 ∧ b < 0x400000 ∧ b % 4 = 0 ∧ s.scoreHit (.vsct (.v 1) (.s 2) (.v 3) 0 .b32) 6 = false ∧
       (∀ j, j < 128 → (s.rdP 3 0).getLsbD j = true →
         (b + lane (s.rdV 2 (ESize.bits .b32) (.v 3)).toNat 32 j * 4) % 2 ^ 64 ≤ 0x3FFFFF) ∧
       s.racesOf s.iss.ctx (.scratch (coreOf s.iss.ctx)) { rd := false, wr := true }
         (elementSpans (s.rdS 1 (.s 2)) (s.rdV 2 32 (.v 3)) (s.rdP 3 0) 4) = none) := by decide +kernel

/-- An access that performs at tempo 1; below, a context with it, and a core whose ports are free. -/
def performAcc (o : AccOp) : Access :=
  { due := 1, lat := 2, issued := 0, banks := 0, sub := 0, tag := none, op := o, pc := 0, va := 0, ops := [],
    discard := false }

def performState (o : AccOp) : State := { onCtx 5 (fun x => { x with acc := [performAcc o] }) with tempo := 1 }

/-- Nothing is mapped out where the package lists nothing. -/
theorem sound_of {s : State} {l : List (Nat × Nat)} (h : s.eccIn l = none) (h0 : s.pkg.mappedOut = []) : s.sound l :=
  ⟨h, fun _ _ x _ _ => by simp only [State.mappedOut, h0, List.any_nil]⟩

theorem wit_AccessPerforms : ∀ o ∈ [AccOp.store 8 8 5, .load 8 4 true (.s 1), .atom 8 .add .i32 1 0 (.s 1), .vload 512 (.v 1),
      .vstore 512 5 7, .gather 4 [some 8, none] (.v 1), .scatter 4 [(8, 5), (10, 6)], .tagWrite 64 9, .tagRead 64 (.s 1)],
    ((performState o).ctx 0).acc = [performAcc o] ∧
      (performState o).tempo = 1 ∧ (performState o).heldCtx 0 = false ∧ ((performState o).core (coreOf 0)).ports.1 < 1 ∧
      (performState o).mem.wf = true ∧ (performState o).eccIn o.touched = none ∧ (performState o).pkg.mappedOut = [] ∧ ((performState o).ctx 0).frz = none ∧
      (performState o).testedBanks 0 = 0 := by decide +kernel

theorem wit_AccessPerforms_elastic :
    ∀ o ∈ [AccOp.load 8 4 true (.s 1), .store 8 8 5, .atom 8 .add .i32 1 0 (.s 1)],
    let a := { performAcc o with tag := some 63 }
    let s := performState o
    let s := s.mapCtx 0 fun x => { x with acc := [a] }
    (s.ctx 0).acc = [a] ∧ a.due = s.tempo ∧ a.discard = false ∧ (s.ctx 0).frz = none ∧ s.testedBanks 0 = 0 ∧ s.mem.wf = true ∧
      (s.core (coreOf 0)).ports.1 < s.tempo ∧ s.eccIn a.op.touched = none ∧ s.pkg.mappedOut = [] := by decide +kernel

theorem wit_AccessPerforms_ecc : ∀ o ∈ [AccOp.store 8 8 5, .load 8 4 true (.s 1)],
    let s : State := { performState o with bad := [0] }
    (s.ctx 0).acc = [performAcc o] ∧ s.heldCtx 0 = false ∧ (s.core (coreOf 0)).ports.1 < s.tempo ∧
      s.eccIn o.touched = some 0 ∧ (s.ctx 0).frz = none ∧ s.testedBanks 0 = 0 := by decide +kernel

theorem wit_FencesAndTlbis :
    ((held 5 [] []).fenceMet 0 .die .full = true ∧ (held 5 [] []).ic.acc = [] ∧ (held 5 [] []).ic.elas = []) ∧
    (let s := onCtx 5 fun x => { x with tlbi := [(.all, .part)] }
     (TlbiWhat.all, TlbScope.part) ∈ s.ic.tlbi ∧ ((s.setPart 0 { Part.reset with pclus := 1 }).part s.ic.part).hasCore 0 = true) ∧
    ((onCtl fun k => { k with kind := .second }).ic.ctl.kind = .second ∧
      (onCtl fun k => { k with kind := .second }).scoreHit (.tlbiAll .zero .core) 1 = false) ∧
    (held 1 [] []).ic.ctl.kind ≠ .second ∧
    ((held 1 [(0, 0x4000)] []).scoreHit (.tlbiAsid (.s 0) .die) 1 = false ∧
      ((held 1 [(0, 0x4000)] []).rdS 0 (.s 0)).truncate 14 = (held 1 [(0, 0x4000)] []).ic.spr.asid) ∧
    ((held 1 [(0, 0x3FFF)] []).scoreHit (.tlbiAsid (.s 0) .die) 1 = false ∧
      ((held 1 [(0, 0x3FFF)] []).rdS 0 (.s 0)).truncate 14 ≠ (held 1 [(0, 0x3FFF)] []).ic.spr.asid) ∧
    (held 1 [] []).scoreHit (.tlbiPage (.s 0) .part) 1 = false := by decide +kernel

/-! ## Vector operations -/

theorem wit_NumbersInContainers :
    (VType.i8.isInt = true ∧ 0x80 < 2 ^ VType.i8.bits ∧ VType.i8.isSigned ∧ 2 ^ (VType.i8.bits - 1) ≤ 0x80) ∧
    (VType.n4.isNarrow = true ∧ 1 ≤ (NarrowFmt.of 0x34).width ∧ (NarrowFmt.of 0x34).width ≤ VType.n4.bits ∧
      (NarrowFmt.of 0x34).sgn = true ∧ (NarrowFmt.of 0x34).subst = true ∧ -(2 ^ ((NarrowFmt.of 0x34).width - 1) : Nat) ≤ (-8 : Int) ∧
      (-8 : Int) < (2 ^ ((NarrowFmt.of 0x34).width - 1) : Nat)) ∧
    (VType.n8.isNarrow = true ∧ 1 ≤ (NarrowFmt.of 0x08).width ∧ (NarrowFmt.of 0x08).width ≤ VType.n8.bits ∧
      (NarrowFmt.of 0x08).sgn = false) ∧
    (VType.e4m3.isFloat = true ∧ 0x7E < 2 ^ VType.e4m3.bits ∧ (FloatFmt.of .e4m3).decode 0x7E = .fin false 14 5) ∧
    (VType.e4m3.isFloat = true ∧ 0x7F < 2 ^ VType.e4m3.bits ∧ (FloatFmt.of .e4m3).decode 0x7F = .nan) := by decide +kernel

/-- Every form that reads NFMT.V as numbers, with a 4-bit format for N4. -/
def vecState : State := onCtx 3 fun x => { x with spr := { x.spr with nfmtV := 0x34 } }

theorem wit_VectorArithmetic : (NarrowFmt.of vecState.ic.nfmtVNow).width ≤ 4 ∧
    vecState.scoreHit (.vadd (.v 1) (.v 2) (.v 3) 0 .n4) 2 = false ∧ vecState.scoreHit (.vsub (.v 1) (.v 2) (.v 3) 0 .n4) 2 = false ∧
    vecState.scoreHit (.vmul (.v 1) (.v 2) (.v 3) 0 .fp32) 4 = false ∧
    (VType.n4.isFloat = false ∧ vecState.scoreHit (.vmin (.v 1) (.v 2) (.v 3) 0 .n4) 2 = false ∧
      vecState.scoreHit (.vmax (.v 1) (.v 2) (.v 3) 0 .n4) 2 = false ∧ vecState.scoreHit (.vabs (.v 1) (.v 2) 0 .n4) 2 = false ∧
      vecState.scoreHit (.vneg (.v 1) (.v 2) 0 .n4) 2 = false) ∧
    (VType.fp16.isFloat = true ∧ vecState.scoreHit (.vmin (.v 1) (.v 2) (.v 3) 0 .fp16) 2 = false ∧
      vecState.scoreHit (.vmax (.v 1) (.v 2) (.v 3) 0 .fp16) 2 = false ∧ vecState.scoreHit (.vabs (.v 1) (.v 2) 0 .fp16) 2 = false ∧
      vecState.scoreHit (.vneg (.v 1) (.v 2) 0 .fp16) 2 = false) ∧
    vecState.scoreHit (.vdiv (.v 1) (.v 2) (.v 3) 0) 12 = false := by decide +kernel

theorem wit_VectorFused : (NarrowFmt.of vecState.ic.nfmtVNow).width ≤ 4 ∧
    vecState.scoreHit (.vfma (.v 1) (.v 2) (.v 3) 0 .n4) 4 = false ∧ vecState.scoreHit (.vfms (.v 1) (.v 2) (.v 3) 0 .n4) 4 = false ∧
    vecState.scoreHit (.vfnma (.v 1) (.v 2) (.v 3) 0 .bf16) 4 = false ∧
    (VType.n8.bits = 8 ∧ VType.n8.isFloat = false ∧ vecState.scoreHit (.vdot4 (.v 1) (.v 2) (.v 3) 0 .n8) 4 = false) ∧
    (VType.e5m2.bits = 8 ∧ VType.e5m2.isFloat = true ∧ vecState.scoreHit (.vdot4 (.v 1) (.v 2) (.v 3) 0 .e5m2) 4 = false) := by
  decide +kernel

theorem wit_VectorLogicAndMoves : (NarrowFmt.of vecState.ic.nfmtVNow).width ≤ 4 ∧
    vecState.scoreHit (.vand (.v 1) (.v 2) (.v 3) 0 .n4) 2 = false ∧ vecState.scoreHit (.vor (.v 1) (.v 2) (.v 3) 0 .n4) 2 = false ∧
    vecState.scoreHit (.vxor (.v 1) (.v 2) (.v 3) 0 .fp32) 2 = false ∧
    (VType.n4.isFloat = false ∧ vecState.scoreHit (.vshl (.v 1) (.v 2) (.v 3) 0 .n4) 2 = false ∧
      vecState.scoreHit (.vshr (.v 1) (.v 2) (.v 3) 0 .n4) 2 = false ∧ vecState.scoreHit (.vsar (.v 1) (.v 2) (.v 3) 0 .n4) 2 = false) ∧
    vecState.scoreHit (.vsel (.v 1) (.v 2) (.v 3) 0 .n4) 2 = false ∧ vecState.scoreHit (.vmov (.v 1) (.v 2) 0 .n4) 2 = false ∧
    vecState.scoreHit (.vbcst (.v 1) (.s 2) 0 .n4) 2 = false := by decide +kernel

theorem wit_PredicateResults : (NarrowFmt.of vecState.ic.nfmtVNow).width ≤ 4 ∧
    (vecState.scoreHit (.vcmp .le 1 (.v 2) (.v 3) 0 .n4) 2 = false ∧ VType.n4.isFloat = false) ∧
    (let s := held 3 [] [(2, 0x7FC00000)]
     s.scoreHit (.vcmp .lt 1 (.v 2) (.v 3) 0 .fp32) 2 = false ∧ VType.fp32.isFloat = true ∧
       (fval .fp32 (s.elem 0 .fp32 (.v 2) 0)).isNan = true ∧ (fval .fp32 (s.elem 0 .fp32 (.v 2) 1)).isNan = false ∧
       (fval .fp32 (s.elem 1 .fp32 (.v 3) 1)).isNan = false) ∧
    vecState.scoreHit (.pand 1 2 3) 2 = false ∧ vecState.scoreHit (.por 1 2 3) 2 = false ∧ vecState.scoreHit (.pxor 1 2 3) 2 = false ∧
    vecState.scoreHit (.pnot 1 2) 2 = false ∧ vecState.scoreHit (.pcnt (.s 1) 2 .n4) 2 = false := by decide +kernel

theorem wit_VectorPermutations :
    (VType.i8.bits ≠ 4 ∧ vecState.scoreHit (.vperm (.v 1) (.v 2) (.v 3) 0 .i8) 2 = false) ∧
    ((Instr.vshuf (.v 1) (.v 2) (.bfly 9) 0 .n4).flaw = none ∧ vecState.scoreHit (.vshuf (.v 1) (.v 2) (.bfly 9) 0 .n4) 2 = false) ∧
    vecState.scoreHit (.vrot (.v 1) (.v 2) (.s 3) 0 .n4) 2 = false := by decide +kernel

theorem wit_VectorReductions : (NarrowFmt.of vecState.ic.nfmtVNow).width ≤ 4 ∧ (Instr.vred (.v 1) (.v 2) .xor 0 .n4).flaw = none ∧
    (Instr.vred (.v 1) (.v 2) .add 0 .fp32).flaw = none ∧ vecState.scoreHit (.vred (.v 1) (.v 2) .add 0 .fp32) 4 = false ∧
    vecState.scoreHit (.vscan (.v 1) (.v 2) .xor 0 .n4) 4 = false := by decide +kernel

theorem wit_VectorConversions : (NarrowFmt.of vecState.ic.nfmtVNow).width ≤ 4 ∧
    vecState.scoreHit (.vcvt (.v 1) (.v 2) .fp32 0 .n4) 3 = false ∧
    ((Instr.vpack (.v 1) (.v 4) .fp32 0 .e4m3).flaw = none ∧ vecState.scoreHit (.vpack (.v 1) (.v 4) .fp32 0 .e4m3) 3 = false) ∧
    ((Instr.vunpk (.v 4) (.v 1) .i8 0 .i32).flaw = none ∧ vecState.scoreHit (.vunpk (.v 4) (.v 1) .i8 0 .i32) 3 = false) ∧
    ((Instr.vaddw (.v 4) (.v 1) (.v 2) 0 .i8).flaw = none ∧ vecState.scoreHit (.vaddw (.v 4) (.v 1) (.v 2) 0 .i8) 2 = false) ∧
    ((Instr.vmulw (.v 4) (.v 1) (.v 2) 0 .bf16).flaw = none ∧ vecState.scoreHit (.vmulw (.v 4) (.v 1) (.v 2) 0 .bf16) 4 = false) := by
  decide +kernel

theorem wit_BitPlanes :
    ((Instr.vpln (.v 1) (.v 2) 15 0 .i16).flaw = none ∧ vecState.scoreHit (.vpln (.v 1) (.v 2) 15 0 .i16) 3 = false) ∧
    ((Instr.vunpl (.v 1) (.v 2) 3 0 .n8).flaw = none ∧ (3 : Fin 16).val + 1 ≤ vecState.nf.width ∧
      vecState.scoreHit (.vunpl (.v 1) (.v 2) 3 0 .n8) 3 = false) := by decide +kernel

theorem wit_VectorFunctions : ([Instr.vrcp (.v 1) (.v 2) 0, .vrsq (.v 1) (.v 2) 0, .vsqrt (.v 1) (.v 2) 0, .vexp2 (.v 1) (.v 2) 0,
      .vlog2 (.v 1) (.v 2) 0].all fun i => !vecState.scoreHit i 12) = true ∧
    ([Instr.vrcpa (.v 1) (.v 2) 0, .vrsqa (.v 1) (.v 2) 0, .vexpa (.v 1) (.v 2) 0].all fun i => !vecState.scoreHit i 6) = true := by
  decide +kernel

theorem wit_DrawsAndMagnitudes : (Instr.vdraw (.v 1) (.v 30) (.s 1) 0).flaw = none ∧
    vecState.scoreHit (.vdraw (.v 1) (.v 30) (.s 1) 0) 6 = false ∧
    (let s := held 3 [] [(2, 0x7FC000003F800000)]
     s.scoreHit (.vamax (.v 2) 0 .fp32) 2 = false ∧ (s.rdP 1 0).getLsbD 0 = true ∧
       (amaxEl .fp32 (s.elem 0 .fp32 (.v 2) 0)).1 = some 0x3F800000 ∧ (amaxEl .fp32 (s.elem 0 .fp32 (.v 2) 1)).2 = true) := by
  decide +kernel

theorem wit_SlotFrames :
    ((Instr.add (.s 1) .ones .ones).homeSlot = some 1 ∧ saOnly (.add (.s 1) .ones .ones) = false ∧
      ∃ t, Commits (.add (.s 1) .ones .ones) (held 1 [] []) t) ∧
    ((Instr.pnot 1 2).homeSlot = some 3 ∧ ∃ t, Commits (.pnot 1 2) vecState t) ∧
    ((Instr.st (.s 1) (.s 2) .d 0).homeSlot = some 5 ∧ ∃ t, Commits (.st (.s 1) (.s 2) .d 0) (memState []) t) :=
  ⟨⟨rfl, rfl, _, rfl, rfl⟩, ⟨rfl, _, rfl, rfl⟩, ⟨rfl, _, rfl, by decide +kernel⟩⟩

/-- SCHK set, and a write of s1 that another bundle made in its shadow. -/
def shadowState : State := onCtx 1 fun x =>
  { x with ctl := { x.ctl with schk := true }, pend := [{ due := 3, issued := 0, slot := 1, what := .s (.s 1) none 5 },
                                                        { due := 3, issued := 0, slot := 3, what := .v [(.v 2, 5)] none }] }

theorem wit_ScoreboardAndFormatFaults :
    (let s := { shadowState with tempo := 1 }
     s.scalarRule (.movo (.so 0) .ones) = some (1, .so 0, 2 ^ 64 - 1) ∧ s.scoreHit (.add (.s 2) (.s 1) (.s 1)) 1 = true ∧
       (s.scalarRule (.add (.s 2) (.s 1) (.s 1))).isSome = true ∧ s.scoreHit (.vadd (.v 1) (.v 2) (.v 3) 0 .i8) 2 = true ∧
       s.ic.ctl.schk = true ∧ s.iss.reentry = false ∧ .s (.s 1) ∈ (Instr.add (.s 2) (.s 1) (.s 1)).srcs ∧ sIsReg (.s 1) = true ∧
       (s.ic.pend.any fun l => l.issued != s.tempo && l.what.destS == some (.s 1)) = true) ∧
    (let s := { shadowState with tempo := 1 }
     .v (.v 2) ∈ (Instr.vadd (.v 1) (.v 2) (.v 3) 0 .i8).srcs ∧ vIsReg (.v 2) = true ∧
       (s.ic.pend.any fun l => l.issued != s.tempo && l.what.destV.contains (.v 2)) = true ∧
       .s (.s 1) ∈ (Instr.add (.s 1) .ones .ones).dsts ∧ .v (.v 2) ∈ (Instr.vmov (.v 2) (.v 3) 0 .i8).dsts ∧
       (s.ic.pend.any fun l => l.what.destS == some (.s 1) && decide (s.tempo + 1 ≤ l.due)) = true) ∧
    (let s := { onCtx 3 (fun x => { x with ctl := { x.ctl with schk := true }, pend := [{ due := 3, issued := 0, slot := 3, what := .p 2 5 }] })
       with tempo := 1 }
     .p 2 ∈ (Instr.pnot 1 2).srcs ∧ .p 2 ∈ (Instr.pnot 2 1).dsts ∧ (2 : Fin 8) ≠ 0 ∧
       (s.ic.pend.any fun l => l.issued != s.tempo && l.what.destP == some 2 && decide (s.tempo + 2 ≤ l.due)) = true) ∧
    (held 3 [] []).ic.ctl.schk = false ∧
    (latencyOf (.vadd (.v 1) (.v 2) (.v 3) 0 .n4) = some 2 ∧ .n4 ∈ numTypesOf (.vadd (.v 1) (.v 2) (.v 3) 0 .n4) ∧
      (held 3 [] []).scoreHit (.vadd (.v 1) (.v 2) (.v 3) 0 .n4) 2 = false ∧ 4 < (held 3 [] []).nf.width) := by decide +kernel

/-! ## Handler forms -/

/-- A region that is a root of its own, with the budget given. -/
def wregion : Region :=
  { id := 1, rcb := 0x1000, parent := none, root := 1, queue := 0, part := 0, asid := 0, gen := 0, order := 0, leaf := false, kernel := 0,
    layer := 0,
    eff := { budt := 100, budc := 1, budm := 0, prio := 0, fixed := false, pinv := false, adjn := false, rsgn := false,
             dom := { hent := 0, sent := 0, bench := 0, rimg := 0, owner := 0x1000, asid := 0 }, adja := 0, sava := 0 },
    preds := [], due := some 0, children := [], state := .queued, cause := 0, detail := 0, kill := 0, startT := none, endT := none,
    tasksEnded := 0, tasksAll := 1, tasksBegun := 0, gang := none, update := false, saved := none, mute := false }

/-- What a context frozen with serial 5 holds, under a capability with check bits 9 where given. -/
def frozen0 (cap : Option Nat) : Frozen :=
  { serial := 5, at_ := 0, cause := 0x50, detail := 0, slot := 0, faddr := 0, chain := 0, link := 0, aux := 0, unit := 0, ftt := 0,
    deferred := false, ovf := false, heldGang := false, items := [], late := [], kept := [], drn := false, cap := cap, sup := false,
    host := false, test := 0, resume := none, testing := false, written := true }

/-- Context 2 is frozen, and context 0 at slot sa, of the kind and level given, holds a capability for it in h0. -/
def handlerState (kind : Kind) (level : Fin 3) (cap : Option Nat) : State :=
  (onCtx 1 fun x => { x with ctl := { x.ctl with kind := kind, level := level },
                             caps := x.caps.set 0 (some { part := 0, target := 2, serial := 5, check := 9 }) }).mapCtx 2
    fun x => { x with run := .frozen, frz := some (frozen0 cap) }

theorem wit_HandlerForms :
    (let s := handlerState .second 1 (some 9)
     s.ic.ctl.kind = .second ∧ s.ic.caps[(0 : Fin 4)] = some { part := 0, target := 2, serial := 5, check := 9 } ∧
       (s.ctx 2).frz = some (frozen0 (some 9)) ∧ (s.ctx 2).part = 0 ∧ s.scoreHit (.frd (.s 1) 0 (.s 61)) 2 = false ∧
       (s.scoreHit (.fwr (.s 1) 0 (.rstk 7)) 2 = false ∧ s.fwrOk 2 (.rstk 7) (s.rdS 0 (.s 1)) = true) ∧
       (s.scoreHit (.fwr (.s 1) 0 (.recd 31)) 2 = false ∧ s.fwrOk 2 (.recd 31) (s.rdS 0 (.s 1)) = false) ∧
       (s.scoreHit (.fres 0) 2 = false ∧ (s.core (coreOf 2)).retired = false) ∧ s.scoreHit (.fresPc (.s 1) 0) 2 = false ∧
       s.scoreHit (.fkill (.s 1) 0) 2 = false ∧ (s.scoreHit (.fpassSup (.s 1) 0) 2 = false ∧ s.ic.ctl.level ≠ 2) ∧
       s.scoreHit (.fpassHost (.s 1) 0) 2 = false ∧ s.scoreHit (.fstat (.s 1) 0) 2 = false) ∧
    (let s := (handlerState .second 2 (some 9)).mapCore 1 fun k => { k with retired := true }
     (s.core (coreOf 2)).retired = true ∧ s.ic.ctl.level = 2) ∧
    (let s := handlerState .second 1 none
     s.ic.caps[(0 : Fin 4)] ≠ none ∧ s.ic.caps[(3 : Fin 4)] = none ∧ s.scoreHit (.frd (.s 1) 3 .depth) 2 = false ∧
       s.scoreHit (.fwr (.s 1) 3 .depth) 2 = false ∧ s.scoreHit (.fres 3) 2 = false ∧ s.scoreHit (.fkill (.s 1) 3) 2 = false ∧
       s.scoreHit (.fpassHost (.s 1) 3) 2 = false ∧ (s.ctx 2).frz.map (·.cap) = some none) ∧
    (handlerState .primary 0 none).ic.ctl.kind ≠ .second ∧
    (let l : Landing := { due := 0, issued := 0, slot := 1, what := .fres 2 none }
     let s := (handlerState .second 1 (some 9)).mapCtx 0 fun x => { x with pend := [l] }
     (s.ctx 0).pend = [l] ∧ l.due ≤ s.tempo ∧ (s.core (coreOf 0)).lk = [] ∧ (s.ctx 2).frz = some (frozen0 (some 9)) ∧
       (frozen0 (some 9)).cap ≠ none) := by decide +kernel

/-- A second at whose context one effect is due, on a thread frozen in context 2 that is a member of an elastic gang of two. -/
def handlerLands (w : LandWhat) : State :=
  let s := (handlerState .second 1 (some 9)).mapCtx 0 fun x => { x with pend := [{ due := 0, issued := 0, slot := 1, what := w }] }
  (s.mapCtx 2 fun x => { x with gang := some 0 }).setGang 0 { fetchGang 0 with members := [2, 4], alive := 2, region := 1 }

theorem wit_HandlerForms_lands : (∀ w ∈ [LandWhat.fres 2 (some 5), .fwr 2 (.s 47) 5, .fwr 2 (.g 23) 5, .fwr 2 (.rstk 7) 5, .fwr 2 .depth 8,
      .fpass 2 false 1, .fpass 2 true 1, .hmov 1 0 true false],
    let s := handlerLands w
    (s.ctx 0).pend = [{ due := 0, issued := 0, slot := 1, what := w }] ∧ 0 ≤ s.tempo ∧ s.paused 0 = false ∧ (0 : CtxId) ≠ 2 ∧ (s.core (coreOf 0)).lk = [] ∧
      (s.ctx 2).frz = some (frozen0 (some 9)) ∧ (frozen0 (some 9)).cap ≠ none ∧ s.mem.wf = true) ∧
    (let s := (handlerLands (.fkill 2 7)).setRegion 1 wregion
     (s.ctx 2).ctl.kind ≠ .second ∧ (s.ctx 2).elas = [] ∧ s.cmdsOf 2 = [] ∧ (s.ctx 2).gang = some 0 ∧
       (s.gang? 0).map (fun y => (y.kernel.tlen, y.waitStart, y.alive, y.region)) = some (none, false, 2, 1) ∧
       s.region? 1 = some wregion ∧ (s.ctx 2).frz = some (frozen0 (some 9))) ∧
    (let s := handlerState .second 1 (some 8)
     s.ic.ctl.kind = .second ∧ s.ic.caps[(0 : Fin 4)] = some { part := 0, target := 2, serial := 5, check := 9 } ∧
       s.scoreHit (.fstat (.s 1) 0) 2 = false ∧ (s.ctx 2).frz.map (·.cap) = some (some 8) ∧ lookupD 2 (s.part s.ic.part).spent 5 = 2) := by
  decide +kernel

/-! ## The mx slot -/

/-- Link l of a chain, hosted by member 0 in slot l. -/
def link0 (slot : Fin 8) (state : LinkState) (held : LinkState) : ChainLink :=
  { core := 0, slot := slot, count := 1, hop := 0, spare := false, used := false, state := state, held := held, landed := 0, hopr := false,
    shadow := none, slost := false, reason := 0, resend := false }

/-- A chain of gang 0 with the links given, all of its entries but the last `spares` being links. -/
def chain0 (links : List ChainLink) (spares : Nat) : Chain :=
  { uid := 0, born := 0, freed := none, gang := 0, id := 0, owner := 0, ofmt := 0, anchor := 0, pm1 := 0, bias := 0, scale := 0x3F800000,
    rstr := 128, baddr := 0, nlink := links.length - spares, links := links, close := none, frozen := false, flink := 0, freason := 0,
    ftempo := 0, fcrc := false }

/-- Slot mx or xe of the one member of gang 0, with staging registers and, where given, its chain, whose slots it owns. -/
def chainState (k : Fin 8) (gs : List (Fin 24 × Word)) (ch : Option Chain) : State :=
  let s := inGang0 id fun x => { x with regs := { x.regs with g := gs.foldl (fun g w => g.set w.1 w.2) x.regs.g } }
  let s := match ch with
    | some ch => ch.links.foldl (fun (s : State) l => s.setSlot ch l { tile := [], owner := some 0 }) (s.setChain 0 ch)
    | none => s
  { s with iss := { s.iss with slot := k } }

theorem wit_ArrayInstructions :
    (let ch := chain0 [link0 0 .open_ .free] 0
     let s := chainState 6 [(16, 0), (17, 0x10000), (18, 64), (19, 2)] (some ch)
     let msk := s.half false 2
     s.arrayClass (mskLat msk) = true ∧ s.myChain 0 = some ch ∧ (0 : Fin 64).val < ch.nlink ∧ ch.link? 0 = some (link0 0 .open_ .free) ∧
       s.hostCore ch (link0 0 .open_ .free) = coreOf s.iss.ctx ∧ ch.frozen = false ∧
       (link0 0 .open_ .free).landed + (s.core 0).mmasInFlight ch.uid 0 < (link0 0 .open_ .free).count ∧
       (spanBase (s.half false 0) % 64 = 0 ∧ spanStride (s.half false 0) % 64 = 0 ∧ (spanOf (s.half false 0) (mskK msk) false).2 ≤ 0x3FFFFF) ∧
       (spanBase (s.half false 1) % 64 = 0 ∧ spanStride (s.half false 1) % 64 = 0 ∧ (spanOf (s.half false 1) (mskK msk) false).2 ≤ 0x3FFFFF) ∧
       mskA2 msk = false ∧ mskB2 msk = false ∧ 0 < mskK msk ∧ mskK msk % 64 = 0 ∧ mskK msk ≤ 8192 ∧ mskPa msk = 1 ∧ mskPb msk = 1 ∧
       mskLat msk = false ∧
       s.operandRace [spanOf (s.half false 0) (mskK msk) false, spanOf (s.half false 1) (mskK msk) false] = none ∧
       (s.core 0).arrayWaiting < 8 ∧ mskK msk ≤ 256 ∧ s.operandRace [spanOf (s.half false 0) (mskK msk) false] = none ∧
       s.ic.ctl.kind = .primary) ∧
    (let s := inGang0 (fun g => { g with kernel := { g.kernel with tlen := some 100 } })
       fun x => { x with regs := { x.regs with g := x.regs.g.set 19 2 } }
     s.timedPrimary s.iss.ctx = true ∧ s.ttempo s.iss.ctx + 2 ≤ (s.half false 3).toNat % 2 ^ 32 ∧
       (s.core (coreOf s.iss.ctx)).arrayFree ≤ s.tempo + ((s.half false 3).toNat % 2 ^ 32 - s.ttempo s.iss.ctx)) ∧
    (let s := (chainState 6 [(18, 0x10000040)] none).mapCore 0 fun k => { k with latch := { k.latch with valid := true, k := 64, pa := 1 } }
     mskLat (s.half false 2) = true ∧ s.latchAfter 0 = some (mskK (s.half false 2), mskPa (s.half false 2))) ∧
    (held 6 [] []).scoreHit (.mfmt (.s 1)) 2 = false ∧
    (let s := onCtl fun k => { k with kind := .second }
     s.ic.ctl.kind = .second ∧ s.scoreHit (.lkr 31 7 31) 4 = false ∧ s.scoreHit (.lkw 31 7 31) 4 = false) ∧
    ((chainState 6 [] none).ic.ctl.kind = .primary ∧ (chainState 6 [] none).myChain 63 = none) ∧
    (let ch := { chain0 [link0 0 .open_ .free] 0 with frozen := true }
     let s := chainState 6 [] (some ch)
     s.myChain 0 = some ch ∧ ch.nlink ≤ (1 : Fin 64).val ∧ (0 : Fin 64).val < ch.nlink ∧
       ch.link? 0 = some (link0 0 .open_ .free) ∧ s.hostCore ch (link0 0 .open_ .free) = coreOf s.iss.ctx ∧ ch.frozen = true) ∧
    (onCtl fun k => { k with kind := .secondary }).ic.ctl.kind ≠ .primary := by decide +kernel

/-- A descriptor of one link of one product on member 0, close format FP32, row distance 128, at address 64. -/
def descrState : State :=
  let s := inGang0 id fun x => { x with regs := x.regs.setS (.s 1) 64, spr := { x.spr with gsize := 1 } }
  s.setMem (writeN (writeN s.mem (keyScratch 0 64) 32 (128 * 2 ^ 96 + 0x3F800000 * 2 ^ 64)) (keyScratch 0 96) 8 0x10000)

theorem wit_ChainIsBuilt :
    let s := descrState
    let a := (s.rdS 0 (.s 1)).toNat
    let key := keyScratch (coreOf s.iss.ctx) a
    let h := readN s.mem key 32
    let n := hdrByte h 1 1 % 64 + 1 + hdrByte h 2 1
    let entries := (List.range n).map fun i => readN s.mem (key + 32 + 8 * i) 8
    let u := (s.ic.hold.bind (·.chb)).getD s.fresh
    s.scoreHit (.chb (.s 1)) 1 = false ∧ a % 32 = 0 ∧ a + 32 + 8 * n ≤ 0x400000 ∧ s.ic.gang = some 0 ∧ s.chains = [] ∧
      descriptorOk h entries s.ic.spr.gsize.toNat = true ∧
      ((entries.map entryOf).all fun e => (s.slotOf (chainFrom s u 0 h entries) e).owner.isNone &&
        !s.slotOut (chainFrom s u 0 h entries) e) = true := by decide +kernel

theorem wit_ChainInstructions :
    (let ch := chain0 [link0 0 .open_ .free] 0
     let s := chainState 6 [] (some ch)
     s.scoreHit (.chc 0 .zero 63) 1 = false ∧ s.tagBusy s.iss.ctx 63 = false ∧ s.myChain 0 = some ch ∧ s.chain? ch.uid = some ch ∧
       ch.link? (ch.nlink - 1) = some (link0 0 .open_ .free) ∧ s.ic.spr.lidx.toNat = (link0 0 .open_ .free).core ∧ ch.close = none ∧
       (s.rdS 0 .zero).toNat % (if ch.ofmt < 6 then 32 else 64) = 0 ∧
       (s.rdS 0 .zero).toNat + 31 * ch.rstr + rowBytes ch.ofmt ch.pm1 ≤ 0x400000 ∧ 4 * biasCount ch.bias = 0 ∧
       s.scoreHit (.chs 0 .zero 63) 1 = false ∧ (s.rdS 0 .zero).toNat % 16 = 0 ∧
       (s.rdS 0 .zero).toNat + 16 + 8 * ch.links.length ≤ 0x400000 ∧ ch.freed = none ∧
       ((ch.links.any fun e => !e.spare && e.state != .closed) = true)) ∧
    (let sp := { link0 1 .free .free with spare := true }
     let ch := { chain0 [link0 0 .faulted .open_, sp] 1 with frozen := true }
     let s := (chainState 6 [] (some ch)).mapCtx 0 fun x => { x with regs := x.regs.setS (.s 1) 1 }
     s.scoreHit (.chp 0 0 (.s 1)) 1 = false ∧ s.myChain 0 = some ch ∧ s.chain? ch.uid = some ch ∧ ch.frozen = true ∧
       (0 : Fin 64).val < ch.nlink ∧ ch.link? 0 = some (link0 0 .faulted .open_) ∧ ch.nlink ≤ (s.rdS 0 (.s 1)).toNat ∧
       ch.link? (s.rdS 0 (.s 1)).toNat = some sp ∧ sp.used = false ∧ (s.slotOf ch sp).owner = some ch.uid ∧
       ch.restorable (0 : Fin 64).val = true) ∧
    (let k := { link0 0 .sent .free with shadow := some [5] }
     let ch := chain0 [k, link0 1 .open_ .free] 0
     let s := chainState 6 [] (some ch)
     s.myChain 0 = some ch ∧ s.chain? ch.uid = some ch ∧ ch.link? 0 = some k ∧ k.spare = false ∧ k.shadow = some [5] ∧
       ch.frozen = false ∧ k.state = .sent ∧ ch.link? 1 = some (link0 1 .open_ .free)) ∧
    (let k := { link0 0 .frozen .sent with shadow := some [5] }
     let ch := { chain0 [k, link0 1 .faulted .open_] 0 with frozen := true }
     let s := chainState 6 [] (some ch)
     s.myChain 0 = some ch ∧ s.chain? ch.uid = some ch ∧ ch.link? 0 = some k ∧ k.shadow = some [5] ∧ ch.frozen = true ∧
       k.state = .frozen ∧ k.held = .sent) ∧
    (let ch := chain0 [link0 0 .closed .free] 0
     let s := chainState 6 [] (some ch)
     s.myChain 0 = some ch ∧ s.chain? ch.uid = some ch ∧ ch.freed = none ∧
       (ch.links.all fun e => e.spare || e.state == .closed) = true ∧ ch.close = none) ∧
    (chainState 6 [] none).myChain 0 = none := by decide +kernel

/-- A chain that a CHF has freed, and whose id is not free yet. -/
theorem wit_ChainInstructions_freed :
    let ch := { chain0 [link0 0 .open_ .free] 0 with freed := some 2 }
    let s := chainState 6 [] (some ch)
    s.scoreHit (.chc 0 .zero 63) 1 = false ∧ s.tagBusy s.iss.ctx 63 = false ∧ s.myChain 0 = some ch ∧ s.chain? ch.uid = some ch ∧
      ch.close = none ∧ ch.freed.isSome = true := by decide +kernel

/-! ## The xe slot -/

theorem wit_ExchangeCommandsEnter_xcp :
    let s := chainState 7 [(0, 0), (1, 0x3FFFC0), (2, 64)] none
    let x := s.sideOf 0 none (s.xs 0 0) [] 64
    let y := s.sideOf 0 none (s.xs 0 1) [] 64
    (s.xs 0 2).toNat % 2 ^ 32 ≠ 0 ∧ sidesCheck x y (s.xs 0 1) = none ∧ s.tagBusy 0 63 = false ∧ s.spanRace y.1.foot = false ∧
      s.spanRace none = false ∧ s.timedPrimary 0 = false ∧ s.atReg 0 false 3 = none := by
  decide +kernel

theorem wit_ExchangeCommandsEnter_xcpEmpty :
    let s := chainState 7 [(0, 0x4000001), (1, 0x3FFFFF)] none
    (s.xs 0 2).toNat % 2 ^ 32 = 0 ∧
      (((s.sideOf 0 (xcpMember (s.xs 0 2) 52 false) (s.xs 0 0) [] 1).2 ++ (s.sideOf 0 (xcpMember (s.xs 0 2) 40 false) (s.xs 0 1) [] 1).2).all
        fun f => f.1 == 4 || f.1 == 8) = true ∧
      s.tagBusy 0 0 = false ∧ s.spanRace none = false ∧ s.timedPrimary 0 = false := by
  decide +kernel

theorem wit_ExchangeCommandsEnter_xcnv :
    let s := chainState 7 [(0, 0x4000), (1, 0x8000), (2, 2 ^ 48 + 2 ^ 32 + 2 ^ 8 + 2 ^ 4 + 3), (3, 0)] none
    let k := cnvOf [s.xs 0 0, s.xs 0 1, s.xs 0 2, s.xs 0 3]
    let x := s.sideOf 0 none (s.xs 0 0) [(max k.rows 1, (k.sstd : Int))] (k.groupBytes false * max k.ng 1)
    let y := s.sideOf 0 none (s.xs 0 1) [(max k.rows 1, (k.dstd : Int))] (k.groupBytes (!false) * max k.ng 1)
    sidesCheck x y (s.xs 0 1) = none ∧ (s.xs 0 0).toNat % 64 = 0 ∧ k.sstd % 64 = 0 ∧ (s.xs 0 1).toNat % 64 = 0 ∧ k.dstd % 64 = 0 ∧
      k.legal false = true ∧ s.tagBusy 0 0 = false ∧ s.spanRace y.1.foot = false := by
  decide +kernel

theorem wit_ExchangeCommandsEnter_xcpr :
    let s := (chainState 7 [(0, 0x100000000), (1, 0x1000)] none).mapCtx 0 fun x => { x with record := .got 0 }
    recordNamed (s.xs 0 0) = true ∧ s.ic.record = .got 0 ∧ recordOk 0 = true ∧
      sidesCheck (s.recordSides 0 0 (s.xs 0 1)).1 (s.recordSides 0 0 (s.xs 0 1)).2 (s.xs 0 1) = none ∧
      s.tagBusy 0 0 = false ∧ s.spanRace (s.recordSides 0 0 (s.xs 0 1)).2.1.foot = false := by
  decide +kernel

theorem wit_ExchangeCommandsEnter_xpf :
    ((chainState 7 [] none).ic.ctl.kind = .primary ∧ (chainState 7 [] none).tagBusy 0 0 = false ∧
     (chainState 7 [] none).spanRace (footOf (.chamber true) 0 131072) = false) := by
  decide +kernel

theorem wit_ExchangeCommandsEnter_xpfClass :
    (onCtl fun k => { k with kind := .secondary }).ic.ctl.kind ≠ .primary := by
  decide +kernel

theorem wit_ExchangeCommandsEnter_xrte :
    let s := chainState 7 [(0, 0), (1, 0x1000), (2, 0x2000), (3, 0x3000), (4, 0x3100), (5, 1), (6, 16 * 2 ^ 32)] none
    let r := routeOf ((List.range 7).map fun i => s.xs 0 i)
    let x := s.partsSide 0 [(r.ids, 2 * r.t), (r.caps, 4 * r.x)]
    let y := s.partsSide 0 [(r.out, r.x * r.lstd), (r.cnt, 4 * r.x + 4), (r.drop, 4 * r.t)]
    sidesCheck x y r.out = none ∧ r.ids.toNat % 2 = 0 ∧ r.caps.toNat % 4 = 0 ∧ r.out.toNat % 4 = 0 ∧ r.cnt.toNat % 4 = 0 ∧
      r.drop.toNat % 4 = 0 ∧ r.x ≤ 4096 ∧ 0 < r.t ∧ r.t ≤ 2 ^ 24 ∧ r.lstd % 4 = 0 ∧ s.tagBusy 0 0 = false ∧
      s.spanRace y.1.foot = false := by
  decide +kernel

theorem wit_ExchangeCommandsEnter_timed :
    let e : TimeEntry := { sub := 0, desc := false, rcv := 1, snd := 0, off := 2, dead := false }
    let s := inGang0 (fun g => { g with kernel := { g.kernel with tlen := some 4096, times := [e, { e with rcv := 0, snd := 1 }] } })
      fun x => { x with regs := { x.regs with g := (x.regs.g.set 1 2).set 3 (66 + 2 ^ 32) } }
    s.timedPrimary s.iss.ctx = true ∧ s.tagBusy s.iss.ctx 0 = false ∧ timedCount (s.xs 0 1) = 1 ∧
      (s.xs 0 0).toNat + 256 ≤ 0x400000 ∧ (s.xs 0 0).toNat % 32 = 0 ∧ s.cmdsOf s.iss.ctx = [] ∧
      (entriesOk true s.ic.spr.lidx.toNat [e] 1 = true ∧ ((s.timesOf 0).drop (timedEntry (s.xs 0 1))).take 1 = [e] ∧
        s.ttempo s.iss.ctx + 2 ≤ (s.xs 0 1).toNat % 2 ^ 32 ∧ e.off + 0 = (s.xs 0 1).toNat % 2 ^ 32) ∧
      (entriesOk false s.ic.spr.lidx.toNat [{ e with rcv := 0, snd := 1 }] 1 = true ∧
        ((s.timesOf 0).drop (timedEntry (s.xs 2 1))).take 1 = [{ e with rcv := 0, snd := 1 }] ∧
        s.ttempo s.iss.ctx + 2 ≤ (s.xs 2 1).toNat % 2 ^ 32 ∧ e.off + 64 = (s.xs 2 1).toNat % 2 ^ 32 ∧
        s.spanRace (footOf (.scratch 0) 0 256) = false) := by
  decide +kernel

theorem wit_ExchangeCommandsEnter_xwr :
    let s := chainState 7 [(0, 0x4000100000000), (1, 0x3FFF00), (2, 255)] none
    let x := s.sideOf 0 none (s.xs 0 0) [] 256
    let y := ladrSide 0 (s.xs 0 1) 256
    (s.xs 0 2).toNat % 256 + 1 = 256 ∧ sidesCheck x y (s.xs 0 0) = none ∧ sidesCheck x y (s.xs 0 1) = none ∧
      (s.xs 0 0).toNat % 256 + 256 ≤ 256 ∧ s.tagBusy 0 0 = false ∧ s.spanRace x.1.foot = false ∧ s.spanRace y.1.foot = false := by
  decide +kernel

theorem wit_ExchangeCommandsEnter_xatm :
    let s := chainState 7 [(0, 0x4000100000000), (3, 0x3FFFF8), (4, 0)] none
    let n := if fld (s.xs 0 4).toNat 6 2 = 1 then 8 else 4
    let x := s.sideOf 0 none (s.xs 0 0) [] n
    let y := ladrSide 0 (s.xs 0 3) 8
    sidesCheck x y (s.xs 0 3) = none ∧ (s.xs 0 0).toNat % n = 0 ∧ (s.xs 0 3).toNat % 8 = 0 ∧ atomOf (s.xs 0 4).toNat ≠ none ∧
      s.tagBusy 0 0 = false ∧ s.spanRace x.1.foot = false ∧ s.spanRace y.1.foot = false := by
  decide +kernel

theorem wit_ExchangeCommandsEnter_tagFault :
    ((chainState 7 [] none).setCmds 0 [Cmd.new 0 .xpf State.reset]).tagBusy 0 0 = true := by
  decide +kernel

/-! ## Events of a context -/

/-- Partition 0 has 64 MiB of device memory and key 0, and address space 0 maps 64 MiB at 2^32 by one leaf, whose low bits are given: a
root at 0x80000 and a table of level 2 at 0x40000 (R214). -/
def mapped (leaf : Nat) (s : State) : State :=
  let s1 := s.setPart 0 { Part.reset with
    pclus := 1, pkeys := 0x10000, pmem := Part.reset.pmem.set 0 (BitVec.ofNat 64 (2 ^ 32))
    asids := [{ root := 0x80000, pasid := 0, func := 0, asid := 0, sroff := 0, srcnt := 4 }] }
  let s2 := (s1.setDie 0 { Die.reset with inService := true, stackUp := true }).setMem
    (writeN (writeN s1.mem 0x80000 8 0x40001) 0x40200 8 leaf)
  { s2 with pkg := { s2.pkg with bstate := 2, keys := [(0, 1)], peers := [1] } }

/-- An elastic access with its operation. -/
def elastic0 (va : Word) (o : AccOp) : Elastic :=
  { id := 7, pc := 0, tag := 63, issued := 0, va := va, ops := [], op := o, bytes := 8, stopped := false, banked := false, tgt := none }

def elasticState (leaf : Nat) (e : Elastic) : State := { mapped leaf (onCtx 5 fun x => { x with elas := [e] }) with tempo := 9 }

/-- The same where device memory was written under the key of its page. -/
def ownedState (leaf : Nat) (e : Elastic) : State :=
  let s := elasticState leaf e
  { s with pkg := { s.pkg with blockKey := [(0, 1)] } }

/-- Device memory at key 0. -/
def dev0 : Tgt := { key := 0, pa := 0, dev := true, host := false, kid := 0, knum := 1, cached := true }

theorem wit_ElasticAccessesComplete_here : ∀ op ∈ [AccOp.load 0x100000000 8 false (.s 1), .store 0x100000000 8 5,
      .atom 0x100000000 .add .i64 5 0 (.s 1)],
    let e := elastic0 0x100000000 op
    let s := ownedState 0x1F e
    s.setsOut 0 e ∧ s.walkOpen 0 e ∧ (s.elasticHome 0 e).toOption = some dev0 ∧ s.atHome 0 dev0 8 true ∧ s.plainAt 0 dev0 8 := by
  simp only [State.setsOut, State.walkOpen, State.atHome, State.plainAt]
  decide +kernel

/-- The same in the context's own scratchpad, where an access does not walk. -/
theorem wit_ElasticAccessesComplete_local : ∀ op ∈ [AccOp.load 0x3FFFF8 8 true .ones, .store 0x3FFFF8 8 5],
    let e := elastic0 0x3FFFF8 op
    let s := elasticState 0 e
    let t := localTgt (keyScratch 0 0x3FFFF8)
    s.setsOut 0 e ∧ e.walks = false ∧ s.walkOpen 0 e ∧ (s.elasticHome 0 e).toOption = some t ∧ s.atHome 0 t 8 true ∧ s.plainAt 0 t 8 := by
  simp only [State.setsOut, State.walkOpen, State.atHome, State.plainAt]
  decide +kernel

/-- The root table lies at die 1, beyond a segment that is retired. -/
theorem wit_ElasticAccessesComplete_walkDead :
    let e := elastic0 0x100000000 (.load 0x100000000 8 false (.s 1))
    let s := (elasticState 0x1F e).mapPart 0 fun p => { p with asids := p.asids.map fun a => { a with root := 2 ^ 36 } }
    let s : State := { s with pkg := { s.pkg with dead := [(0, s.routeDesc 0 1, false)] } }
    s.setsOut 0 e ∧ e.walks = true ∧ s.walkDead (coreOf 0) (s.ctx 0).part (s.ctx 0).spr.asid e.va.toNat = true := by
  simp only [State.setsOut]
  decide +kernel

/-- The page lies at die 1. -/
theorem wit_ElasticAccessesComplete_away :
    let e := elastic0 0x100000000 (.load 0x100000000 8 false (.s 1))
    let s := elasticState (2 ^ 36 + 0x1F) e
    let s := (s.setDie 1 { Die.reset with inService := true, stackUp := true }).mapPart 0 fun p =>
      { p with pmem := p.pmem.set 1 (BitVec.ofNat 64 (2 ^ 32)) }
    s.setsOut 0 e ∧ s.walkOpen 0 e ∧ (s.elasticHome 0 e).toOption.map (fun t => decide (dieOfTgt t ≠ dieOf (coreOf 0))) = some true := by
  simp only [State.setsOut, State.walkOpen]
  decide +kernel

theorem wit_ElasticAccessesComplete_ecc :
    let e := elastic0 0x40 (.load 0x40 8 false (.s 1))
    let s : State := { elasticState 0 e with bad := [keyScratch 0 0x40] }
    let t := localTgt (keyScratch 0 0x40)
    s.setsOut 0 e ∧ s.walkOpen 0 e ∧ (s.ctx 0).frz = none ∧ (s.elasticHome 0 e).toOption = some t ∧ s.atHome 0 t 8 false ∧
      s.eccAt t.key (t.key + e.bytes - 1) = some (keyScratch 0 0x40) := by
  simp only [State.setsOut, State.walkOpen, State.atHome]
  decide +kernel

theorem wit_ElasticAccessesComplete_fault :
    let e := elastic0 0x100000000 (.store 0x100000000 8 5)
    let s := elasticState 0x17 e
    s.setsOut 0 e ∧ s.walkOpen 0 e ∧ (s.ctx 0).frz = none ∧ (s.elasticHome 0 e).toOption = none := by
  simp only [State.setsOut, State.walkOpen]
  decide +kernel

/-- The first contribution of a stream of one, of shared scratch and of device memory. -/
theorem wit_ElasticAccessesComplete_aordWhole :
    (let e := elastic0 0x4000008 (.aord 0x4000008 false 0 1 5)
     let s := elasticState 0 e
     let t := localTgt 0x8000000008
     s.setsOut 0 e ∧ s.walkOpen 0 e ∧ (s.elasticHome 0 e).toOption = some t ∧ s.atHome 0 t 8 false ∧ s.plainAt 0 t 8 ∧
       (s.die (dieOfKey t.key)).streams = [] ∧ s.queueFull (s.ctx 0).part t = false) ∧
    (let e := elastic0 0x100000000 (.aord 0x100000000 false 0 1 5)
     let s := ownedState 0x1F e
     let t := dev0
     s.setsOut 0 e ∧ s.walkOpen 0 e ∧ (s.elasticHome 0 e).toOption = some t ∧ s.atHome 0 t 8 false ∧ s.plainAt 0 t 8 ∧
       (s.die (dieOfKey t.key)).streams = [] ∧ s.queueFull (s.ctx 0).part t = false) := by
  simp only [State.setsOut, State.walkOpen, State.atHome, State.plainAt]
  repeat' apply And.intro
  all_goals decide +kernel

/-- A contribution that comes before its turn. -/
theorem wit_ElasticAccessesComplete_aordHeld :
    let e := elastic0 0x4000008 (.aord 0x4000008 false 1 2 5)
    let s := elasticState 0 e
    let t := localTgt 0x8000000008
    s.setsOut 0 e ∧ s.walkOpen 0 e ∧ (s.elasticHome 0 e).toOption = some t ∧ s.atHome 0 t 8 false ∧ s.plainAt 0 t 8 ∧
      (s.die (dieOfKey t.key)).streams = [] ∧ (1 : BitVec 32) ≠ 0 ∧ (1 : BitVec 32).toNat < (2 : BitVec 32).toNat := by
  simp only [State.setsOut, State.walkOpen, State.atHome, State.plainAt]
  repeat' apply And.intro
  all_goals decide +kernel

/-- A stream of 3 contributions in shared scratch, of which the first has been applied. -/
def stream0 : Stream := { part := 0, asid := 0, key := 0x8000000008, count := 3, next := 1, held := [], fl := false, gangs := [] }

def streamState (n count : BitVec 32) : State :=
  (elasticState 0 (elastic0 0x4000008 (.aord 0x4000008 false n count 5))).mapDie 0 fun d => { d with streams := [stream0] }

/-- A contribution that contradicts its stream: in its count, past its end, or one that was applied. -/
theorem wit_ElasticAccessesComplete_aordBad :
    (let s := streamState 1 2
     let e := elastic0 0x4000008 (.aord 0x4000008 false 1 2 5)
     let t := localTgt 0x8000000008
     s.setsOut 0 e ∧ s.walkOpen 0 e ∧ (s.ctx 0).frz = none ∧ (s.elasticHome 0 e).toOption = some t ∧ s.atHome 0 t 8 false ∧
       s.plainAt 0 t 8 ∧ (s.die (dieOfKey t.key)).streams = [stream0] ∧ stream0.part = (s.ctx 0).part ∧
       stream0.asid = (s.ctx 0).spr.asid ∧ stream0.key = t.key ∧ stream0.held.length < 256) ∧
    (2 : BitVec 32) ≠ stream0.count ∧ stream0.count.toNat ≤ (3 : BitVec 32).toNat ∧
    (0 : BitVec 32).toNat < stream0.next.toNat := by
  simp only [State.setsOut, State.walkOpen, State.atHome, State.plainAt]
  repeat' apply And.intro
  all_goals decide +kernel

/-- Context 0 in the one gang, with full service, at tempo n. -/
def gangState (n : Nat) (f : Gang → Gang) (g : Ctx → Ctx) : State :=
  let s := inGang0 f g
  { s with tempo := n, pkg := { s.pkg with bstate := 2 } }

theorem wit_ContextEvents_hold :
    let h : Hold := { since := 0, met := true, go := false, mask := none, rest := false }
    let s := gangState 1 id fun x => { x with hold := some h }
    (s.ctx 0).hold = some h ∧ h.met = true ∧ h.go = false ∧ s.mayPresent 0 = true ∧ s.recordDue 0 = false ∧
      (s.atBundle 0).holdReady h.since = .go := by decide +kernel

theorem wit_ContextEvents_target :
    let s := gangState 1 id fun x => { x with ctl := { x.ctl with pbv := true, dly := true, pbt := 8319 } }
    s.mayPresent 0 = true ∧ (s.ctx 0).ctl.pbv = true ∧ (s.ctx 0).ctl.dly = true ∧ s.resultsLanded 0 = true := by decide +kernel

theorem wit_ContextEvents_barrier :
    let s := gangState 32 id id
    s.gang? 0 = some (fetchGang 0) ∧ (fetchGang 0).barriers[(0 : Fin 16)].done + 32 ≤ s.tempo := by decide +kernel

theorem wit_ContextEvents_length :
    (let s := gangState 100 (fun g => { g with kernel := { g.kernel with tlen := some 100 } }) id
     s.fixedOf 0 = some 100 ∧ s.heldCtx 0 = false ∧ s.domainHalted 0 = false ∧ (s.ctx 0).run = .run ∧ 100 ≤ s.ttempo 0) ∧
    (let s := gangState 100 (fun g => { g with kernel := { g.kernel with tlen := some 100 } }) fun x =>
       { x with run := .drain, elas := [elastic0 0x100000000 (.load 0x100000000 8 false (.s 1))] }
     s.fixedOf 0 = some 100 ∧ s.heldCtx 0 = false ∧ s.domainHalted 0 = false ∧ (s.ctx 0).run = .drain ∧ s.ttempo 0 = 100 ∧
       s.quiet 0 = false) := by decide +kernel

theorem wit_ContextEvents_drain :
    (let s := gangState 9 (fun g => { g with slices := [2] }) fun x => { x with run := .drain }
     s.drainDue 0 = true ∧ (s.ctx 0).ctl.kind ≠ .second ∧ s.gangOf 0 = some { fetchGang 0 with slices := [2] } ∧
       (fetchGang 0).switch = false ∧ (s.ctx 0).spr.taskn.toNat + 1 < ([2] : List Nat).getD (s.ctx 0).spr.lidx.toNat 0) ∧
    (let s := gangState 9 id fun x => { x with run := .drain }
     s.drainDue 0 = true ∧ (s.ctx 0).ctl.kind ≠ .second ∧ s.gangOf 0 = some (fetchGang 0) ∧
       (fetchGang 0).slices.getD (s.ctx 0).spr.lidx.toNat 0 ≤ (s.ctx 0).spr.taskn.toNat + 1) ∧
    (let s := gangState 9 id fun x => { x with run := .drain, ctl := { x.ctl with kind := .second } }
     s.drainDue 0 = true ∧ (s.ctx 0).ctl.kind = .second) := by decide +kernel

def defer0 : DefItem :=
  { cause := 0x11, detail := 1, slot := 5, tag := 63, pc := 0, addr := 0, ops := [], what := .mem 7, chain := 0, link := 0, aux := 0 }

/-- Context 0 frozen, its core's die with the harvested physical cores given. -/
def frozenTest (harvested : List Nat) : State :=
  (onCtx 0 fun x => { x with run := .frozen, frz := some (frozen0 none) }).setDie 0
    { Die.reset with harvested := harvested.foldl (fun w n => w ||| BitVec.twoPow 36 n) 0 }

theorem wit_FaultEvents_defer :
    let s := gangState 9 id fun x => { x with defer := [defer0] }
    s.deferDue 0 = true ∧ (s.ctx 0).defer = [defer0] := by decide +kernel

/-- What a failed targeted self-test finds of context 0, frozen: a spare core of the die, or none. -/
theorem wit_FaultEvents_selfTest :
    (let s := frozenTest []
     (s.ctx 0).frz = some (frozen0 none) ∧ TRes.spare ≠ .pass ∧
       ((s.retireUnit (36 * (dieOf (coreAt 0)).val + (s.core (coreAt 0)).phys.val)).freePhys (dieOf (coreAt 0))).isSome = true) ∧
    (let s := frozenTest [32, 33, 34, 35]
     (s.retireUnit (36 * (dieOf (coreAt 0)).val + (s.core (coreAt 0)).phys.val)).freePhys (dieOf (coreAt 0)) = none) := by decide +kernel

/-- Context 0 frozen as the member of the one gang, whose domain may have a second. -/
def frozenState (f : Frozen) : State :=
  (gangState 32 (fun g => { g with dom := { g.dom with bench := 1, hent := 0x2000, sent := 0x2001 } }) fun x =>
    { x with run := .frozen, frz := some f }).setPart 0 { Part.reset with pclus := 1, pfrz := 0x100000 }

theorem wit_FaultEvents_second :
    (let f := { frozen0 none with written := false }
     let s := frozenState f
     (s.ctx 0).frz = some f ∧ f.written = false ∧ f.testing = false ∧ f.items = [] ∧ s.drained 0 = true) ∧
    (let s := frozenState (frozen0 none)
     (s.ctx 0).frz = some (frozen0 none) ∧ (frozen0 none).written = true ∧ (s.ctx 0).awaits = true ∧ s.domainHalted 0 = false ∧
       (s.gangOf 0).isSome = true ∧ s.secondPlace 0 = some 1) := by
  decide +kernel

/-- Where its domain has no bench a thread cannot have a second. -/
theorem wit_FaultEvents_noSecond :
    let s := (frozenState (frozen0 none)).setGang 0 { fetchGang 0 with id := 0 }
    (s.ctx 0).frz = some (frozen0 none) ∧ (frozen0 none).written = true ∧ (s.ctx 0).awaits = true ∧ s.domainHalted 0 = false ∧
      s.secondPlace 0 = none ∧ (s.part (s.ctx 0).part).fq.length < 64 := by decide +kernel

theorem wit_FaultEvents_resume :
    (let f := { frozen0 none with resume := some (31, .atSres) }
     let s := frozenState f
     s.resumeDue 0 = true ∧ (s.ctx 0).frz = some f ∧ f.items = [] ∧ (s.gangOf 0).map (·.waitStart) = some false) ∧
    (let f := { frozen0 none with resume := some (31, .atPc 0x3FFF) }
     let s := frozenState f
     s.resumeDue 0 = true ∧ (s.ctx 0).frz = some f ∧ f.items = [] ∧ (0x3FFF : Word).toNat < 2 ^ 14) := by decide +kernel

theorem wit_FaultEvents_gangHold :
    let g := { fetchGang 0 with kernel := { fetchKernel with tlen := some 1000 }, held := some 4 }
    let s := gangState 36 (fun _ => g) id
    s.gang? 0 = some g ∧ g.held = some 4 ∧ s.holdEndDue g = true ∧ g.members = [0] := by decide +kernel

theorem wit_FaultEvents_host :
    (let f := { frozen0 none with host := true }
     let s := (frozenState f).mapPart 0 fun x => { x with hacta := 0x100000 }
     s.hostThread 0 = some 0 ∧ (s.ctx 0).frz = some f ∧ (s.core (coreOf 0)).retired = false ∧ (s.ctx 0).gang = some 0 ∧
       (s.gang? 0).map (·.members) = some [0]) ∧
    State.reset.hostThread 31 = none := by decide +kernel

def region0 : Region := wregion

theorem wit_FaultEvents_drel :
    let s := (State.reset.setRegion 1 region0).setPart 0 { Part.reset with halted := [(0, 0x1000)] }
    (1, region0) ∈ s.regions ∧ region0.part = 0 ∧ region0.eff.dom.owner = region0.rcb ∧ s.regions = [(1, region0)] ∧
      (s.part 0).halted.contains region0.eff.dom.name = true ∧ s.unheld 0 region0.eff.dom.name = [] ∧
    let g := { fetchGang 0 with dom := region0.eff.dom }
    let s := (((frozenState (frozen0 none)).setGang 0 g).setRegion 1 region0).mapPart 0 fun x => { x with halted := [(0, 0x1000)] }
    (1, region0) ∈ s.regions ∧ s.regions = [(1, region0)] ∧ (s.part 0).halted.contains region0.eff.dom.name = true ∧
      s.unheld 0 region0.eff.dom.name = [0] ∧ (s.ctx 0).part = 0 ∧ (s.part 0).fq.length < 64 := by decide +kernel

end Sys2Proof.Tests
end

