-- ==== Sys2Proof/Tests/Witnesses2.lean ====
section
/-! SUPPORT. Witnesses as in Witnesses.lean, for the statements on queues, regions and gangs, on the package, the host and the fabric,
on the array and the engine, and on partitions. -/

namespace Sys2Proof.Tests

open Sys2Proof Sys2Proof.Machine

set_option Elab.async false

/-! ## Queues, regions and gangs -/

/-- Full service. -/
def served (s : State) : State := { s with pkg := { s.pkg with bstate := 2 } }

/-- Function 0 may enqueue to page 0, which has the fields given. -/
def queueState (f : Queue → Queue) : State :=
  served ((State.reset.setPart 0
    { Part.reset with asids := [{ root := 0, pasid := 0, func := 0, asid := 5, sroff := 0, srcnt := 4 }] }).setQueue 0
    (f { Queue.reset with en := true }))

def recordA (seq gen : Nat) : BitVec 1024 := BitVec.ofNat 1024 (0x1000 + 2 ^ 96 * seq + 2 ^ 128 * gen)

def record0 : Record := { rcb := 0x1000, seq := 0, gen := 0, irq := true, vector := 3, cadr := 0x40, user := [], asid := 5, func := 0 }

/-- What all clauses of the enqueue share. -/
def enqueueMet (s : State) (seq gen : Nat) : Bool :=
  s.serving? && (s.func 0).ready && ((s.part (s.queue 0).part).asids.find? fun y => y.func == (0 : FuncId).val && y.pasid == 0).isSome
    && (s.queue 0).en && s.pageQueue 0 0 == some 0 && recordShape 0 0 (recordA seq gen).toNat
    && BitVec.ofNat 32 (fld (recordA seq gen).toNat 96 32) == BitVec.ofNat 32 seq
    && BitVec.ofNat 32 (fld (recordA seq gen).toNat 128 32) == BitVec.ofNat 32 gen

theorem wit_QueueEvents_enqueue :
    (let s := queueState fun q => { q with lastSeq := [(5, 7)] }
     enqueueMet s 7 0 = true ∧ lookup? (s.queue 0).lastSeq 5 = some 7) ∧
    (let s := queueState fun q => { q with lastSeq := [(5, 7)] }
     enqueueMet s 9 0 = true ∧ lookup? (s.queue 0).lastSeq 5 = some 7) ∧
    (let s := queueState fun q => { q with lastSeq := [(5, 0xFFFFFFFF)] }
     enqueueMet s 0 2 = true ∧ lookup? (s.queue 0).lastSeq 5 = some 0xFFFFFFFF ∧ (0 : BitVec 32) = 0xFFFFFFFF + 1 ∧
       (s.queue 0).qgen = 0 ∧ (s.queue 0).repl = none) ∧
    (let s := queueState fun q => { q with fifo := List.replicate 256 record0 }
     enqueueMet s 0 0 = true ∧ lookup? (s.queue 0).lastSeq 5 = none ∧ (s.queue 0).fifo.length = 256) ∧
    (let s := queueState fun q => { q with fifo := List.replicate 255 record0 }
     enqueueMet s 0 0 = true ∧ lookup? (s.queue 0).lastSeq 5 = none ∧ (s.queue 0).fifo.length = 255 ∧ (s.queue 0).stop = false) := by
  decide +kernel

/-- A page slot of a virtual function that is not valid, one that is, and a package outside service. -/
theorem wit_QueueEvents_page :
    (let s := queueState id
     s.serving? = true ∧ s.pageQueue 512 7 = none) ∧
    (let s := (queueState id).setFunc 512 { Func.reset with vfqmap := Func.reset.vfqmap.set 7 0x87FF }
     s.pageQueue 512 7 = some 2047) ∧
    State.reset.serving? = false := by decide +kernel

theorem wit_QueueEvents_admit :
    let s := queueState fun q => { q with fifo := [record0] }
    (s.queue 0).fifo = record0 :: [] ∧ (s.queue 0).genOf record0 = some 0 ∧ s.queuePosted 0 = false ∧
      s.scrubScope (s.queue 0).part record0.asid = false ∧ (s.part (s.queue 0).part).halted.contains (record0.asid, record0.rcb) = false := by
  decide +kernel

def root0 : Root := { region := 1, record := record0, queue := 0, written := true, drained := 5 }

theorem wit_QueueEvents_completion :
    ({ State.reset with roots := [root0] }.roots.find? fun y => y.region == 1 && y.written) = some root0 ∧
      ({ State.reset with roots := [root0] } : State).tempo < root0.drained ∧
      ({ State.reset with roots := [root0], tempo := 5 }.roots.find? fun y => y.region == 1 && y.written) = some root0 ∧
      root0.drained ≤ ({ State.reset with roots := [root0], tempo := 5 } : State).tempo := by decide +kernel

theorem wit_QueueEvents_due : ∀ leaf ∈ [true, false], ∀ st ∈ [RegState.queued, .held],
    let r := { region0 with leaf := leaf, state := st }
    let s := State.reset.setRegion 1 r
    s.region? r.id = some r ∧ r.due = some 0 ∧ 0 ≤ s.tempo ∧ s.replHeld r = false := by decide +kernel

/-- An image of one member and one task at 0x100100000: header, fill, code, guard. -/
def imaged (s : State) : State :=
  s.setMem (writeN (writeN (writeN (writeN s.mem 0x100000 128
      0x1000000800000000000000000000000010000000100000001000000010000000003900001000800015a47494b)
    0x100080 16 0x10000000000000000000000c0) 0x1000C0 32 0x1e7f48f41000100000000000000000000000000225a475345) 0x1000E0 2 0xFFFF)

def keyed (s : State) : State := { s with pkg := { s.pkg with
  blockKey := [(0x100000, 1), (0x100040, 1), (0x100080, 1), (0x1000C0, 1), (0x100100, 1)] } }

/-- A root of one leaf, readable at 0x100100000. -/
def rcbState : State :=
  let s := (keyed (mapped 0x1F State.reset)).setMem (writeN (mapped 0x1F State.reset).mem 0x100000 256
    (0x100100000 * 2 ^ (8 * 24) + 2 ^ (8 * 32) + 2 ^ (8 * 36) + 31 * 2 ^ (8 * 42) + 2 ^ (8 * 44) + 8192 * 2 ^ (8 * 46) + 8192 * 2 ^ (8 * 48)))
  s.setQueue 0 { Queue.reset with en := true, fifo := [{ record0 with rcb := 0x100100000, asid := 0 }] }

theorem wit_QueueEvents_leaf :
    let s := rcbState
    let r : Record := { record0 with rcb := 0x100100000, asid := 0 }
    (s.queue 0).fifo = r :: [] ∧ (s.queue 0).genOf r = some 0 ∧ s.queuePosted 0 = false ∧ s.scrubScope (s.queue 0).part r.asid = false ∧
      (s.part (s.queue 0).part).halted.contains (r.asid, r.rcb) = false ∧
      (match (s.setQueue 0 { s.queue 0 with fifo := [] }).readRcb 0 0 0x100100000 with
        | .ok (n, w) => w && !rcbFlaw n true && rcbF n 45 1 == 0 && rcbF n 24 8 != 0
        | .error _ => false) = true := by
  decide +kernel

def leafR : Region := { region0 with leaf := true, state := .waiting, kernel := 0x100100000 }

def leafState : State := (keyed (imaged (mapped 0x1F State.reset))).setRegion 1 leafR

theorem reserved_nil {s : State} {r : Region} (h : ((s.regions.map (·.2)).filter fun x =>
    x.part == r.part && x.id != r.id && s.waits x && s.servedBefore x r) = []) : s.reserved r = [] := by
  simp only [State.reserved, State.ahead, h, List.mergeSort_nil, List.foldl_nil]

/-- The first eight contexts run. -/
def busyState : State := (List.range 8).foldl (fun s i => s.mapCtx (Fin.ofNat 512 i) fun x => { x with run := .run }) leafState

theorem leafState_place : ∀ n : Fin 8, placeFrom (fun k => !([] : List CoreId).contains k && leafState.coreFits 0 0 0 false true k) 1 0 8
    ((List.finRange 8).drop n.val ++ (List.finRange 8).take n.val) 0 = some [0] := by decide +kernel

theorem busyState_place : ∀ sec : Bool, ∀ n : Fin 8,
    placeFrom (fun k => !([] : List CoreId).contains k && busyState.coreFits 0 0 0 sec true k) 1 0 8
      ((List.finRange 8).drop n.val ++ (List.finRange 8).take n.val) 0 = none := by decide +kernel

theorem leafState_image : (leafState.leafImage leafR).toOption.map (fun i => (i.gang, i.kernel.single, i.kernel.subs.isEmpty,
    sliceLo i.kernel 1 0, sliceLo i.kernel 1 1)) = some (1, true, true, 0, 1) := by decide +kernel

theorem busyState_image : (busyState.leafImage leafR).toOption.map (fun i => (i.gang, i.kernel.single, i.kernel.subs.isEmpty)) =
    some (1, true, true) := by decide +kernel

theorem wit_QueueEvents_start :
    let s := leafState
    s.region? leafR.id = some leafR ∧ leafR.due = some 0 ∧ 0 ≤ s.tempo ∧ leafR.state = .waiting ∧ s.replHeld leafR = false ∧
      leafR.leaf = true ∧ s.waits leafR = true ∧ leafR.preds = [] ∧
      ∃ w x img, s.workOf leafR = .ok w ∧ s.placeAt leafR w (s.reserved leafR) = some x ∧ x.image = some img ∧ x.members.Nodup ∧
        ∀ i, i < x.members.length → sliceLo img.kernel x.members.length i < sliceLo img.kernel x.members.length (i + 1) := by
  refine ⟨by decide +kernel, rfl, Nat.zero_le _, rfl, by decide +kernel, rfl, by decide +kernel, rfl, ?_⟩
  have h := leafState_image
  cases hi : leafState.leafImage leafR with
  | error d => rw [hi] at h; cases h
  | ok i =>
    rw [hi] at h
    simp only [Except.toOption, Option.map_some, Option.some.injEq, Prod.mk.injEq, List.isEmpty_iff] at h
    obtain ⟨hg, hs, ht, h0, h1⟩ := h
    refine ⟨.fresh i, { members := [0], k := 0, image := some i }, i, ?_, ?_, rfl, (by simp), ?_⟩
    · simp only [State.workOf, show leafR.saved = none from rfl, hi, Except.map]
    · have hk : leafState.alignK = 0 := by decide +kernel
      have hp := leafState_place ⟨Config.freeBits leafState.draws 1004 % 8, Nat.mod_lt _ (by decide)⟩
      rw [reserved_nil (by decide +kernel)]
      simp only [State.placeAt, State.placeFresh, ht, hg, hs, hk, State.place, State.claimable]
      simp only [show leafR.part = 0 from rfl, show leafR.asid = 0 from rfl, show leafR.eff.dom.rimg = 0 from rfl, hp]
      rfl
    · intro j hj
      have : j = 0 := by simpa using hj
      subst this
      show sliceLo i.kernel 1 0 < sliceLo i.kernel 1 1
      omega

theorem wit_QueueEvents_waits :
    let s := busyState
    s.region? leafR.id = some leafR ∧ leafR.due = some 0 ∧ 0 ≤ s.tempo ∧ leafR.state = .waiting ∧ s.replHeld leafR = false ∧
      leafR.leaf = true ∧ s.waits leafR = true ∧ ∃ w, s.workOf leafR = .ok w ∧ s.placeAt leafR w (s.reserved leafR) = none := by
  refine ⟨by decide +kernel, rfl, Nat.zero_le _, rfl, by decide +kernel, rfl, by decide +kernel, ?_⟩
  have h := busyState_image
  cases hi : busyState.leafImage leafR with
  | error d => rw [hi] at h; cases h
  | ok i =>
    rw [hi] at h
    simp only [Except.toOption, Option.map_some, Option.some.injEq, Prod.mk.injEq, List.isEmpty_iff] at h
    obtain ⟨hg, hs, ht⟩ := h
    refine ⟨.fresh i, by simp only [State.workOf, show leafR.saved = none from rfl, hi, Except.map], ?_⟩
    have hk : busyState.alignK = 0 := by decide +kernel
    have hp (sec : Bool) := busyState_place sec ⟨Config.freeBits busyState.draws 1004 % 8, Nat.mod_lt _ (by decide)⟩
    rw [reserved_nil (by decide +kernel)]
    simp only [State.placeAt, State.placeFresh, ht, hg, hs, hk, State.place, State.claimable]
    simp only [show leafR.part = 0 from rfl, show leafR.asid = 0 from rfl, show leafR.eff.dom.rimg = 0 from rfl, hp]
    simp

/-- The one gang on the core of context 0, its region of the given fields. -/
def runState (n : Nat) (f : Region → Region) (g : Gang → Gang) (h : Ctx → Ctx) : State :=
  ((gangState n (fun x => g { x with region := 1 }) h).setRegion 1
    (f { region0 with leaf := true, state := .running, gang := some 0 })).setPart 0 { Part.reset with pclus := 1 }

def saved0 (g : Gang) : Saved :=
  { gang := g, stop := 64, id := 0
    members := [{ lidx := 0, ended := false, ctx := { Ctx.reset with run := .run, present := 70 }, scratch := [], tags := [],
                  core := Core.reset, ownsB := false }]
    chains := [], streams := [] }

/-- A region that waits to come back to core 0, switched out or adjourned. -/
def outRegion (st : RegState) : Region :=
  { region0 with id := 2, order := 1, leaf := true, state := st, saved := some (saved0 { fetchGang 0 with id := 5, region := 2 }) }

theorem wit_QueueEvents_slice :
    (let s := (runState 128 (fun r => { r with eff := { r.eff with budt := 128, sava := 0x10000 } }) id id).setRegion 2 (outRegion .switched)
     (s.gang? 0).isSome = true ∧ ∃ x, s.gang? 0 = some x ∧ ∃ r, s.region? x.region = some r ∧ s.tempo = x.sliceStart + r.eff.budt ∧
       s.peerWaits x = true ∧ r.eff.sava ≠ 0) ∧
    (let s := runState 100 id id id
     ∃ x, s.gang? 0 = some x ∧ ∃ r, s.region? x.region = some r ∧ s.tempo = x.sliceStart + r.eff.budt ∧ r.eff.sava = 0) :=
  ⟨⟨by decide +kernel, _, rfl, _, rfl, by decide +kernel, by decide +kernel, by decide +kernel⟩, ⟨_, rfl, _, rfl, by decide +kernel, rfl⟩⟩

theorem wit_SwitchAndReplacement_out :
    let s := runState 9 (fun r => { r with eff := { r.eff with sava := 0x10000 } }) (fun g => { g with switch := true }) id
    ∃ x, s.gang? 0 = some x ∧ x.id = 0 ∧ ∃ r, s.region? x.region = some r ∧ s.switchDue x = true :=
  ⟨_, rfl, rfl, _, rfl, by decide +kernel⟩

/-- Region 2 waits for core 0, which is free. -/
def waitState (n : Nat) (st : RegState) : State :=
  let s := (State.reset.setRegion 2 (outRegion st)).setPart 0 { Part.reset with pclus := 1 }
  { s with tempo := n, pkg := { s.pkg with bstate := 2 } }

theorem wit_SwitchAndReplacement_in :
    let s := waitState 96 .switched
    let r := outRegion .switched
    ∃ x w y, s.region? r.id = some r ∧ r.saved = some x ∧ r.state = .switched ∧ s.waits r = true ∧
      s.workOf r = .ok w ∧ s.placeAt r w (s.reserved r) = some y ∧ y.members.Nodup ∧ (x.members.map (·.lidx)).Nodup :=
  ⟨_, _, { members := [0], k := 0, image := none }, by decide +kernel, rfl, rfl, by decide +kernel, rfl,
    (by rw [reserved_nil (by decide +kernel)]; rfl), (by simp), (by simp [saved0])⟩

/-- The cores of partition 0 run something else. -/
def blockState (n : Nat) (st : RegState) : State :=
  (List.range 8).foldl (fun s i => s.mapCtx (Fin.ofNat 512 i) fun x => { x with run := .run }) (waitState n st)

theorem wit_SwitchAndReplacement_stays :
    let s := blockState 96 .switched
    let r := outRegion .switched
    ∃ x w, s.region? r.id = some r ∧ r.saved = some x ∧ r.state = .switched ∧ s.waits r = true ∧ s.workOf r = .ok w ∧
      s.placeAt r w (s.reserved r) = none :=
  ⟨_, _, by decide +kernel, rfl, rfl, by decide +kernel, rfl, by rw [reserved_nil (by decide +kernel)]; rfl⟩

theorem wit_SwitchAndReplacement_post :
    (queueState id).queue 0 = { Queue.reset with en := true } ∧
    (let s := (mapped 0x1F State.reset).setQueue 0 { Queue.reset with serv := true, qrepg := 2 + 2 ^ 32 * 254 }
     let w := (s.queue 0).qrepg.toNat
     (s.queue 0).serv = true ∧ (s.queue 0).repl = none ∧ fld w 32 8 = 254 ∧ BitVec.ofNat 14 (fld w 40 14) = 0 ∧
       (s.dirRead 0 0 (8 * 1 + 1) 0x100000000 (8 * 1)).isSome = true) ∧
    (let s := (mapped 0x1F State.reset).setQueue 0 { Queue.reset with serv := true, qrepg := 2 + 2 ^ 32 * 1 }
     (s.queue 0).serv = true ∧ (s.queue 0).repl = none ∧ fld (s.queue 0).qrepg.toNat 32 8 = 1 ∧
       (s.dirRead 0 0 (8 * 1 + 1) 0x100000000 (8 * 1)).isSome = true) ∧
    (let s := (mapped 0x1F State.reset).setQueue 0 { Queue.reset with serv := true, qrepg := 2 + 2 ^ 32 * 255 }
     fld (s.queue 0).qrepg.toNat 32 8 = 255) := by decide +kernel

def repl0 (u : Option Nat) : Replace := { gen := 2, nl := 1, rcbs := [0x1000], asid := 0, layer := 0, region := u, stopped := false }

theorem wit_SwitchAndReplacement_step :
    (let s := queueState fun q => { q with serv := true, repl := some (repl0 none) }
     s.replDue 0 = true ∧ (s.queue 0).repl = some (repl0 none)) ∧
    (∀ st ∈ [RegState.done, .failed],
      let s := (queueState fun q => { q with serv := true, repl := some (repl0 (some 1)) }).setRegion 1 { region0 with state := st }
      s.replDue 0 = true ∧ (s.queue 0).repl = some (repl0 (some 1)) ∧ (s.region? 1).map (·.state) = some st) := by decide +kernel

/-! ## Flag time -/

def postState (part : Part → Part) : State :=
  let s := State.reset.setPart 0 (part Part.reset)
  { s with pkg := { s.pkg with bstate := 2 } }

def post0 : Post := { ft := 1000000, queues := [], ctxs := [], asids := [], scrub := none }

theorem wit_FlagTimeEvents_post :
    State.reset.serving? = false ∧
    (postState id).serving? = true ∧ (postState id).postOk 0 (BitVec.ofNat 512 (2 ^ 64 * 17)).toNat = false ∧
    (let s := postState fun p => { p with post := some post0 }
     s.postOk 0 (BitVec.ofNat 512 0).toNat = true ∧ (s.part 0).post.isSome = true) ∧
    (let s := postState id
     s.postOk 0 (BitVec.ofNat 512 0).toNat = true ∧ (s.part 0).post = none ∧ 0 < s.wall + s.floorNs 0) ∧
    (let s := postState id
     let n := s.wall + s.floorNs 0
     s.postOk 0 (BitVec.ofNat 512 n).toNat = true ∧ (s.part 0).post = none ∧ fld (BitVec.ofNat 512 n).toNat 0 64 = n) := by
  decide +kernel

/-- The gang of region 1 in scope of a post. -/
def scopeState (ft : Nat) (g : Gang → Gang) : State :=
  (runState 64 id g id).setPart 0 { Part.reset with pclus := 1, post := some { post0 with ft := ft } }

theorem wit_FlagTimeEvents_redecide : ((scopeState 1000000 id).part 0).post = some post0 := by decide +kernel

theorem wit_FlagTimeEvents_lastResort :
    let s := scopeState 0 id
    (s.part 0).lastResort 0 ≤ s.wall ∧ s.inScope 0 ≠ [] ∧ ∃ g r, s.inScope 0 = [(g, r)] ∧ s.gang? g.id = some g ∧ s.secondsOf g.id = [] := by
  have h : ∃ x, (scopeState 0 id).inScope 0 = [x] ∧ (scopeState 0 id).gang? x.1.id = some x.1 ∧ (scopeState 0 id).secondsOf x.1.id = [] :=
    ⟨({ fetchGang 0 with region := 1 }, { region0 with leaf := true, state := .running, gang := some 0 }), by
      exact List.mergeSort_singleton _, by decide +kernel, by decide +kernel⟩
  obtain ⟨⟨g, r⟩, h1, h2, h3⟩ := h
  exact ⟨by decide +kernel, by simp [h1], g, r, h1, h2, h3⟩

theorem wit_FlagTimeEvents_adjourn :
    let s := runState 64 id (fun g => { g with writing := true }) id
    ∃ x r, s.gang? x.id = some x ∧ s.region? x.region = some r ∧ r.id = x.region ∧ x.writing = true ∧
      s.hopsOut x.id = false ∧ (∀ c ∈ s.liveMembers x, (s.ctx c).acc = [] ∧ (s.ctx c).pend = []) ∧ s.adjournOut x r = none :=
  ⟨{ fetchGang 0 with region := 1, writing := true }, { region0 with leaf := true, state := .running, gang := some 0 },
    by decide +kernel, by decide +kernel, rfl, rfl, by decide +kernel, by decide +kernel, by decide +kernel⟩

/-- The area is written: it has not drained, or it has. -/
theorem wit_FlagTimeEvents_adjournDrains : ∀ n ∈ [64, 65],
    let s := runState 64 id (fun g => { g with writing := true, area := some n }) id
    s.gang? 0 = some { fetchGang 0 with region := 1, writing := true, area := some n } ∧ (s.region? 1).map (·.id) = some 1 ∧
      s.hopsOut 0 = false ∧ (∀ c ∈ s.liveMembers { fetchGang 0 with region := 1 }, (s.ctx c).acc = [] ∧ (s.ctx c).pend = []) ∧
      (n = 64 → n ≤ s.tempo) ∧ (n = 65 → s.tempo < n) := by decide +kernel

theorem waitState_place : ∀ n : Fin 8,
    placeFrom (fun c => !([] : List CoreId).contains c && (waitState 38 .adjourned).coreFits 0 0 0 false false c) 1 0 8
      ((List.finRange 8).drop n.val ++ (List.finRange 8).take n.val) 0 = some [0] := by decide +kernel

theorem blockState_place : ∀ n : Fin 8,
    placeFrom (fun c => !([] : List CoreId).contains c && (blockState 38 .adjourned).coreFits 0 0 0 false false c) 1 0 8
      ((List.finRange 8).drop n.val ++ (List.finRange 8).take n.val) 0 = none := by decide +kernel

/-- Where an adjourned region of one member goes, in terms of the cores that fit. -/
theorem adjourned_place (s : State) (o : Option (List CoreId)) (hs : s.tempo = 38)
    (hp : placeFrom (fun c => !([] : List CoreId).contains c && s.coreFits 0 0 0 false false c) 1 0 8
      ((List.finRange 8).drop (Config.freeBits s.draws 1004 % 8) ++ (List.finRange 8).take (Config.freeBits s.draws 1004 % 8)) 0 = o) :
    s.placeSaved (outRegion .adjourned) (saved0 { fetchGang 0 with id := 5, region := 2 }) [] =
      o.map fun cs => { members := cs.map primaryOf, k := 0, image := none } := by
  subst hp
  have ht : (32 + 70 % 32 - s.tempo % 32) % 32 = 0 := by rw [hs]
  simp only [State.placeSaved, outRegion, saved0, fetchGang, fetchKernel, State.place, if_false, if_true, Bool.false_eq_true,
    List.find?_cons, Bool.not_false, List.length_singleton, List.head?_cons, show region0.part = 0 from rfl, show region0.asid = 0 from rfl,
    show region0.eff.dom.rimg = 0 from rfl, show (Ctx.reset.spr.start) = 0 from rfl, Nat.sub_zero, ht, show isSec 0 = false from rfl]
  simp [State.claimable]

theorem wit_FlagTimeEvents_resume :
    let s := waitState 38 .adjourned
    let r := outRegion .adjourned
    ∃ x w y, s.region? r.id = some r ∧ r.saved = some x ∧ r.state = .adjourned ∧ s.postScope r = false ∧ s.waits r = true ∧
      s.workOf r = .ok w ∧ s.placeAt r w (s.reserved r) = some y ∧
      (∀ m ∈ x.members, m.ended = false → refillBad (s.refill r m false) = false ∧ refillBad (s.refill r m true) = false) ∧
      y.members.Nodup ∧ (x.members.map (·.lidx)).Nodup := by
  refine ⟨saved0 { fetchGang 0 with id := 5, region := 2 }, .saved (saved0 { fetchGang 0 with id := 5, region := 2 }),
    { members := [0], k := 0, image := none }, by decide +kernel, rfl, rfl,
    by decide +kernel, by decide +kernel, rfl, ?_, by decide +kernel, by simp, by simp [saved0]⟩
  rw [reserved_nil (by decide +kernel)]
  exact adjourned_place _ _ rfl (waitState_place ⟨Config.freeBits (waitState 38 .adjourned).draws 1004 % 8, Nat.mod_lt _ (by decide)⟩)

theorem wit_FlagTimeEvents_stays :
    let s := blockState 38 .adjourned
    let r := outRegion .adjourned
    ∃ x w, s.region? r.id = some r ∧ r.saved = some x ∧ r.state = .adjourned ∧ s.postScope r = false ∧ s.waits r = true ∧
      s.workOf r = .ok w ∧ s.placeAt r w (s.reserved r) = none := by
  refine ⟨saved0 { fetchGang 0 with id := 5, region := 2 }, .saved (saved0 { fetchGang 0 with id := 5, region := 2 }),
    by decide +kernel, rfl, rfl, by decide +kernel, by decide +kernel, rfl, ?_⟩
  rw [reserved_nil (by decide +kernel)]
  exact adjourned_place _ _ (by decide +kernel)
    (blockState_place ⟨Config.freeBits (blockState 38 .adjourned).draws 1004 % 8, Nat.mod_lt _ (by decide)⟩)

theorem wit_FlagTimeEvents_vacancy :
    (let s := postState fun p => { p with post := some post0 }
     (s.part 0).post = some post0 ∧ s.vacancyDue 0 = true ∧ (s.part 0).log = []) ∧
    (let x := { post0 with scrub := some (0, 0) }
     let s := postState fun p => { p with post := some x }
     (s.part 0).post = some x ∧ x.scrub.isSome = true ∧ (s.part 0).ftstat.getLsbD 0 = false ∧ s.drainWait 0 = 0) ∧
    (let x := { post0 with scrub := some (0, 0) }
     let w : WqEntry := { ctx := 0, kind := none, queue := 0, drain := 1, key := 0, old := [0] }
     let s := postState fun p => { p with post := some x, wq := [w] }
     (s.part 0).post = some x ∧ x.scrub.isSome = true ∧ (s.part 0).ftstat.getLsbD 0 = false ∧ s.drainWait 0 ≠ 0) := by
  refine ⟨⟨by decide +kernel, ?_, by decide +kernel⟩, by decide +kernel⟩
  have : (postState fun p => { p with post := some post0 }).inScope 0 = [] := List.mergeSort_nil
  simp only [State.vacancyDue, this]
  decide +kernel

theorem wit_FlagTimeEvents_clear :
    (postState id |>.part 0).post = none ∧
    (let s := (postState fun p => { p with post := some post0, ftstat := 1 }).setRegion 2 (outRegion .adjourned)
     (s.part 0).post.isSome = true ∧ (s.part 0).ftstat.getLsbD 0 = true ∧ (2, outRegion .adjourned) ∈ s.regions ∧
       (outRegion .adjourned).part = 0) := by decide +kernel

theorem wit_FlagTimeEvents_spb :
    (4095 : Word).toNat % 2 ^ 25 < 4096 ∧ 2 ^ 24 < (0x1000001 : Word).toNat % 2 ^ 25 ∧
    (postState id).resident 0 = false ∧ ((postState id).part 0).post = none ∧ (4096 : Word).toNat % 2 ^ 25 = 4096 ∧
      (0x1000000 : Word).toNat % 2 ^ 25 = 2 ^ 24 := by decide +kernel

/-! ## The package, the host and the fabric -/

theorem wit_PackageEvents :
    (let s : State := { State.reset with pkg := { State.reset.pkg with bstate := 1 } }
     s.pkg.bstate = 1 ∧ s.pkg.trained = false) ∧
    (let s : State := { State.reset with pkg := { State.reset.pkg with bstate := 1, trained := true } }
     (1 : Word) = 1 ∧ s.pkg.bstate = 1 ∧ s.pkg.trained = true ∧ s.ctxs = [] ∧ s.parts = []) ∧
    ¬State.reset.pkg.bstate = 1 ∧ State.reset.packets = [] ∧ State.reset.ctxs = [] ∧
    (let e := elastic0 0x100000000 (.load 0x100000000 8 false (.s 1))
     let s := elasticState (2 ^ 51 + 0x1F) e
     s.ctxs = [((0 : CtxId).val, s.ctx 0)] ∧ s.packets = [] ∧ (s.ctx 0).elas = [e] ∧ e.stopped = false ∧ e.banked = false ∧
       e.sent = false ∧ (s.ctx 0).acc = [] ∧ (s.ctx 0).pend = [] ∧ (s.ctx 0).done = [] ∧ (s.hostTarget 0 e).isSome = true) := by
  decide +kernel

theorem wit_HostAccesses :
    ((0x300 : Word).toNat / 2 ^ 8 % 4 = 3 ∧ (0x200 : Word).toNat / 2 ^ 8 % 4 = 2) ∧
    ((0x1FFFFFF : BitVec 26).toNat < 0x2000000 ∧ 0x2010000 ≤ (0x2010000 : BitVec 26).toNat ∧ (0x7FFFF8 : BitVec 26).toNat < 0x800000) ∧
    State.reset.pkg.bstate = 0 ∧
    (mapped 0x1F State.reset).pkg.bstate = 2 ∧
    (let s := mapped 0x1F State.reset
     s.windowOk 0x1000 64 = true ∧ lookup? s.pkg.keys s.pkg.mwkey.toNat = some 1 ∧ s.mem.wf = true) ∧
    (let s := mapped 0x1F State.reset
     let s := { s with pkg := { s.pkg with keys := [] } }
     s.windowOk (2 ^ 36 - 1) 1 = true ∧ lookup? s.pkg.keys s.pkg.mwkey.toNat = none) ∧
    (let s := keyed (mapped 0x1F State.reset)
     s.blockKeyOf (keyPA 0x100000) = 1 ∧ ∀ y ∈ s.parts, y.2.wq = []) := by decide +kernel

def entry0 : TimeEntry := { sub := 0, desc := false, rcv := 0, snd := 0, off := 40, dead := false }

theorem wit_FabricEvents_segment :
    (∃ x, ((0 : DieId), true, x) ∈ ({ State.reset with pkg := { State.reset.pkg with dead := [(0, true, false)] } } : State).pkg.dead) ∧
    (∀ x, ((0 : DieId), true, x) ∉ State.reset.pkg.dead) ∧
    (let g := { fetchGang 0 with kernel := { fetchKernel with tlen := some 100, times := [entry0], subs := [0] } }
     let s := (gangState 9 (fun _ => g) id)
     s.gang? 0 = some g ∧ g.onRing = true) ∧
    (let s := { State.reset with pkg := { State.reset.pkg with dead := [(7, false, true)] } }
     ((7 : DieId), false, true) ∈ s.pkg.dead ∧ ∀ e w x, (e, w, x) ∈ s.pkg.dead → (e, w) ≠ (7, false) → x = false) := by
  refine ⟨⟨false, by decide +kernel⟩, by decide +kernel, by decide +kernel, by decide +kernel, ?_⟩
  intro e w x h hn
  simp only [List.mem_singleton, Prod.mk.injEq] at h
  exact absurd (by simp [h.1, h.2.1]) hn

/-- A packet of context 0 for the scratchpad of core 32, on die 1. -/
def packet0 (kind : PacketKind) (at_ : PacketAt) : Packet :=
  { id := 9, kind := kind, part := 0, srcPkg := 0, src := 0, seq := 1, back := false, sinc := 0, dinc := 0, dstCtx := none, dstAsid := none, srcDie := 0, dstDie := 1
    tgt := some (localTgt (keyScratch 32 64)), bytes := [1, 2, 3], len := 8, atom := some (.add, .i32, 1, 0), hopVals := [], hopFmt := 0
    cmd := 4, at_ := at_ }

/-- A command of the exchange engine of context 0. -/
def cmd0 (kind : CmdKind) (ops : List Word) : Cmd :=
  { id := 4, tag := 63, kind := kind, pc := 0, issued := 0, ops := ops, src := none, dst := none, also := none, edges := [], notBefore := 0,
    rm := .rne, sat := .ieee, subo := false, atw := none, started := false, stopped := false, cancelAt := none, refused := false,
    slots := [], slotsData := false, injected := false }

def packetState (p : Packet) : State :=
  let s := (gangState 9 id id).setCmds 0 [cmd0 (.xwr false) []]
  { s with packets := [p] }

theorem wit_FabricEvents_packets :
    (let p := packet0 .write .pending
     let s := packetState p
     s.packet? p.id = some p ∧ p.at_ = .pending ∧ p.id ≠ 0 ∧ s.behind p = false ∧ s.ringBlocked p.srcDie p.dstDie = false ∧ s.inTurn p.part p.srcDie = true ∧
       p.srcPkg = s.pkg.id ∧ ∃ m ∈ s.cmdsOf p.src, m.id = p.cmd) ∧
    (let p := packet0 .write .pending
     let s : State := { State.reset with pkg := { State.reset.pkg with rackIn := [p] } }
     s.pkg.rackIn = p :: []) := by decide +kernel

theorem wit_FabricEvents_waits :
    (let p := packet0 .write .pending
     let s := packetState p
     let s : State := { s with pkg := { s.pkg with dead := [(0, s.routeDesc 0 1, true)] } }
     s.packet? p.id = some p ∧ p.at_ = .pending ∧ s.ringBlocked p.srcDie p.dstDie = true) ∧
    (let p := packet0 .write .pending
     let s := packetState p
     let s : State := { s with packets := [{ p with id := 8, part := 1 }, p] }
     let s := s.mapDie 0 fun d => { d with served := 1 }
     s.packet? p.id = some p ∧ p.at_ = .pending ∧ s.behind p = false ∧ s.inTurn p.part p.srcDie = false) := by decide +kernel

theorem wit_FabricEvents_taken :
    (∀ kind ∈ [PacketKind.write, .read, .atomic],
      let p := packet0 kind .slot
      let s := packetState p
      s.packet? p.id = some p ∧ s.routeDead p.srcDie p.dstDie = false ∧ s.stale p = false ∧ s.bad = [] ∧
        s.pkg.tests = [] ∧ s.pkg.mappedOut = [] ∧ p.srcPkg = s.pkg.id ∧ p.aord = none ∧ s.memberGone p = false ∧ s.leavesPackage p = false ∧
        p.atom = some (.add, .i32, 1, 0) ∧ p.tgt = some (localTgt (keyScratch 32 64)) ∧
        (localTgt (keyScratch 32 64)).dev = false ∧ (localTgt (keyScratch 32 64)).host = false ∧ kind.isRequest = true) ∧
    (∀ kind ∈ [PacketKind.writeAck, .readReply, .atomicReply],
      let p := packet0 kind .slot
      let s := packetState p
      s.packet? p.id = some p ∧ s.routeDead p.srcDie p.dstDie = false ∧ s.stale p = false ∧ p.srcPkg = s.pkg.id ∧ p.acc = none ∧ ((s.cmdsOf p.src).find? fun y => y.id == p.cmd) = some (cmd0 (.xwr false) [])) := by decide +kernel

theorem wit_FabricEvents_turned :
    (let p := { packet0 .write .slot with sinc := 1 }
     let s := packetState p
     s.packet? p.id = some p ∧ s.routeDead p.srcDie p.dstDie = false ∧ kindKnown p.kind.code = true ∧ s.leavesPackage p = false ∧ s.stale p = true) ∧
    (let p := { packet0 .writeAck .slot with srcPkg := 1, back := true }
     let s := packetState p
     s.packet? p.id = some p ∧ s.routeDead p.srcDie p.dstDie = false ∧ kindKnown p.kind.code = true ∧ s.leavesPackage p = true) ∧
    (let p := packet0 .write .refusedOnce
     let s := packetState p
     s.packet? p.id = some p ∧ s.routeDead p.srcDie p.dstDie = false ∧ s.stale p = false ∧ p.kind.isRequest = true ∧ s.leavesPackage p = false) ∧
    (let p := packet0 .write (.retry 9)
     let s := packetState p
     s.packet? p.id = some p ∧ p.at_ = .retry 9 ∧ 9 ≤ s.tempo) := by decide +kernel

/-- The answer to an elastic access of context 0 to another die, the only access under way. -/
def answerState (e : Elastic) (p : Packet) : State :=
  { gangState 9 id fun x => { x with elas := [e] } with packets := [p] }

theorem wit_FabricEvents_answers : ∀ y ∈ [(PacketKind.drop false, AccOp.load 0 8 false (.s 1)), (.readReply, .load 0 8 false (.s 1)),
      (.writeAck, .store 0 8 7), (.atomicReply, .atom 0 .add .i32 1 0 (.s 2))],
    let e := elastic0 0x100000000 y.2
    let p := { packet0 y.1 .slot with acc := some e.id, bytes := [1, 2, 3, 4, 5, 6, 7, 8] }
    let s := answerState e p
    s.packet? p.id = some p ∧ p.at_ = .slot ∧ s.routeDead p.srcDie p.dstDie = false ∧ s.stale p = false ∧ p.srcPkg = s.pkg.id ∧
      p.acc = some e.id ∧ (s.ctx p.src).elas = [e] ∧ (s.ctx p.src).acc = [] ∧ (s.ctx p.src).pend = [] ∧ (s.ctx p.src).done = [] ∧
      (s.ctx p.src).wrote.1 ≠ s.tempo := by decide +kernel

def timedGang : Gang := { fetchGang 0 with kernel := { fetchKernel with tlen := some 200, times := [entry0] } }

/-- The one gang, whose timetable has one entry from member 0 to itself, at task tempo n, with commands and slots. -/
def timedState (n : Nat) (ms : List Cmd) (ts : List TimedSlot) : State :=
  { (gangState n (fun _ => timedGang) id).setCmds 0 ms with timed := ts }

theorem wit_FabricEvents_send :
    let m := cmd0 .xsnd [0, 0]
    let s := timedState 38 [m] []
    s.cmd? 0 m.tag = some m ∧ s.gangOf 0 = some timedGang ∧ s.sendSlot? 0 m = some 0 ∧ (s.timesOf 0)[m.entryOf 0]? = some entry0 := by
  decide +kernel

def slot0 : TimedSlot := { gang := 0, entry := 0, data := some [1, 2], waiting := false }

theorem wit_FabricEvents_deliver :
    (let m := cmd0 .xrcv [0, 0]
     let s := timedState 104 [m] [slot0]
     s.gang? 0 = some timedGang ∧ timedGang.receiver 0 = some 0 ∧ s.deliverDue timedGang 0 = true ∧ s.posted? 0 0 = some (m, 0) ∧
       (s.timed.filter fun y => y.gang == 0 && y.entry == 0) = [slot0]) ∧
    (let m := cmd0 .xrcv [0, 0]
     let s := timedState 104 [m] []
     s.deliverDue timedGang 0 = true ∧ s.posted? 0 0 = some (m, 0) ∧ (s.timed.filter fun y => y.gang == 0 && y.entry == 0) = []) ∧
    (let s := timedState 104 [] [slot0]
     s.deliverDue timedGang 0 = true ∧ s.posted? 0 0 = none ∧ (s.timed.filter fun y => y.gang == 0 && y.entry == 0) = [slot0] ∧
       (s.ctx 0).frz = none) ∧
    (timedState 104 [] [slot0]).gang? 0 = some timedGang ∧ timedGang.held = none := by decide +kernel

/-! ## The array and the engine -/

def array0 (mlat started : Bool) (msk : Word) : ArrayCmd :=
  { id := 3, ctx := 0, pc := 0, mlat := mlat, chain := 0, link := 0, op := .prod, msa := 0, msb := 0x10000, msk := msk, mst := 0
    nfmtM := 0, issued := 0, plan := 0, passes := 1, started := started, stopped := false, discard := false, captured := false, ablk := [], bblk := [] }

def arrayState (a : ArrayCmd) (ch : Option Chain) : State :=
  let s := (chainState 6 [] ch).mapCore 0 fun k => { k with array := [a] }
  { s with tempo := 9 }

theorem wit_ArrayAndEngineEvents_array :
    (let a := array0 false false 64
     let s := ((arrayState a none).setTag (keyScratch 0 0) 0x4000).setTag (keyScratch 0 0x10000) 0x4000
     s.arrayStart? 0 = some a ∧ s.arrayEcc 0 a = none ∧ (s.operands 0 a).toOption.isSome = true) ∧
    (let a := array0 false false 0x10000040
     let s := arrayState a none
     s.arrayStart? 0 = some a ∧ s.arrayEcc 0 a = none ∧ (s.operands 0 a).toOption.isSome = false ∧ (s.ctx a.ctx).frz = none) ∧
    (let a := array0 true true 64
     (arrayState a none).mlatDone? 0 = some a) ∧
    (∀ d ∈ [true, false],
      let a := { array0 false true 64 with discard := d }
      let l := { link0 0 .open_ .free with count := 2 }
      let ch := chain0 [l] 0
      let s := arrayState a (some ch)
      s.mmaDone? 0 = some a ∧ s.chain? a.chain = some ch ∧ ch.uid = a.chain ∧ ch.link? a.link.val = some l ∧ ch.freed = none ∧
        l.state ≠ .faulted ∧ l.landed + 1 ≠ l.count) := by decide +kernel

theorem wit_ArrayAndEngineEvents_chains :
    (let l := link0 0 .open_ .free
     let ch := chain0 [l, { l with slot := 1 }] 0
     let s := chainState 7 [] (some ch)
     s.chain? 0 = some ch ∧ ch.link? (0 : Fin 64).val = some l ∧ ch.freed = none ∧ l.spare = false ∧ l.state ≠ .faulted ∧
       ch.frozen = false ∧ ch.link? 1 = some { l with slot := 1 }) ∧
    (let l := { link0 0 .ripe .free with landed := 1 }
     let k : Close := { ctx := 0, tag := 5, dest := 0x1000, rm := .rne, sat := .ieee, subo := false, started := false, done := false,
                        rows := [], btags := [], xst := 0 }
     let ch := { chain0 [l] 0 with close := some k }
     let s := chainState 7 [] (some ch)
     s.chain? 0 = some ch ∧ ch.close = some k ∧ ch.link? (ch.nlink - 1) = some l ∧ k.started = false ∧ ch.frozen = false ∧
       ch.freed = none ∧ l.state = .ripe ∧ ch.ofmt < 6) := by decide +kernel

/-- The close of a chain of one link, started, with what it still has to write. -/
def close0 (rows : List (Nat × Nat × Nat)) (btags : List (Nat × BitVec 16)) : Close :=
  { ctx := 0, tag := 63, dest := 0x1000, rm := .rne, sat := .ieee, subo := false, started := true, done := false, rows := rows, btags := btags, xst := 0 }

theorem wit_ArrayAndEngineEvents_planes : ∀ o ∈ [6, 7],
    let l := { link0 0 .ripe .free with landed := 1 }
    let k := { close0 [] [] with started := false }
    let ch := { chain0 [l] 0 with close := some k, ofmt := o, pm1 := 9 }
    let s := chainState 7 [] (some ch)
    s.chain? 0 = some ch ∧ ch.close = some k ∧ ch.link? (ch.nlink - 1) = some l ∧ k.started = false ∧ ch.frozen = false ∧
      ch.freed = none ∧ l.state = .ripe ∧ ch.ofmt = o := by decide +kernel

/-- Each step of a close: rows, tags, and neither. -/
theorem wit_ArrayAndEngineEvents_closes :
    ∀ w ∈ [([(keyScratch 0 0x1000, 4, 7)], [(keyScratch 0 0x1000, (0x4000 : BitVec 16))]), ([], [(keyScratch 0 0x1000, 0x4000)]), ([], [])],
      let l := { link0 0 .ripe .free with landed := 1 }
      let k := close0 w.1 w.2
      let ch := { chain0 [l] 0 with close := some k }
      let m := cmd0 (.chc 0) [0]
      let s := (chainState 7 [] (some ch)).setCmds 0 [m]
      s.chain? 0 = some ch ∧ ch.close = some k ∧ ch.link? (ch.nlink - 1) = some l ∧ k.started = true ∧ k.done = false ∧
        s.pkg.tests = [] ∧ ch.freed = none ∧ l.state ≠ .frozen ∧ l.state ≠ .faulted ∧ s.cmd? k.ctx k.tag = some m := by decide +kernel

def engineState (m : Cmd) : State := (gangState 9 id id).setCmds 0 [m]

theorem wit_ArrayAndEngineEvents_start :
    (∀ k ∈ [CmdKind.xcp 0 false false, .xpf],
      let m := cmd0 k [0, 0x1000, 16]
      (engineState m).cmd? 0 m.tag = some m ∧ (engineState m).mayStart 0 m = true ∧ m.kind.isFabric = false) ∧
    (let m := { cmd0 (.xwr false) [0, 0x1000, 15] with dst := some { win := .scratch 0, lo := 64, hi := 79 } }
     (engineState m).cmd? 0 m.tag = some m ∧ (engineState m).mayStart 0 m = true ∧ (engineState m).memberEnded 0 m = false ∧
       (engineState m).bad = [] ∧ (engineState m).pkg.tests = [] ∧ (engineState m).pkg.mappedOut = [] ∧ (m.ops.getD 1 0).toNat + ((m.ops.getD 2 0).toNat % 256 + 1) ≤ 0x400000) := by
  decide +kernel

theorem wit_ArrayAndEngineEvents_fabric : ∀ kind ∈ [PacketKind.writeAck, .readReply, .atomicReply, .drop true, .drop false],
    let m := cmd0 (.xwr false) []
    let p := packet0 kind .arrived
    let s := packetState p
    s.cmd? 0 m.tag = some m ∧ m.kind.isFabric = true ∧
      (s.packets.find? fun q => q.src == 0 && q.srcPkg == s.pkg.id && q.cmd == m.id) = some p ∧ p.at_ = .arrived ∧
      s.pkg.tests = [] ∧ s.packet? p.id = some p := by decide +kernel

theorem wit_ArrayAndEngineEvents_end :
    (let m := { cmd0 .xsnd [0, 0] with slots := [0] }
     let s := timedState 40 [m] []
     s.cmd? 0 m.tag = some m ∧ s.timedDone 0 m = true) ∧
    (let m := { cmd0 .xrcv [0, 0] with slots := [0] }
     let s := timedState 104 [m] []
     s.cmd? 0 m.tag = some m ∧ s.timedDone 0 m = true ∧ m.slotsData = false) ∧
    (∀ n ∈ [(0 : Fin 4), 3],
     let m := { cmd0 (.chs 0) [0x1000] with started := true, prog := { Progress.start with stage := n } }
     let s := (chainState 7 [] (some (chain0 [link0 0 .open_ .free] 0))).setCmds 0 [m]
     s.cmd? 0 m.tag = some m ∧ m.stopped = false ∧ (s.chain? 0).isSome = true ∧ s.chsReady 0 = true ∧ s.pkg.tests = []) := by
  decide +kernel

/-- A started command whose endpoints are as they were at its start. -/
def underWay (s : State) (m : Cmd) : Cmd := { m with started := true, incs := s.endpoints 0 m }

/-- A copy of 16 bytes within the scratchpad of core 0, under way. -/
def copy0 (g : Progress) : Cmd :=
  let m := { cmd0 (.xcp 0 false false) [0, 0x1000, 16] with
    src := some { win := .scratch 0, lo := 0, hi := 15 }, dst := some { win := .scratch 0, lo := 0x1000, hi := 0x100F }, prog := g }
  underWay (engineState m) m

theorem wit_ArrayAndEngineEvents_copy : ∀ n ∈ [(0 : Fin 4), 1],
    let m := copy0 { Progress.start with stage := n }
    let s := engineState m
    let p := s.xcpPlan 0 false false m.ops
    s.cmd? 0 m.tag = some m ∧ m.started = true ∧ m.stopped = false ∧ m.cancelAt = none ∧ s.memberEnded 0 m = false ∧ s.cmdStale 0 m = false ∧
      s.pkg.tests = [] ∧ s.pkg.mappedOut = [] ∧ s.packets = [] ∧ p.sw = .scratch 0 ∧
      p.dw = .scratch 0 ∧ p.dims = [] ∧ p.carry = false ∧ p.run ≠ 0 ∧ s.bad = [] ∧ s.mem.wf = true ∧ p.sa.toNat + p.run ≤ 0x400000 ∧
      p.da.toNat + p.run ≤ 0x400000 ∧ keyScratch 0 p.sa.toNat + p.run ≤ keyScratch 0 p.da.toNat ∧
      s.routeDead (dieOf (coreOf 0)) (dieOf 0) = false ∧ s.ringBlocked (dieOf (coreOf 0)) (dieOf 0) = false ∧ m.prog.wrote = 0 ∧
      m.prog.read = [] ∧ m.prog.stage = n := by
  decide +kernel

/-- What the general clauses of a command under way ask: it ends, is lost with a member or with what it was sent to, goes on, writes its tags. -/
theorem wit_ArrayAndEngineEvents_run :
    (let m := copy0 { Progress.start with stage := 3, status := 0x50 }
     (engineState m).cmd? 0 m.tag = some m ∧ m.prog.stage = 3 ∧ m.kind.engine = true ∧ m.kind.isFabric = false ∧ m.kind ≠ .xpf) ∧
    (let m := { copy0 .start with incs := [5] }
     (engineState m).cmd? 0 m.tag = some m ∧ m.cancelAt = none ∧ (engineState m).cmdStale 0 m = true) ∧
    (let m := { copy0 .start with dst := some { win := .scratch 1, lo := 0, hi := 15 } }
     let s := (gangState 9 (fun g => { g with members := [0, 2] }) id).setCmds 0 [m]
     s.cmd? 0 m.tag = some m ∧ m.kind.engine = true ∧ m.cancelAt = none ∧ s.memberEnded 0 m = true) ∧
    (∀ n ∈ [(0 : Fin 4), 2], ∀ cancel ∈ [none, some 3], ∀ i : Fin 3,
      let m := { copy0 { Progress.start with stage := n } with cancelAt := cancel }
      let s := engineState m
      (match s.runCmd 0 m (some i.val) with
       | (s1, .ok _) => decide (s1.cmdsOf 0 = s.cmdsOf 0) && s1.tempo == s.tempo
           && (match s.cmdTags 0 m with | (s2, none) => decide (s2.mem = s.mem) | _ => false)
       | _ => false) = true ∧ s.memberEnded 0 m = false ∧ s.cmdStale 0 m = false) := by decide +kernel

/-- A run that meets a fault: its source is not mapped. -/
theorem wit_ArrayAndEngineEvents_faults :
    let m := { cmd0 (.xcp 0 false false) [0x100000000, 0x1000, 16] with started := true, prog := { Progress.start with stage := 1 } }
    let m := underWay (engineState m) m
    (match (engineState m).runCmd 0 m none with | (s1, .error (.fault _)) => decide (s1.cmdsOf 0 = (engineState m).cmdsOf 0) | _ => false) = true := by
  decide +kernel

/-! ### Fills -/

/-- An XPF of a segment at an address, under way, in a state. -/
def fillCmd (s : State) (a : Word) : Cmd := underWay s (cmd0 .xpf [a])

/-- The segment of `imaged` at 0x1001000C0, changed or not, with the command that fetches it. -/
def fillState (a : Word) (f : State → State) : State :=
  let s := f (keyed (imaged (mapped 0x1F (gangState 9 id id))))
  s.setCmds 0 [fillCmd s a]

/-- How the first segment of a fill reads. -/
def segmentOf (s : State) (a : Nat) : Option (Nat × List Byte) :=
  match s.codeReader 0 a 32 with
  | .ok l => match s.codeReader 0 (a + 32) (fld (numOf l) 32 32) with | .ok b => some (numOf l, b) | .error _ => none
  | .error _ => none

theorem wit_ArrayAndEngineEvents_fill :
    (let s := fillState 0x1001000C0 id
     let m := fillCmd s 0x1001000C0
     s.cmd? 0 m.tag = some m ∧ m.stopped = false ∧ m.cancelAt = none ∧ s.cmdStale 0 m = false ∧ (m.ops.getD 0 0).toNat % 32 = 0 ∧
       (match segmentOf s 0x1001000C0 with
        | some (h, b) =>
            let f0 : Fill := { bundles := [], count := 0, table := ((s.core 0).chamber m.chamber).table, read := [] }
            fld h 0 32 == 0x5A475345 && fld h 224 32 == 0 && decide (fld h 144 16 < 4) && (crc32c b).toNat == fld h 160 32
              && (match expandBody (fld h 144 16 / 2 % 2 == 1) b f0 with
                  | (f, .ok made) => made == fld h 192 32 && decide (fld h 128 16 < f.count) | _ => false)
              && fld h 144 16 % 2 == 1
        | none => false) = true) := by decide +kernel

theorem wit_ArrayAndEngineEvents_fillEnds :
    (let s := fillState 0x1001000C1 id
     let m := fillCmd s 0x1001000C1
     s.cmd? 0 m.tag = some m ∧ (m.ops.getD 0 0).toNat % 32 ≠ 0) ∧
    (let s := fillState 0x200000000 id
     (match s.codeReader 0 0x200000000 32 with | .error st => st.xst.isSome | _ => false) = true) ∧
    (let s := fillState 0x1001000C0 fun s => s.setMem (writeN s.mem 0x1000C0 1 0)
     (match segmentOf s 0x1001000C0 with | some (h, _) => fld h 0 32 != 0x5A475345 | none => false) = true) ∧
    (let s := fillState 0x1001000C0 fun s => s.setMem (writeN s.mem 0x1000E0 1 0)
     (match segmentOf s 0x1001000C0 with | some (h, b) => (crc32c b).toNat != fld h 160 32 | none => false) = true) ∧
    (let s := fillState 0x1001000C0 fun s => { s with bad := [0x100100] }
     (match s.codeReader 0 0x1001000C0 32 with
      | .ok l => (match s.codeReader 0 0x1001000E0 (fld (numOf l) 32 32) with | .error st => st.xst.isSome | .ok _ => false)
      | _ => false) = true) := by decide +kernel

/-- Bodies that do not expand: a token that names nothing, and more bundles than a chamber holds; and one that expands to one bundle. -/
theorem wit_ArrayAndEngineEvents_expand :
    let f0 : Fill := { bundles := [], count := 0, table := [], read := [] }
    (match expandBody false (bytesOf 0x0200 2) f0 with | (_, .error .crc) => true | _ => false) = true ∧
    (match expandBody false (bytesOf 0xFFFF 2 ++ bytesOf 0 32) { f0 with count := 4096 } with | (_, .error .full) => true | _ => false) = true ∧
    (match expandBody false (bytesOf 0xFFFF 2 ++ bytesOf 0 32) f0 with | (_, .ok 1) => true | _ => false) = true := by decide +kernel

/-! ### Conversions and routing -/

/-- An XCNV of one group: FP32 to N8 or back, between 0 and 0x1000 of core 0. -/
def convert0 (fl : Bool) : Cmd :=
  let m := { cmd0 (.xcnv fl) [0, 0x1000, 0x0001000100000007 + 16, 0] with prog := { Progress.start with stage := 1 } }
  underWay (engineState m) m

theorem wit_ArrayAndEngineEvents_convert : ∀ fl ∈ [false, true],
    let m := convert0 fl
    let s := (engineState m).setTag (keyScratch 0 0) (if fl then planeTag true false 7 127 else 0)
    let k := cnvOf m.ops
    s.cmd? 0 m.tag = some m ∧ m.started = true ∧ m.stopped = false ∧ m.cancelAt = none ∧ s.memberEnded 0 m = false ∧ s.cmdStale 0 m = false ∧
      s.bad = [] ∧ s.pkg.tests = [] ∧ s.pkg.mappedOut = [] ∧ s.mem.wf = true ∧ m.prog.stage = 1 ∧ m.prog.wrote = 0 ∧ k.ng = 1 ∧ k.rows = 1 ∧
      k.ff < 5 ∧ (m.ops.getD 0 0).toNat % 64 = 0 ∧ (m.ops.getD 1 0).toNat % 64 = 0 ∧
      (m.ops.getD 0 0).toNat + k.groupBytes fl ≤ 0x400000 ∧ (m.ops.getD 1 0).toNat + k.groupBytes (!fl) ≤ 0x400000 ∧
      (fl = false → k.two = decide (8 < k.p) ∧
        (List.range (ffBytes k.ff)).all (fun i => floatTagFlaw k.ff (s.tagOf (keyScratch 0 (64 * i))) == none) = true) ∧
      (fl = true → (checkGroup k.two k.p m.prog.agreed (s.tagOf (keyScratch 0 0)) (s.tagOf (keyScratch 0 64))).toOption.isSome = true) := by
  decide +kernel

/-- An XRTE of two tokens to one expert of room for one: the lists of core 0 at 0, 0x100, 0x200, 0x300 and 0x400. -/
def route0 (g : Progress) : Cmd :=
  let m := { cmd0 .xrte [0, 0x100, 0x200, 0x300, 0x400, 2, 4 * 2 ^ 32] with prog := g }
  underWay (engineState m) m

theorem wit_ArrayAndEngineEvents_route :
    (∀ g ∈ [Progress.start, { Progress.start with stage := 1, words := [(0x200, 1), (0x300, 1), (0x304, 0)] }],
      let m := route0 g
      let s := engineState m
      s.cmd? 0 m.tag = some m ∧ m.started = true ∧ m.stopped = false ∧ m.cancelAt = none ∧ s.memberEnded 0 m = false ∧ s.cmdStale 0 m = false ∧
        s.bad = [] ∧ s.pkg.tests = [] ∧ s.pkg.mappedOut = [] ∧ s.mem.wf = true ∧ m.prog.wrote = 0 ∧ (routeOf m.ops).cnt.toNat < 0x400000) ∧
    (let m := route0 .start
     let s := engineState m
     let r := routeOf m.ops
     r.ids.toNat < 0x400000 ∧ r.ids.toNat + 2 * r.t ≤ 0x400000 ∧ r.caps.toNat + 4 * r.x ≤ 0x400000 ∧
       (let ids := readN s.mem (keyScratch 0 r.ids.toNat) (2 * r.t)
        let caps := readN s.mem (keyScratch 0 r.caps.toNat) (4 * r.x)
        let out := routeTokens r (fun e => min (lane caps 32 e) (r.lstd / 4)) (fun i => lane ids 16 i) r.t 0 [] 0
        (out.1 ++ ((List.range r.x).map fun e => (r.cnt.toNat + 4 * e, lookupD 0 out.2.1 e)) ++ [(r.cnt.toNat + 4 * r.x, out.2.2)]).all
          fun w => w.1 % 4 == 0 && decide (w.1 + 4 ≤ 0x400000)) = true) ∧
    (let l : List (Nat × Nat) := [(0x200, 1), (0x300, 1), (0x304, 0)]
     (l.map (·.1)).Nodup ∧ l.all (fun w => w.1 % 4 == 0 && decide (w.1 + 4 ≤ 0x400000)) = true) := by decide +kernel

/-! ## Partitions -/

/-- Partition 0 owns the first GiB of die 0's stack and four rows; its ASID table of one entry, w, stands at 0x1000. -/
def tableState (w : Nat) : State :=
  (postState fun p =>
    { p with pmem := p.pmem.set 0 (BitVec.ofNat 64 (2 ^ 32)), psrow := 0x40000, pasidtBase := 0x1000 }).setMem
    (writeN [] (keyPA 0x1000) 32 w)

def entryWord : Nat := 2 ^ 127 + 2 ^ 112 * 9 + 2 ^ 96 * 512 + 2 ^ 64 * 3 + 524288

theorem wit_PartitionEvents_config :
    (let s := runState 9 id id id
     s.configOpen 0 = false) ∧
    (let s := postState id
     s.configOpen 0 = true ∧ s.fieldOk 0 .phbm ((s.part 0).withField .phbm 0) = false) ∧
    (let s := postState fun p => { p with pkeys := 0x20000 }
     s.configOpen 0 = true ∧ s.fieldOk 0 .pkeys ((s.part 0).withField .pkeys 0x4000000) = true) ∧
    (let s := tableState entryWord
     s.configOpen 0 = true ∧ s.serviceOk 0 (s.part 0) = true ∧ (1024 : Word).toNat % 1024 = 0 ∧ (1025 : Word).toNat % 1024 = 1 ∧
       (readN s.mem (keyPA ((s.part 0).pasidtBase.toNat % 2 ^ 39)) 32).testBit 127 = true ∧
       asidEntryOk (readN s.mem (keyPA ((s.part 0).pasidtBase.toNat % 2 ^ 39)) 32) (fld (s.part 0).psrow.toNat 16 14) = true ∧
       (asidEntryOf entryWord).func = 512 ∧ s.parts.map (·.1) = [0]) ∧
    (let s := tableState (entryWord + 2 ^ 96)
     s.configOpen 0 = true ∧ s.serviceOk 0 (s.part 0) = true ∧
       (readN s.mem (keyPA ((s.part 0).pasidtBase.toNat % 2 ^ 39)) 32).testBit 127 = true ∧
       asidEntryOk (readN s.mem (keyPA ((s.part 0).pasidtBase.toNat % 2 ^ 39)) 32) (fld (s.part 0).psrow.toNat 16 14) = false) := by
  decide +kernel

def lineState : State := (postState id).setDie 0 { Die.reset with cache := [{ addr := 0, part := 3, key := 0, way := 15, dirty := true }] }

theorem wit_PartitionEvents_units :
    (let s := lineState
     ∃ k d, (k, d) ∈ s.dies ∧ ∃ l ∈ d.cache, ((0x8000 : Word).truncate 16 : BitVec 16).getLsbD l.way.val = true ∧
       (s.part 0).pway.getLsbD l.way.val = false ∧ l.part ≠ 0) ∧
    (let s := postState id
     s.pkg.bstate = 2 ∧ s.dies = [] ∧ (s.part 0).wsweepDone = true ∧ (s.part 0).log = []) ∧
    ((postState fun p => { p with wsweepDone := false }).part 0).wsweepDone = false ∧
    2 ≤ (0x8000 : Word).toNat / 2 ^ 14 % 4 ∧ (0x4000 : Word).toNat / 2 ^ 14 % 4 = 1 := by
  refine ⟨⟨0, { Die.reset with cache := [{ addr := 0, part := 3, key := 0, way := 15, dirty := true }] }, by decide +kernel, _,
    List.mem_singleton.2 rfl, by decide +kernel, by decide +kernel, by decide +kernel⟩, by decide +kernel⟩

theorem wit_PartitionEvents_scrub :
    (let req : BitVec 512 := BitVec.ofNat 512 (0xFFFF * 2 ^ 16 + 2 ^ 8)
     (let s := runState 9 id id id
      s.scopeResident (s.scopeOf 0 (fld req.toNat 16 16)) = true) ∧
     (let s := postState fun p => { p with pclus := 1 }
      s.scopeResident (s.scopeOf 0 (fld req.toNat 16 16)) = false ∧ s.scrubOk req.toNat = true) ∧
     (∀ who ∈ [ScrubOwner.host, .flr, .prst],
      let j : ScrubJob := { req := req, t0 := 0, w0 := 0, owner := who }
      let s := postState fun p => { p with scrub := [j] }
      (s.part 0).scrub = j :: [] ∧ s.drainWait 0 = 0 ∧ fld req.toNat 16 16 = 0xFFFF ∧ fld req.toNat 8 1 = 1 ∧ (s.part 0).prstDone = true) ∧
     (let w : WqEntry := { ctx := 0, kind := none, queue := 0, drain := 1000000, key := 0, old := [0] }
      let j : ScrubJob := { req := req, t0 := 0, w0 := 0, owner := .host }
      let s := postState fun p => { p with scrub := [j], wq := [w] }
      (s.part 0).scrub = j :: [] ∧ s.drainWait 0 ≠ 0)) ∧
    32 ≤ fld (BitVec.ofNat 512 32).toNat 0 8 ∧
    (let req : BitVec 512 := BitVec.ofNat 512 (513 * 2 ^ 16)
     let s := postState id
     s.scopeResident (s.scopeOf 0 (fld req.toNat 16 16)) = false ∧ s.scrubOk req.toNat = false) := by decide +kernel

/-- A die whose count of soft errors stands at the threshold, whatever that is, and one whose count does not. -/
theorem wit_softPasses :
    (let d : Die := { Die.reset with soft := BitVec.ofNat 16 Config.softThreshold.val }
     softPasses ((State.reset.setDie 0 d).die 0).soft = true) ∧ softPasses (BitVec.allOnes 16) = false := by
  have h := Config.softThreshold.isLt
  refine ⟨?_, ?_⟩
  · show (BitVec.ofNat 16 Config.softThreshold.val).toNat == Config.softThreshold.val
    rw [BitVec.toNat_ofNat, Nat.mod_eq_of_lt (by omega)]
    exact beq_self_eq_true _
  · show ((65535 : Nat) == Config.softThreshold.val) = false
    exact beq_eq_false_iff_ne.2 (by omega)

theorem wit_PartitionEvents_resets :
    (postState id).serving? = true ∧ State.reset.serving? = false ∧
    ((postState id).func 512).busy = false ∧ ((postState id).part 31).prstDone = true ∧ (1 : Word).getLsbD 0 = true ∧
    (((postState id).setFunc 1 { Func.reset with busy := true }).func 1).busy = true ∧
    ((postState fun p => { p with prstDone := false }).part 0).prstDone = false := by decide +kernel

/-- A reset of function 512 whose scrub stands first. -/
theorem wit_PartitionEvents_flr :
    let j : ScrubJob := { req := BitVec.ofNat 512 (512 * 2 ^ 16 + 2 ^ 8), t0 := 0, w0 := 0, owner := .flr }
    let s := (postState fun p => { p with scrub := [j] }).setFunc 512 { Func.reset with ready := false, busy := true, step := 5 }
    (s.part 0).scrub = j :: [] ∧ s.drainWait 0 = 0 ∧ (s.part 0).prstDone = true ∧ (s.func (Fin.ofNat 513 (fld j.req.toNat 16 16))).busy = true := by
  decide +kernel

/-- Key 0 while a write of a block under it stands queued, and without one. -/
theorem wit_PartitionEvents_keys :
    (let w : WqEntry := { ctx := 0, kind := none, queue := 0, drain := 1, key := 0x100000, old := [0] }
     let s := keyed (mapped 0x1F State.reset)
     lookup? s.pkg.keys 0 = some 1 ∧ s.keyBusy 1 = false ∧ (s.mapPart 0 fun p => { p with wq := [w] }).keyBusy 1 = true) ∧
    (let s := mapped 0x1F State.reset
     (s.part 0).ownsKey 0 = true ∧ (lookup? s.pkg.keys 0).isSome = true ∧ (s.part 0).ownsKey 1 = false) ∧
    (let s := postState fun p => { p with pkeys := 0x20000 }
     (s.part 0).ownsKey 1 = true ∧ lookup? s.pkg.keys 1 = none) := by decide +kernel

/-! ## An adjourn area that can be written -/

/-- The partition of `mapped` with its write queue. -/
def mappedPart (q : List WqEntry × Nat) : Part :=
  { Part.reset with
    pclus := 1, pkeys := 0x10000, pmem := Part.reset.pmem.set 0 (BitVec.ofNat 64 (2 ^ 32))
    asids := [{ root := 0x80000, pasid := 0, func := 0, asid := 0, sroff := 0, srcnt := 4 }], wq := q.1, wqCount := q.2 }

/-- What a translation in `mapped` rests on, its page tables among it. -/
structure MappedLike (s : State) : Prop where
  part : ∃ q, s.part 0 = mappedPart q
  core : (s.core 0).tlb = []
  die : s.die 0 = { Die.reset with inService := true, stackUp := true }
  keys : s.pkg.keys = [(0, 1)]
  id : s.pkg.id = 0
  wf : s.mem.wf = true
  root : readN s.mem 0x80000 8 = 0x40001
  leaf : readN s.mem 0x40200 8 = 0x1F
  bad : s.bad = []
  out : s.pkg.mappedOut = []
  raw : lookupD 0 s.pkg.blockKey 0x80000 = 0 ∧ lookupD 0 s.pkg.blockKey 0x40200 = 0

theorem mapped_walk (m : Memory) (q : List WqEntry × Nat) (va : Nat) (h0 : readN m 0x80000 8 = 0x40001) (h1 : readN m 0x40200 8 = 0x1F)
    (lo : 2 ^ 32 ≤ va) (hi : va < 2 ^ 32 + 2 ^ 26) : walk m 0 (mappedPart q) va 3 0x80000 = .ok (0x1F, 2) := by
  have e3 : fld va 40 16 = 0 := by simp only [fld]; omega
  have e2 : fld va 26 14 = 64 := by simp only [fld]; omega
  have p3 : pteAt 0 (mappedPart q) 3 0x40001 = .ok (.inr 0x40000) :=
    (show pteAt 0 (mappedPart q) 3 0x40001 = pteAt 0 (mappedPart ([], 0)) 3 0x40001 from rfl).trans (by decide +kernel)
  have p2 : pteAt 0 (mappedPart q) 2 0x1F = .ok (.inl 0x1F) :=
    (show pteAt 0 (mappedPart q) 2 0x1F = pteAt 0 (mappedPart ([], 0)) 2 0x1F from rfl).trans (by decide +kernel)
  show (match pteAt 0 (mappedPart q) 3 (readN m (keyPA (0x80000 + 8 * fld va 40 16)) 8) with
    | .error d => .error d | .ok (.inl e) => .ok (e, 3) | .ok (.inr next) => walk m 0 (mappedPart q) va 2 next : Except Nat (Nat × Nat)) = _
  rw [e3, show readN m (keyPA (0x80000 + 8 * 0)) 8 = 0x40001 from h0, p3]
  show (match pteAt 0 (mappedPart q) 2 (readN m (keyPA (0x40000 + 8 * fld va 26 14)) 8) with
    | .error d => .error d | .ok (.inl e) => .ok (e, 2) | .ok (.inr next) => walk m 0 (mappedPart q) va 1 next : Except Nat (Nat × Nat)) = _
  rw [e2, show readN m (keyPA (0x40000 + 8 * 64)) 8 = 0x1F from h1, p2]

theorem mapped_walkReads (m : Memory) (q : List WqEntry × Nat) (va : Nat) (h0 : readN m 0x80000 8 = 0x40001) (h1 : readN m 0x40200 8 = 0x1F)
    (lo : 2 ^ 32 ≤ va) (hi : va < 2 ^ 32 + 2 ^ 26) : walkReads m 0 (mappedPart q) va 3 0x80000 = [0x80000, 0x40200] := by
  have e3 : fld va 40 16 = 0 := by simp only [fld]; omega
  have e2 : fld va 26 14 = 64 := by simp only [fld]; omega
  have p3 : pteAt 0 (mappedPart q) 3 0x40001 = .ok (.inr 0x40000) :=
    (show pteAt 0 (mappedPart q) 3 0x40001 = pteAt 0 (mappedPart ([], 0)) 3 0x40001 from rfl).trans (by decide +kernel)
  have p2 : pteAt 0 (mappedPart q) 2 0x1F = .ok (.inl 0x1F) :=
    (show pteAt 0 (mappedPart q) 2 0x1F = pteAt 0 (mappedPart ([], 0)) 2 0x1F from rfl).trans (by decide +kernel)
  show keyPA (0x80000 + 8 * fld va 40 16) :: (match pteAt 0 (mappedPart q) 3 (readN m (keyPA (0x80000 + 8 * fld va 40 16)) 8) with
    | .ok (.inr next) => walkReads m 0 (mappedPart q) va 2 next | _ => []) = _
  rw [e3, show readN m (keyPA (0x80000 + 8 * 0)) 8 = 0x40001 from h0, p3]
  show _ :: keyPA (0x40000 + 8 * fld va 26 14) :: (match pteAt 0 (mappedPart q) 2 (readN m (keyPA (0x40000 + 8 * fld va 26 14)) 8) with
    | .ok (.inr next) => walkReads m 0 (mappedPart q) va 1 next | _ => []) = _
  rw [e2, show readN m (keyPA (0x40000 + 8 * 64)) 8 = 0x1F from h1, p2]
  rfl

theorem mapped_noFlaw (s : State) (h : MappedLike s) (va : Word) (lo : 2 ^ 32 ≤ va.toNat) (hi : va.toNat < 2 ^ 32 + 2 ^ 26) :
    s.walkFlaw 0 0 0 va = none := by
  obtain ⟨q, hq⟩ := h.part
  have ht : s.tlbEntry? 0 0 0 va.toNat = none := by
    simp only [State.tlbEntry?, h.core, show dieOf 0 = 0 from rfl, h.die]
    rfl
  have hw := mapped_walkReads s.mem q va.toNat h.root h.leaf lo hi
  have hl : s.walkOf 0 0 0 va.toNat = [0x80000, 0x40200] := by
    simp only [State.walkOf, ht, hq, h.id]
    exact hw
  have hm : ∀ a, lookupD 0 s.pkg.blockKey (blockOf a) = 0 → s.walkerMay 0 a = true := by
    intro a ha
    simp [State.walkerMay, State.blockKeyOf, ha]
  have hb : ∀ a b, s.eccAt a b = none := by intro a b; simp [State.eccAt, h.bad]
  have hm1 : s.walkerMay 0 0x80000 = true := hm _ h.raw.1
  have hm2 : s.walkerMay 0 0x40200 = true := hm _ h.raw.2
  simp only [State.walkFlaw, hl, List.findSome?_cons, List.findSome?_nil, hm1, hm2, hb, Option.map_none, Bool.true_eq_false, if_false]

theorem mapped_translate (s : State) (h : MappedLike s) (va : Word) (lo : 2 ^ 32 + 2 ^ 24 ≤ va.toNat) (hi : va.toNat < 2 ^ 32 + 2 ^ 26) :
    s.translate (s.dirCore 0) 0 0 va .write =
      .ok { key := va.toNat - 2 ^ 32, pa := va.toNat - 2 ^ 32, dev := true, host := false, kid := 0, knum := 1, cached := true } := by
  obtain ⟨q, hq⟩ := h.part
  have hc : s.dirCore 0 = 0 := by simp only [State.dirCore, hq]; exact (show (mappedPart ([], 0)).cores.head?.getD 0 = 0 by decide +kernel)
  have hl : s.leafOf 0 0 0 va.toNat = .ok (0x1F, 2) := by
    have hw := mapped_walk s.mem q va.toNat h.root h.leaf (by omega) hi
    have ht : s.tlbEntry? 0 0 0 va.toNat = none := by
      simp only [State.tlbEntry?, h.core, show dieOf 0 = 0 from rfl, h.die]
      rfl
    simp only [State.leafOf, hq, ht, h.id]
    exact hw
  have hpa : fld 0x1F 16 36 * 65536 + va.toNat % 2 ^ walkShift 2 = va.toNat - 2 ^ 32 := by
    show 0 * 65536 + va.toNat % 2 ^ 26 = _
    omega
  have hs : (mappedPart q).inShare (va.toNat - 2 ^ 32) = true := by
    have e : (va.toNat - 2 ^ 32) / 2 ^ 36 = 0 := by omega
    have e' : (va.toNat - 2 ^ 32) / 2 ^ 26 = 0 := by omega
    have h0 : (mappedPart ([], 0)).inShare 0 = true := by decide +kernel
    simp only [Part.inShare, Nat.zero_div] at h0
    simp only [Part.inShare, e, e']
    exact h0
  have hk : keyPA (va.toNat - 2 ^ 32) = va.toNat - 2 ^ 32 := by
    have e : (va.toNat - 2 ^ 32) / 2 ^ 36 % 8 = 0 := by omega
    have e' : (va.toNat - 2 ^ 32) % 2 ^ 36 = va.toNat - 2 ^ 32 := by omega
    rw [keyPA, keyDev, e, e', Nat.zero_mul, Nat.zero_add]
  have h39 : (va.toNat - 2 ^ 32) % 2 ^ 39 = va.toNat - 2 ^ 32 := by omega
  have hid : fld (va.toNat - 2 ^ 32) 39 12 = 0 := by simp only [fld]; omega
  have hd : (va.toNat - 2 ^ 32) / 2 ^ 36 = 0 := by omega
  have h51 : ¬ 2 ^ 51 ≤ va.toNat - 2 ^ 32 := by omega
  have hn := mapped_noFlaw s h va (by omega) hi
  have ho' : ∀ a, s.mappedOut a = false := by intro a; simp [State.mappedOut, h.out]
  simp only [State.translate, hc, hn, hl, hpa, hq, h39, hs, hid, hd, h.keys, h.id, hk, if_neg h51]
  have f2 : fld 0x1F 2 1 = 1 := by decide +kernel
  have f3 : fld 0x1F 3 1 = 1 := by decide +kernel
  have f52 : fld 0x1F 52 10 = 0 := by decide +kernel
  have f6 : fld 0x1F 6 2 = 0 := by decide +kernel
  have ho : (mappedPart q).ownsKey 0 = true := (show (mappedPart ([], 0)).ownsKey 0 = true by decide +kernel)
  have hf : (mappedPart q).inFreeze (va.toNat - 2 ^ 32) = false := by
    have : fld (mappedPart q).pfrz.toNat 0 52 = 0 := (show fld (mappedPart ([], 0)).pfrz.toNat 0 52 = 0 by decide +kernel)
    simp [Part.inFreeze, this]
  simp [h.die, f2, f3, f52, f6, ho, ho', lookup?, show (mappedPart q).inFreeze (va.toNat - 4294967296) = false from hf]

theorem MappedLike.of {s t : State} (h : MappedLike s) (hp : t.parts = s.parts) (hc : t.cores = s.cores) (hd : t.dies = s.dies)
    (hk : t.pkg.keys = s.pkg.keys) (hi : t.pkg.id = s.pkg.id)
    (hb : t.bad = s.bad) (ho : t.pkg.mappedOut = s.pkg.mappedOut)
    (hr : lookupD 0 t.pkg.blockKey 0x80000 = 0 ∧ lookupD 0 t.pkg.blockKey 0x40200 = 0) {m : Memory} (he : t.mem = m)
    (hm : m.wf = true ∧ readN m 0x80000 8 = 0x40001 ∧ readN m 0x40200 8 = 0x1F) : MappedLike t :=
  ⟨by obtain ⟨q, hq⟩ := h.part; exact ⟨q, by rw [State.part, hp]; exact hq⟩, by rw [State.core, hc]; exact h.core,
    by rw [State.die, hd]; exact h.die, by rw [hk]; exact h.keys, by rw [hi]; exact h.id, he ▸ hm.1, he ▸ hm.2.1, he ▸ hm.2.2,
    by rw [hb]; exact h.bad, by rw [ho]; exact h.out, hr⟩

theorem mapped_write (s : State) (h : MappedLike s) (c : CtxId) (t : Tgt) (n v : Nat) (hd : t.dev = true) (hk : 2 ^ 24 ≤ t.key)
    (hn : t.knum = 1) : MappedLike (s.writeTgt 0 c t n v none) := by
  have hm : ∀ (m : Memory) (a n v : Nat), m.wf = true → 2 ^ 24 ≤ a → readN m 0x80000 8 = 0x40001 → readN m 0x40200 8 = 0x1F →
      (writeN m a n v).wf = true ∧ readN (writeN m a n v) 0x80000 8 = 0x40001 ∧ readN (writeN m a n v) 0x40200 8 = 0x1F := by
    intro m a n v hw ha h0 h1
    refine ⟨writeN_wf m a n v hw, ?_, ?_⟩
    · rw [← h0]; exact readN_congr _ _ _ _ fun i hi => readByte_writeN_other m a n v _ hw (.inl (by omega))
    · rw [← h1]; exact readN_congr _ _ _ _ fun i hi => readByte_writeN_other m a n v _ hw (.inl (by omega))
  have hb : 2 ^ 24 ≤ blockOf t.key := by simp only [blockOf]; omega
  obtain ⟨q, hq⟩ := h.part
  have h1 : MappedLike (s.queueWrite 0 c t n none) :=
    ⟨⟨(((s.queueWrite 0 c t n none).part 0).wq, ((s.queueWrite 0 c t n none).part 0).wqCount), by
        simp only [State.queueWrite, State.mapPart, State.setPart, State.part, lookupD_insertAt_self]
        rw [show lookupD Part.reset s.parts ((0 : PartId) : Nat) = mappedPart q from hq]
        rfl⟩, h.core, h.die, h.keys, h.id, h.wf, h.root, h.leaf, h.bad, h.out, h.raw⟩
  have e : s.writeTgt 0 c t n v none = ((s.queueWrite 0 c t n none).ownBlock t.key t.knum).setMem
      (writeN ((s.queueWrite 0 c t n none).ownBlock t.key t.knum).mem t.key n v) := by simp only [State.writeTgt, hd, if_true]
  rw [e]
  generalize s.queueWrite 0 c t n none = s1 at h1
  have h2 : MappedLike (s1.ownBlock t.key t.knum) := by
    by_cases hk1 : s1.blockKeyOf t.key = t.knum
    · rw [State.ownBlock, if_pos hk1]; exact h1
    · rw [State.ownBlock, if_neg hk1]
      have x := hm s1.mem (blockOf t.key) 64 (Config.freeBits s1.draws (2000 + blockOf t.key)) h1.wf hb h1.root h1.leaf
      have hr : lookupD 0 (insertAt s1.pkg.blockKey (blockOf t.key) t.knum) 0x80000 = 0 ∧
          lookupD 0 (insertAt s1.pkg.blockKey (blockOf t.key) t.knum) 0x40200 = 0 := by
        rw [lookupD_insertAt_other _ _ _ _ _ (by omega), lookupD_insertAt_other _ _ _ _ _ (by omega)]
        exact h1.raw
      rw [if_neg (by omega)]
      generalize writeN s1.mem (blockOf t.key) 64 (Config.freeBits s1.draws (2000 + blockOf t.key)) = m at x
      generalize insertAt s1.pkg.blockKey (blockOf t.key) t.knum = k at hr
      exact h1.of rfl rfl rfl rfl rfl rfl rfl hr rfl x
  generalize s1.ownBlock t.key t.knum = s2 at h2
  have x := hm s2.mem t.key n v h2.wf hk h2.root h2.leaf
  generalize writeN s2.mem t.key n v = m at x
  exact h2.of rfl rfl rfl rfl rfl rfl rfl h2.raw rfl x

theorem mapped_dirPut (fuel : Nat) : ∀ (s : State) (va : Nat) (l : List Byte), MappedLike s → 2 ^ 32 + 2 ^ 24 ≤ va →
    va + l.length < 2 ^ 32 + 2 ^ 26 → (State.dirPut 0 0 fuel s va l).isSome = true := by
  induction fuel with
  | zero => intros; rfl
  | succ n ih =>
    intro s va l h lo hi
    simp only [State.dirPut]
    split
    · rfl
    · have hv : (BitVec.ofNat 64 va).toNat = va := by simp [BitVec.toNat_ofNat]; omega
      rw [mapped_translate s h (BitVec.ofNat 64 va) (by rw [hv]; omega) (by rw [hv]; omega), hv]
      refine ih _ _ _ (mapped_write s h _ _ _ _ rfl (by show 2 ^ 24 ≤ va - 2 ^ 32; omega) rfl) (by omega) ?_
      rw [List.length_drop]; omega

/-- The one gang of region 1, stopped for an adjourn, with an area of 8 KiB for its one member. -/
def adjournRegion : Region :=
  { region0 with leaf := true, state := .running, gang := some 0, eff := { region0.eff with adja := 0x101000000 } }

def adjournGang : Gang := { fetchGang 0 with region := 1, writing := true, adjourn := true }

def adjournState : State := mapped 0x1F ((gangState 64 (fun _ => adjournGang) fun x => { x with run := .parked }).setRegion 1 adjournRegion)

theorem bytesOf_length (n : Nat) : ∀ v, (bytesOf v n).length = n := by
  induction n with
  | zero => intro; rfl
  | succ n ih => intro v; simp only [bytesOf, List.length_cons, ih]

theorem flatMap_length {α : Type} (f : α → List Byte) (n : Nat) (h : ∀ a, (f a).length = n) (l : List α) :
    (l.flatMap f).length = n * l.length := by
  induction l with
  | nil => rfl
  | cons a l ih => rw [List.flatMap_cons, List.length_append, h, ih, List.length_cons]; ring

theorem barrierBytes_length (x : Saved) : x.barrierBytes.length = 640 := by
  rw [Saved.barrierBytes, flatMap_length _ 40 fun b => by rw [List.length_append, bytesOf_length, bytesOf_length]]
  rw [List.length_finRange]

theorem adjournState_like : MappedLike adjournState :=
  ⟨⟨([], 0), by decide +kernel⟩, by decide +kernel, by decide +kernel, by decide +kernel, by decide +kernel, by decide +kernel,
    by decide +kernel, by decide +kernel, by decide +kernel, by decide +kernel, by decide +kernel⟩

theorem wit_FlagTimeEvents_adjournDone :
    let s := adjournState
    s.gang? adjournGang.id = some adjournGang ∧ s.region? adjournGang.region = some adjournRegion ∧ adjournRegion.id = adjournGang.region ∧
      adjournGang.writing = true ∧ adjournGang.area = none ∧ s.hopsOut adjournGang.id = false ∧ (∀ c ∈ s.liveMembers adjournGang, (s.ctx c).acc = [] ∧ (s.ctx c).pend = []) ∧
      ∃ s1, s.adjournOut adjournGang adjournRegion = some s1 := by
  refine ⟨by decide +kernel, by decide +kernel, rfl, rfl, rfl, by decide +kernel, by decide +kernel, ?_⟩
  have hlen : ∀ w, (adjournState.areaBytes (adjournState.adjournSaved adjournGang) w).length = 8192 := by
    intro w
    have h1 : (adjournState.adjournSaved adjournGang).members.map (·.ended) = [false] := by decide +kernel
    have h2 : (adjournState.adjournSaved adjournGang).items = [] := by decide +kernel
    have h3 : (adjournState.adjournSaved adjournGang).namedChains = [] := by decide +kernel
    have h4 : (adjournState.adjournSaved adjournGang).streams = [] := by decide +kernel
    generalize adjournState.adjournSaved adjournGang = x at h1 h2 h3 h4
    obtain ⟨m, hm, he⟩ := List.map_eq_singleton_iff.1 h1
    simp [State.areaBytes, State.memberBlock, blockOffsets, hm, he, h2, h3, h4, bytesOf_length, barrierBytes_length]
  have ha : adjournState.areaOk 0 0 0x101000000 8192 = true := by decide +kernel
  simp only [State.adjournOut, hlen]
  rw [if_pos (show adjournState.areaOk adjournRegion.part adjournRegion.asid adjournRegion.eff.adja 8192 = true from ha)]
  refine Option.isSome_iff_exists.1 ?_
  rw [State.dirWrite, Option.isSome_map]
  exact mapped_dirPut _ adjournState 0x101000000 _ adjournState_like (by norm_num) (by rw [hlen]; norm_num)

end Sys2Proof.Tests
end

section
/-! PROOFS. The results of the scalar slots in the numbers of 06 R171 to R177. -/

namespace Sys2Proof.Machine

/-! ## A scalar operation lands its result -/

/-- Setting one result to land is the landing of that result alone. -/
theorem land_eq_landing (s : State) (lat : Nat) (w : LandWhat) : s.land lat w = s.landing lat [w] := rfl

/-- A scalar operation that does not score sets its word to land alone. -/
theorem scalarOp_of_not_scoreHit {s : State} {i : Instr} {lat : Nat} (hscore : s.scoreHit i lat = false) (d : SReg) (w : Word) :
    s.scalarOp i lat d w = .next (s.landing lat [.s d s.sProd w]) := by
  simp [State.scalarOp, State.scored, hscore, land_eq_landing]

/-- The same where a rule gives latency, destination and value, and the word is the residue of that value. -/
theorem scalarOp_eq_landing {s : State} {i : Instr} {lat lat' : Nat} {d d' : SReg} {w : Word} {v v' : Int}
    (hscore : s.scoreHit i lat = false) (hrule : some (lat', d', v') = some (lat, d, v)) (hw : w = BitVec.ofInt 64 v') :
    s.scalarOp i lat' d' w = .next (s.landing lat [.s d s.sProd (BitVec.ofInt 64 v)]) := by
  cases hrule
  rw [scalarOp_of_not_scoreHit hscore, hw]

/-! ## Words and the numbers that they hold -/

/-- A word is the residue of every number that has its value modulo 2^64. -/
theorem eq_ofInt_of_toNat {w : Word} {n : Nat} (h : w.toNat = n % 2 ^ 64) : w = BitVec.ofInt 64 n := by
  rw [BitVec.ofInt_natCast]
  exact BitVec.eq_of_toNat_eq (by simpa using h)

theorem eq_ofInt_toNat (w : Word) : w = BitVec.ofInt 64 w.toNat :=
  eq_ofInt_of_toNat (Nat.mod_eq_of_lt w.isLt).symm

/-- A word whose value is known is the residue of that value. -/
theorem eq_ofInt_of_toNat_eq {w : Word} {n : Nat} (h : w.toNat = n) : w = BitVec.ofInt 64 n :=
  h ▸ eq_ofInt_toNat w

theorem eq_ofInt_of_toInt_eq {w : Word} {v : Int} (h : w.toInt = v) : w = BitVec.ofInt 64 v :=
  h ▸ BitVec.ofInt_toInt.symm

theorem add_eq_ofInt (x y : Word) : x + y = BitVec.ofInt 64 (x.toNat + y.toNat) := by
  rw [BitVec.ofInt_add, ← eq_ofInt_toNat, ← eq_ofInt_toNat]

theorem sub_eq_ofInt (x y : Word) : x - y = BitVec.ofInt 64 (x.toNat - y.toNat) := by
  rw [Int.sub_eq_add_neg, BitVec.ofInt_add, BitVec.ofInt_neg, ← eq_ofInt_toNat, ← eq_ofInt_toNat, BitVec.sub_eq_add_neg]

theorem add_signExtend_eq_ofInt {n : Nat} (x : Word) (imm : BitVec n) :
    x + imm.signExtend 64 = BitVec.ofInt 64 (x.toNat + imm.toInt) := by
  rw [BitVec.ofInt_add, ← eq_ofInt_toNat]; rfl

theorem mul_eq_ofInt (x y : Word) : x * y = BitVec.ofInt 64 (x.toNat * y.toNat : Nat) :=
  eq_ofInt_of_toNat (BitVec.toNat_mul x y)

/-! ## Shifts and rotations (R171, R174) -/

theorem shiftLeft_eq_ofInt (x : Word) (n : Nat) : x <<< n = BitVec.ofInt 64 (x.toNat * 2 ^ n : Nat) :=
  eq_ofInt_of_toNat (by rw [BitVec.toNat_shiftLeft, Nat.shiftLeft_eq])

theorem add_shiftLeft_eq_ofInt (x y : Word) (n : Nat) :
    x + (y <<< n) = BitVec.ofInt 64 (x.toNat + y.toNat * 2 ^ n : Nat) := by
  rw [Int.natCast_add, BitVec.ofInt_add, ← eq_ofInt_toNat, ← shiftLeft_eq_ofInt]

theorem shiftRight_eq_ofInt (x : Word) (n : Nat) : x >>> n = BitVec.ofInt 64 (x.toNat / 2 ^ n : Nat) :=
  eq_ofInt_of_toNat_eq (by rw [BitVec.toNat_ushiftRight, Nat.shiftRight_eq_div_pow])

theorem sshiftRight_eq_ofInt (x : Word) (n : Nat) : x.sshiftRight n = BitVec.ofInt 64 (x.toInt / (2 ^ n : Nat)) :=
  eq_ofInt_of_toInt_eq (by rw [BitVec.toInt_sshiftRight, Int.shiftRight_eq_div_pow])

/-- Reduction modulo a power of two keeps the low n bits and reduces the number above them. -/
theorem two_pow_mul_add_mod (x k : Nat) {n b : Nat} (hb : b < 2 ^ n) :
    (2 ^ n * x + b) % 2 ^ (n + k) = 2 ^ n * (x % 2 ^ k) + b := by
  rw [pow_add, Nat.mod_mul, Nat.mul_add_mod, Nat.mod_eq_of_lt hb, Nat.mul_add_div (Nat.two_pow_pos n), Nat.div_eq_of_lt hb,
    add_zero, add_comm]

/-- Left rotation by less than 64: the bits that leave at the top come in below those shifted up. -/
theorem rotateLeft_eq_ofInt (x : Word) {n : Nat} (hn : n < 64) :
    x.rotateLeft n = BitVec.ofInt 64 (x.toNat * 2 ^ n + x.toNat / 2 ^ (64 - n) : Nat) := by
  have hsum : n + (64 - n) = 64 := by omega
  have hlow : x.toNat / 2 ^ (64 - n) < 2 ^ n := by
    rw [Nat.div_lt_iff_lt_mul (Nat.two_pow_pos _), ← pow_add, hsum]
    exact x.isLt
  have hshift := two_pow_mul_add_mod x.toNat (64 - n) (Nat.two_pow_pos n)
  have hrotate := two_pow_mul_add_mod x.toNat (64 - n) hlow
  rw [hsum] at hshift hrotate
  apply eq_ofInt_of_toNat
  rw [BitVec.toNat_rotateLeft, Nat.mod_eq_of_lt hn, Nat.shiftLeft_eq, Nat.shiftRight_eq_div_pow, mul_comm x.toNat, hrotate,
    ← add_zero (2 ^ n * x.toNat), hshift, add_zero, Nat.two_pow_add_eq_or_of_lt hlow]

/-! ## Logic (R171, R174) -/

theorem and_eq_ofInt (x y : Word) : x &&& y = BitVec.ofInt 64 (x.toNat &&& y.toNat : Nat) :=
  eq_ofInt_of_toNat_eq (BitVec.toNat_and x y)

theorem or_eq_ofInt (x y : Word) : x ||| y = BitVec.ofInt 64 (x.toNat ||| y.toNat : Nat) :=
  eq_ofInt_of_toNat_eq (BitVec.toNat_or x y)

theorem xor_eq_ofInt (x y : Word) : x ^^^ y = BitVec.ofInt 64 (x.toNat ^^^ y.toNat : Nat) :=
  eq_ofInt_of_toNat_eq (BitVec.toNat_xor x y)

theorem andn_eq_ofInt (x y : Word) : x &&& ~~~y = BitVec.ofInt 64 (x.toNat &&& (2 ^ 64 - 1 - y.toNat) : Nat) :=
  eq_ofInt_of_toNat_eq (by rw [BitVec.toNat_and, BitVec.toNat_not])

/-! ## Comparison and selection (R171, R173) -/

theorem smin_eq_ofInt (x y : Word) : (if x.slt y then x else y) = BitVec.ofInt 64 (min x.toInt y.toInt) :=
  eq_ofInt_of_toInt_eq (by simp only [BitVec.slt_eq_decide, decide_eq_true_eq, apply_ite BitVec.toInt, min_def_lt])

theorem smax_eq_ofInt (x y : Word) : (if x.slt y then y else x) = BitVec.ofInt 64 (max x.toInt y.toInt) :=
  eq_ofInt_of_toInt_eq (by simp only [BitVec.slt_eq_decide, decide_eq_true_eq, apply_ite BitVec.toInt, max_def_lt])

theorem umin_eq_ofInt (x y : Word) : (if x.ult y then x else y) = BitVec.ofInt 64 (min x.toNat y.toNat : Nat) :=
  eq_ofInt_of_toNat_eq (by simp only [BitVec.ult_eq_decide, decide_eq_true_eq, apply_ite BitVec.toNat, min_def_lt])

theorem umax_eq_ofInt (x y : Word) : (if x.ult y then y else x) = BitVec.ofInt 64 (max x.toNat y.toNat : Nat) :=
  eq_ofInt_of_toNat_eq (by simp only [BitVec.ult_eq_decide, decide_eq_true_eq, apply_ite BitVec.toNat, max_def_lt])

/-- A truth value as a word is 1 where the condition that it decides holds, and 0 elsewhere. -/
theorem flagWord_eq_ofInt {b : Bool} {p : Prop} [Decidable p] (h : b = true ↔ p) :
    flagWord b = BitVec.ofInt 64 (if p then 1 else 0) := by
  by_cases hp : p
  · simp [flagWord, hp, h.2 hp]
  · simp [flagWord, hp, Bool.eq_false_iff.2 fun hb => hp (h.1 hb)]

theorem toNat_eq_zero_iff (x : Word) : x.toNat = 0 ↔ x = 0 := BitVec.toNat_inj (y := 0#64)

theorem sne_eq_ofInt (x y : Word) : flagWord (x != y) = BitVec.ofInt 64 (if x.toNat = y.toNat then 0 else 1) := by
  by_cases h : x = y
  · simp [flagWord, h]
  · simp [flagWord, h, mt BitVec.eq_of_toNat_eq h]

theorem sel_eq_ofInt (x y c : Word) :
    (if c != 0 then x else y) = BitVec.ofInt 64 (if c.toNat = 0 then y.toNat else x.toNat) := by
  by_cases h : c = 0
  · simp [h]
  · rw [if_pos (bne_iff_ne.2 h), if_neg (mt (toNat_eq_zero_iff c).1 h)]
    exact eq_ofInt_toNat x

/-! ## Counts of bits (R171, R177) -/

/-- Below bit n stand n zeros, or the leading one bit of the number in those bits is at its logarithm. -/
theorem leadingZeros_eq (a : Word) (n : Nat) :
    leadingZeros a n = if a.toNat % 2 ^ n = 0 then n else n - 1 - Nat.log2 (a.toNat % 2 ^ n) := by
  induction n with
  | zero => simp [leadingZeros, Nat.mod_one]
  | succ n ih =>
    have hmod : a.toNat % 2 ^ (n + 1) = 2 ^ n * (a.getLsbD n).toNat + a.toNat % 2 ^ n := by
      rw [Nat.mod_pow_succ, BitVec.getLsbD, Nat.toNat_testBit, add_comm]
    have hlt : a.toNat % 2 ^ n < 2 ^ n := Nat.mod_lt _ (by positivity)
    cases hbit : a.getLsbD n with
    | true =>
      have hval : a.toNat % 2 ^ (n + 1) = 2 ^ n + a.toNat % 2 ^ n := by simpa [hbit] using hmod
      have hlog : Nat.log2 (2 ^ n + a.toNat % 2 ^ n) = n := by
        rw [Nat.log2_eq_iff (by omega), pow_succ]
        omega
      rw [hval, hlog, if_neg (by omega)]
      simp [leadingZeros, hbit]
    | false =>
      have hsame : a.toNat % 2 ^ (n + 1) = a.toNat % 2 ^ n := by simpa [hbit] using hmod
      rw [hsame]
      simp only [leadingZeros, hbit, ih]
      by_cases hz : a.toNat % 2 ^ n = 0
      · simp [hz, add_comm]
      · have := (Nat.log2_lt hz).2 hlt
        simp only [hz, Bool.false_eq_true, ↓reduceIte]
        omega

theorem clz_eq_ofInt (x : Word) :
    BitVec.ofNat 64 (leadingZeros x 64) = BitVec.ofInt 64 (if x.toNat = 0 then 64 else 63 - Nat.log2 x.toNat) := by
  rw [leadingZeros_eq, Nat.mod_eq_of_lt x.isLt, ← BitVec.ofInt_natCast]
  by_cases hz : x.toNat = 0
  · simp [hz]
  · have := (Nat.log2_lt hz).2 x.isLt
    rw [if_neg hz, if_neg hz, show 64 - 1 - Nat.log2 x.toNat = 63 - Nat.log2 x.toNat from rfl, Nat.cast_sub (by omega)]
    rfl

/-- The search from bit 64 − n upward finds what the search in the list of those bits finds. -/
theorem trailingZeros_eq (a : Word) (n : Nat) (hn : n ≤ 64) :
    64 - n + trailingZeros a n = ((List.range' (64 - n) n).find? fun i => a.toNat.testBit i).getD 64 := by
  induction n with
  | zero => rfl
  | succ n ih =>
    have hnext : 64 - (n + 1) + 1 = 64 - n := by omega
    have hat : 63 - n = 64 - (n + 1) := by omega
    rw [List.range'_succ, List.find?_cons, hnext]
    simp only [trailingZeros, BitVec.getLsbD, hat]
    cases a.toNat.testBit (64 - (n + 1)) with
    | true => rfl
    | false =>
      rw [← ih (by omega)]
      simp only [Bool.false_eq_true, ↓reduceIte]
      omega

theorem trailingZeros_eq_lowestBit (a : Word) : trailingZeros a 64 = lowestBit a := by
  have h := trailingZeros_eq a 64 le_rfl
  rwa [Nat.sub_self, Nat.zero_add, ← List.range_eq_range'] at h

theorem ctz_eq_ofInt (x : Word) : BitVec.ofNat 64 (trailingZeros x 64) = BitVec.ofInt 64 (lowestBit x) := by
  rw [trailingZeros_eq_lowestBit, BitVec.ofInt_natCast]

theorem popCount_eq_countP (a : Word) (n : Nat) : popCount a n = (List.range n).countP fun i => a.toNat.testBit i := by
  induction n with
  | zero => rfl
  | succ n ih =>
    rw [List.range_succ, List.countP_append, ← ih, List.countP_singleton, popCount, add_comm, BitVec.getLsbD]

theorem popc_eq_ofInt (x : Word) :
    BitVec.ofNat 64 (popCount x 64) = BitVec.ofInt 64 ((List.range 64).countP fun i => x.toNat.testBit i) := by
  rw [popCount_eq_countP, BitVec.ofInt_natCast]

/-! ## Products and quotients (R172) -/

/-- The high word of a double word is the residue of the quotient by 2^64, whatever number the double word is the residue of. -/
theorem high_ofInt (z : Int) : (BitVec.ofInt 128 z).extractLsb' 64 64 = BitVec.ofInt 64 (z / (2 ^ 64 : Nat)) := by
  apply BitVec.eq_of_toNat_eq
  rw [BitVec.extractLsb'_toNat, BitVec.toNat_ofInt, BitVec.toNat_ofInt, Nat.shiftRight_eq_div_pow]
  norm_num
  omega

theorem mulh_eq_ofInt (x y : Word) :
    (x.signExtend 128 * y.signExtend 128).extractLsb' 64 64 = BitVec.ofInt 64 (x.toInt * y.toInt / (2 ^ 64 : Nat)) := by
  rw [← high_ofInt, BitVec.ofInt_mul]; rfl

theorem mulhu_eq_ofInt (x y : Word) :
    (x.zeroExtend 128 * y.zeroExtend 128).extractLsb' 64 64 = BitVec.ofInt 64 (x.toNat * y.toNat / 2 ^ 64 : Nat) := by
  have h (w : Word) : w.zeroExtend 128 = BitVec.ofInt 128 w.toNat := by rw [BitVec.ofInt_natCast, BitVec.ofNat_toNat]
  rw [h, h, ← BitVec.ofInt_mul, high_ofInt, Int.natCast_div, Int.natCast_mul]

theorem divu_eq_ofInt (x y : Word) :
    (if y = 0 then BitVec.allOnes 64 else x / y) =
      BitVec.ofInt 64 (if y.toNat = 0 then 0xFFFFFFFFFFFFFFFF else (x.toNat / y.toNat : Nat)) := by
  by_cases h : y = 0
  · simp [h]
  · rw [if_neg h, if_neg (mt (toNat_eq_zero_iff y).1 h)]
    exact eq_ofInt_of_toNat_eq BitVec.toNat_udiv

theorem remu_eq_ofInt (x y : Word) :
    (if y = 0 then x else x % y) = BitVec.ofInt 64 (if y.toNat = 0 then x.toNat else (x.toNat % y.toNat : Nat)) := by
  by_cases h : y = 0
  · rw [if_pos h, if_pos ((toNat_eq_zero_iff y).2 h)]
    exact eq_ofInt_toNat x
  · rw [if_neg h, if_neg (mt (toNat_eq_zero_iff y).1 h)]
    exact eq_ofInt_of_toNat_eq BitVec.toNat_umod

/-! ## Bit fields (R175, R176) -/

theorem toNat_bitMask {len : Nat} (h : len ≤ 64) : (BitVec.ofNat 64 (2 ^ len - 1)).toNat = 2 ^ len - 1 := by
  have := Nat.pow_le_pow_right (show 0 < 2 by omega) h
  rw [BitVec.toNat_ofNat, Nat.mod_eq_of_lt (by have := Nat.two_pow_pos len; omega)]

theorem bitField_eq_ofInt (x : Word) (pos : Nat) {len : Nat} (h : len ≤ 64) :
    bitField x pos len = BitVec.ofInt 64 (x.toNat / 2 ^ pos % 2 ^ len : Nat) :=
  eq_ofInt_of_toNat_eq (by
    rw [bitField, BitVec.toNat_and, toNat_bitMask h, Nat.and_two_pow_sub_one_eq_mod, BitVec.toNat_ushiftRight,
      Nat.shiftRight_eq_div_pow])

/-- The replaced number in three parts: the bits above the field, the new field, and the bits below it. -/
theorem replaceBits_eq (x y pos len : Nat) :
    replaceBits x y pos len = 2 ^ pos * (2 ^ len * (x / 2 ^ pos / 2 ^ len) + y % 2 ^ len) + x % 2 ^ pos := by
  have hx := Nat.div_add_mod x (2 ^ pos)
  have hq := Nat.div_add_mod (x / 2 ^ pos) (2 ^ len)
  have hmul : 2 ^ pos * (x / 2 ^ pos) = 2 ^ pos * (2 ^ len * (x / 2 ^ pos / 2 ^ len)) + x / 2 ^ pos % 2 ^ len * 2 ^ pos := by
    conv_lhs => rw [← hq]
    ring
  rw [replaceBits, mul_add, mul_comm (2 ^ pos) (y % 2 ^ len)]
  omega

/-- Bit i of the replaced number comes from the new field where it lies in it. -/
theorem testBit_replaceBits (x y pos len i : Nat) :
    (replaceBits x y pos len).testBit i =
      if pos ≤ i ∧ i < pos + len then y.testBit (i - pos) else x.testBit i := by
  rw [replaceBits_eq, Nat.testBit_two_pow_mul_add _ (Nat.mod_lt _ (by positivity)),
    Nat.testBit_two_pow_mul_add _ (Nat.mod_lt _ (by positivity))]
  by_cases hlo : i < pos
  · simp [hlo, Nat.testBit_mod_two_pow]
  · by_cases hin : i < pos + len
    · simp [hlo, hin, Nat.testBit_mod_two_pow, show i - pos < len by omega, not_lt.mp hlo]
    · simp [hlo, hin, show ¬ i - pos < len by omega, Nat.testBit_div_two_pow,
        show i - pos - len + len + pos = i by omega]

theorem insertField_eq_ofInt (x y : Word) {pos len : Nat} (h : pos + len ≤ 64) :
    insertField x y pos len = BitVec.ofInt 64 (replaceBits x.toNat y.toNat pos len) := by
  rw [BitVec.ofInt_natCast]
  apply BitVec.eq_of_getLsbD_eq
  intro i hi
  rw [BitVec.getLsbD_ofNat, testBit_replaceBits]
  have hmask (j : Nat) : (BitVec.ofNat 64 (2 ^ len - 1)).getLsbD j = decide (j < len) := by
    rw [BitVec.getLsbD, toNat_bitMask (by omega), Nat.testBit_two_pow_sub_one]
  simp only [insertField, BitVec.getLsbD_or, BitVec.getLsbD_and, BitVec.getLsbD_not, BitVec.getLsbD_shiftLeft, hmask, hi]
  by_cases hlo : i < pos
  · simp [hlo, not_le.mpr hlo, BitVec.getLsbD]
  · by_cases hin : i < pos + len
    · simp [hlo, hin, show i - pos < len by omega, not_lt.mp hlo, BitVec.getLsbD]
    · simp [hlo, hin, show ¬ i - pos < len by omega, BitVec.getLsbD]

/-- LUI replaces the half-word q of a word. -/
theorem lui_eq_ofInt (x : Word) (q : Fin 4) (imm : BitVec 16) :
    insertField x (imm.zeroExtend 64) (16 * q.val) 16 = BitVec.ofInt 64 (replaceBits x.toNat imm.toNat (16 * q.val) 16) := by
  rw [insertField_eq_ofInt x _ (by omega), BitVec.toNat_setWidth, Nat.mod_eq_of_lt (by omega)]

/-- A field of BINS that ILLEGAL does not refuse ends in the word (R176). -/
theorem bins_fits {d a : SReg} {pos lenM1 : Fin 64} (h : (Instr.bins d a pos lenM1).flaw = none) :
    pos.val + (lenM1.val + 1) ≤ 64 := by
  by_contra hlong
  simp [Instr.flaw, firstFlaw, show ¬ pos.val + lenM1.val + 1 ≤ 64 by omega] at h

/-! ## The obligation -/

/-- Settles O9: the word of each operation is the residue of the number that the manual gives, and that word alone is set to land. -/
theorem scalarResult : Obligations.ScalarResult := by
  intro i s lat d v hrule hflaw hscore
  have lands {lat' d' v' w} (h : some (lat', d', v') = some (lat, d, v)) (hw : w = BitVec.ofInt 64 v') :=
    scalarOp_eq_landing hscore h hw
  cases i with
  | add => exact lands hrule (add_eq_ofInt _ _)
  | sub => exact lands hrule (sub_eq_ofInt _ _)
  | and => exact lands hrule (and_eq_ofInt _ _)
  | or => exact lands hrule (or_eq_ofInt _ _)
  | xor => exact lands hrule (xor_eq_ofInt _ _)
  | andn => exact lands hrule (andn_eq_ofInt _ _)
  | shl => exact lands hrule (shiftLeft_eq_ofInt _ _)
  | shr => exact lands hrule (shiftRight_eq_ofInt _ _)
  | sar => exact lands hrule (sshiftRight_eq_ofInt _ _)
  | rotl => exact lands hrule (rotateLeft_eq_ofInt _ (Nat.mod_lt _ (by decide)))
  | min => exact lands hrule (smin_eq_ofInt _ _)
  | max => exact lands hrule (smax_eq_ofInt _ _)
  | minu => exact lands hrule (umin_eq_ofInt _ _)
  | maxu => exact lands hrule (umax_eq_ofInt _ _)
  | seq => exact lands hrule (flagWord_eq_ofInt (beq_iff_eq.trans BitVec.toNat_inj.symm))
  | sne => exact lands hrule (sne_eq_ofInt _ _)
  | slt => exact lands hrule (flagWord_eq_ofInt (by rw [BitVec.slt_eq_decide, decide_eq_true_iff]))
  | sltu => exact lands hrule (flagWord_eq_ofInt (by rw [BitVec.ult_eq_decide, decide_eq_true_iff]))
  | sle => exact lands hrule (flagWord_eq_ofInt (by rw [BitVec.sle_eq_decide, decide_eq_true_iff]))
  | clz => exact lands hrule (clz_eq_ofInt _)
  | ctz => exact lands hrule (ctz_eq_ofInt _)
  | popc => exact lands hrule (popc_eq_ofInt _)
  | movo => exact lands hrule (eq_ofInt_toNat _)
  | ffrdy => exact lands hrule (ctz_eq_ofInt _)
  | mul => exact lands hrule (mul_eq_ofInt _ _)
  | mulh => exact lands hrule (mulh_eq_ofInt _ _)
  | mulhu => exact lands hrule (mulhu_eq_ofInt _ _)
  | divu => exact lands hrule (divu_eq_ofInt _ _)
  | remu => exact lands hrule (remu_eq_ofInt _ _)
  | sel => exact lands hrule (sel_eq_ofInt _ _ _)
  | addsc => exact lands hrule (add_shiftLeft_eq_ofInt _ _ _)
  | addi => exact lands hrule (add_signExtend_eq_ofInt _ _)
  | andImm => exact lands hrule (and_eq_ofInt _ _)
  | orImm => exact lands hrule (or_eq_ofInt _ _)
  | xorImm => exact lands hrule (xor_eq_ofInt _ _)
  | andnImm => exact lands hrule (andn_eq_ofInt _ _)
  | shlImm => exact lands hrule (shiftLeft_eq_ofInt _ _)
  | shrImm => exact lands hrule (shiftRight_eq_ofInt _ _)
  | sarImm => exact lands hrule (sshiftRight_eq_ofInt _ _)
  | rotlImm => exact lands hrule (rotateLeft_eq_ofInt _ (Fin.isLt _))
  | li => exact lands hrule rfl
  | lui => exact lands hrule (lui_eq_ofInt _ _ _)
  | bext => exact lands hrule (bitField_eq_ofInt _ _ (Fin.isLt _))
  | bins => exact lands hrule (insertField_eq_ofInt _ _ (bins_fits hflaw))
  | _ => cases hrule

end Sys2Proof.Machine
end

section
/-! PROOFS. Packed lanes, and the vector results that an element-wise form sets to land (09 R245, R249). -/

namespace Sys2Proof.Machine

/-! ## Packed lanes -/

theorem lane_lt (x bits i : Nat) : lane x bits i < 2 ^ bits := Nat.mod_lt _ (by positivity)

/-- A number below 2^n with another above it is below 2^(n+m) where that one is below 2^m. -/
theorem add_mul_two_pow_lt {a b n m : Nat} (ha : a < 2 ^ n) (hb : b < 2 ^ m) : a + b * 2 ^ n < 2 ^ (n + m) := by
  calc a + b * 2 ^ n < (b + 1) * 2 ^ n := by rw [Nat.succ_mul]; omega
    _ ≤ 2 ^ m * 2 ^ n := Nat.mul_le_mul_right _ hb
    _ = 2 ^ (n + m) := by rw [pow_add, mul_comm]

theorem lanes_lt {f : Nat → Nat} {bits : Nat} (hf : ∀ i, f i < 2 ^ bits) (d lo : Nat) :
    lanes f bits d lo < 2 ^ (bits * 2 ^ d) := by
  induction d generalizing lo with
  | zero => simpa [lanes] using hf lo
  | succ d ih =>
    rw [lanes, pow_succ 2 d, mul_two, mul_add]
    exact add_mul_two_pow_lt (ih _) (ih _)

/-- A lane that lies wholly in the low n bits does not see the number above them. -/
theorem lane_add_mul_of_le {a b bits n j : Nat} (h : bits * (j + 1) ≤ n) : lane (a + b * 2 ^ n) bits j = lane a bits j := by
  have hn : n = bits * j + (bits + (n - bits * (j + 1))) := by rw [mul_add, mul_one] at h ⊢; omega
  generalize n - bits * (j + 1) = k at hn
  subst hn
  have hb : b * 2 ^ (bits * j + (bits + k)) = b * 2 ^ k * 2 ^ bits * 2 ^ (bits * j) := by simp only [pow_add]; ring
  rw [lane, lane, Nat.shiftRight_eq_div_pow, Nat.shiftRight_eq_div_pow, hb,
    Nat.add_mul_div_right _ _ (Nat.two_pow_pos _), Nat.add_mul_mod_self_right]

/-- A lane above the low lanes is a lane of the number above them. -/
theorem lane_add_mul_of_lt {a b bits n j : Nat} (ha : a < 2 ^ (bits * n)) :
    lane (a + b * 2 ^ (bits * n)) bits (n + j) = lane b bits j := by
  rw [lane, lane, mul_add, Nat.shiftRight_add, Nat.shiftRight_eq_div_pow _ (bits * n),
    Nat.add_mul_div_right _ _ (Nat.two_pow_pos _), Nat.div_eq_of_lt ha, zero_add]

theorem lane_lanes {f : Nat → Nat} {bits : Nat} (hf : ∀ i, f i < 2 ^ bits) {d j : Nat} (lo : Nat) (hj : j < 2 ^ d) :
    lane (lanes f bits d lo) bits j = f (lo + j) := by
  induction d generalizing lo j with
  | zero =>
    obtain rfl : j = 0 := by simpa using hj
    simp [lanes, lane, Nat.mod_eq_of_lt (hf lo)]
  | succ d ih =>
    rw [lanes]
    by_cases hlow : j < 2 ^ d
    · rw [lane_add_mul_of_le (Nat.mul_le_mul_left _ hlow), ih lo hlow]
    · obtain ⟨i, rfl⟩ := Nat.exists_eq_add_of_le (not_lt.mp hlow)
      rw [lane_add_mul_of_lt (lanes_lt hf d lo), ih _ (by rw [pow_succ] at hj; omega), add_assoc]

theorem testBit_laneFlags (f : Nat → Nat) (d lo k : Nat) :
    (laneFlags f d lo).testBit k = true ↔ ∃ j, j < 2 ^ d ∧ (f (lo + j)).testBit k = true := by
  induction d generalizing lo with
  | zero => simp [laneFlags]
  | succ d ih =>
    rw [laneFlags, Nat.testBit_or, Bool.or_eq_true, ih, ih, pow_succ]
    constructor
    · rintro (⟨j, hj, hbit⟩ | ⟨j, hj, hbit⟩)
      · exact ⟨j, by omega, hbit⟩
      · exact ⟨2 ^ d + j, by omega, by rwa [← add_assoc]⟩
    · rintro ⟨j, hj, hbit⟩
      by_cases hlow : j < 2 ^ d
      · exact .inl ⟨j, hlow, hbit⟩
      · exact .inr ⟨j - 2 ^ d, by omega, by rwa [add_assoc, Nat.add_sub_cancel' (not_lt.mp hlow)]⟩

/-! ## The lanes of a type -/

theorem two_pow_typeDepth (t : VType) : 2 ^ typeDepth t = t.count := by cases t <;> rfl

theorem bits_mul_count (t : VType) : t.bits * t.count = 4096 := by cases t <;> rfl

theorem count_pos (t : VType) : 0 < t.count := by cases t <;> decide

/-! ## Results set to land -/

theorem insertAt_insertAt {α : Type} (l : Assoc α) (n : Nat) (v w : α) : insertAt (insertAt l n v) n w = insertAt l n w := by
  induction l with
  | nil => simp [insertAt]
  | cons x rest ih =>
    obtain ⟨k, u⟩ := x
    rcases lt_trichotomy n k with h | h | h
    · simp [insertAt, h]
    · simp [insertAt, h]
    · simp [insertAt, h.not_gt, h.ne', ih]

/-- Of two changes of the issuing context the second stands. -/
theorem withCtx_withCtx (s : State) (x y : Ctx) : (s.withCtx x).withCtx y = s.withCtx y := by
  simp only [State.withCtx, insertAt_insertAt]

theorem withCtx_ic (s : State) (x : Ctx) : (s.withCtx x).ic = x := by
  simp [State.ic, State.ctx, State.withCtx]

theorem landing_landing (s : State) (lat : Nat) (l l' : List LandWhat) :
    (s.landing lat l).landing lat l' = s.landing lat (l ++ l') := by
  rw [State.landing, State.landing, State.landing, withCtx_ic, withCtx_withCtx, List.map_append, List.append_assoc]
  rfl

theorem land_landFlags (s : State) (lat : Nat) (w : LandWhat) (fl : Nat) :
    (s.land lat w).landFlags lat fl = s.landing lat [w, .fps (BitVec.ofNat 7 fl)] :=
  landing_landing s lat [w] [.fps (BitVec.ofNat 7 fl)]

/-- A form that neither scores nor meets a format too wide for its elements goes on to its meaning. -/
theorem vecForm_eq_next {s : State} {i : Instr} {lat : Nat} {ts : List VType} {k : State → State}
    (hscore : s.scoreHit i lat = false) (hfmt : ∀ t ∈ ts, s.fmtOk t) : s.vecForm i lat ts k = .next (k s) := by
  have hwide : ¬(ts.contains .n4 && decide (4 < (NarrowFmt.of s.ic.nfmtVNow).width)) = true := by
    rw [Bool.and_eq_true, List.contains_iff_mem, decide_eq_true_eq]
    rintro ⟨hmem, hwidth⟩
    exact absurd (hfmt _ hmem rfl) (by omega)
  rw [State.vecForm, State.scored, if_neg (by simp [hscore]), if_neg hwide]

/-- A packed register and its flags, set to land together, are the vector result of the elements that they hold. -/
theorem vectorResult_of_packed {i : Instr} {s : State} {lat : Nat} {d : VReg} {bits n : Nat} {p : PWord}
    {f : Nat → Nat × Nat} {other : Nat → Nat} {r fl : Nat}
    (hexec : exec i s = .next ((s.land lat (.v [(d, BitVec.ofNat 4096 r)] s.vProd)).landFlags lat fl))
    (hsize : bits * n = 4096) (hr : r < 2 ^ (bits * n))
    (hlane : ∀ j, j < n → lane r bits j = (masked p other f j).1)
    (hflag : ∀ k, fl.testBit k = true ↔ ∃ j, j < n ∧ (masked p other f j).2.testBit k = true) :
    VectorResult i s lat d bits n p f other [] := by
  refine ⟨_, _, hexec.trans (congrArg _ (land_landFlags ..)), fun j hj => ?_, fun k hk => ?_, fun k hk => ?_⟩
  · rw [BitVec.toNat_ofNat, ← hsize, Nat.mod_eq_of_lt hr, hlane j hj, masked]
    split <;> rfl
  · exact BitVec.getLsbD_of_ge _ _ (hsize ▸ hk)
  · have hmask (j : Nat) : (masked p other f j).2.testBit k = true ↔ p.getLsbD j = true ∧ (f j).2.testBit k = true := by
      by_cases hp : p.getLsbD j = true <;> simp [masked, hp]
    simp only [BitVec.getLsbD_ofNat, hk, decide_true, Bool.true_and, hflag, hmask]

/-- The same for element-wise results that fit their containers and fill the register. -/
theorem vectorResult_of_landLanes {i : Instr} {s : State} {lat : Nat} {d : VReg} {bits depth n : Nat} {p : PWord}
    {f : Nat → Nat × Nat} {other : Nat → Nat}
    (hexec : exec i s = .next (s.landLanes lat d { bits := bits, depth := depth, value := masked p other f }))
    (hcount : 2 ^ depth = n) (hsize : bits * n = 4096) (hf : ∀ j, (f j).1 < 2 ^ bits) (hother : ∀ j, other j < 2 ^ bits) :
    VectorResult i s lat d bits n p f other [] := by
  have hfit (j : Nat) : (masked p other f j).1 < 2 ^ bits := by
    rw [masked]; split
    · exact hf j
    · exact hother j
  subst hcount
  refine vectorResult_of_packed hexec hsize (lanes_lt hfit depth 0) (fun j hj => ?_) fun k => ?_
  · rw [lane_lanes hfit 0 hj, zero_add]
  · simp only [Lanes.flags, testBit_laneFlags, zero_add]

end Sys2Proof.Machine
end

section
/-! PROOFS. The results of operations on one element fit the container of its type (04 R93, R103, R104). -/

namespace Sys2Proof.Machine

/-! ## Integers -/

theorem numWidth_le_bits (nf : NarrowFmt) (t : VType) : numWidth nf t ≤ t.bits := by
  rw [numWidth]; split
  · exact min_le_right _ _
  · exact le_rfl

/-- The residue of a number modulo a power of two fits as many bits. -/
theorem toNat_emod_two_pow_lt (z : Int) (n : Nat) : (z % (2 ^ n : Nat)).toNat < 2 ^ n := by
  have hpos : (0 : Int) < (2 ^ n : Nat) := by exact_mod_cast Nat.two_pow_pos n
  have := Int.emod_lt_of_pos z hpos
  have := Int.emod_nonneg z hpos.ne'
  omega

theorem writeNum_lt (nf : NarrowFmt) (t : VType) (z : Int) : writeNum nf t z < 2 ^ t.bits := by
  simp only [writeNum]; split
  · exact toNat_emod_two_pow_lt _ _
  · exact (toNat_emod_two_pow_lt _ _).trans_le (Nat.pow_le_pow_right (by decide) (numWidth_le_bits nf t))

/-- Writing a number depends on its residue modulo the width alone (R103). -/
theorem writeNum_congr {nf : NarrowFmt} {t : VType} {z z' : Int}
    (h : z % (2 ^ numWidth nf t : Nat) = z' % (2 ^ numWidth nf t : Nat)) : writeNum nf t z = writeNum nf t z' := by
  simp only [writeNum, h]

/-! ## Rounding to a format -/

theorem roundShift_le {rm : Rm} {neg : Bool} {m sh k : Nat} (h : m < 2 ^ (sh + k)) : (roundShift rm neg m sh).1 ≤ 2 ^ k := by
  have hq : m / 2 ^ sh < 2 ^ k := Nat.div_lt_of_lt_mul (by rwa [← pow_add])
  simp only [roundShift]
  split_ifs <;> omega

/-- A magnitude below 2^k is at most 2^k once it is rounded to an integer. -/
theorem roundScaled_le {rm : Rm} {neg : Bool} {m : Nat} {e : Int} {k : Nat} (h : (Nat.log2 m : Int) + 1 + e ≤ k) :
    (roundScaled rm neg m e).1 ≤ 2 ^ k := by
  have hm : m < 2 ^ (Nat.log2 m + 1) := Nat.lt_log2_self
  rw [roundScaled]; split
  · calc m * 2 ^ e.toNat ≤ 2 ^ (Nat.log2 m + 1) * 2 ^ e.toNat := Nat.mul_le_mul_right _ hm.le
      _ = 2 ^ (Nat.log2 m + 1 + e.toNat) := (pow_add ..).symm
      _ ≤ 2 ^ k := Nat.pow_le_pow_right (by decide) (by omega)
  · exact roundShift_le (hm.trans_le (Nat.pow_le_pow_right (by decide) (by omega)))

theorem ebits_pos (t : VType) : 0 < (FloatFmt.of t).ebits := by cases t <;> decide

theorem of_bits {t : VType} (h : t.isFloat = true) : (FloatFmt.of t).bits = t.bits := by
  revert h; cases t <;> decide

/-- A magnitude below the sign bit gives a pattern of the format under either sign. -/
theorem signBit_add_lt {f : FloatFmt} {m : Nat} (h : m < 2 ^ (f.ebits + f.fbits)) (neg : Bool) :
    f.signBit neg + m < 2 ^ f.bits := by
  have : 2 ^ f.bits = 2 * 2 ^ (f.ebits + f.fbits) := by rw [FloatFmt.bits, add_assoc, pow_add, pow_one]
  rw [FloatFmt.signBit]; split <;> omega

theorem infinity_lt (f : FloatFmt) : f.infinity < 2 ^ (f.ebits + f.fbits) := by
  rw [FloatFmt.infinity, pow_add]
  exact Nat.mul_lt_mul_of_pos_right (Nat.sub_lt (Nat.two_pow_pos _) Nat.one_pos) (Nat.two_pow_pos _)

theorem largest_lt (f : FloatFmt) : f.largest < 2 ^ (f.ebits + f.fbits) := by
  have := infinity_lt f
  have := Nat.two_pow_pos (f.ebits + f.fbits)
  rw [FloatFmt.infinity] at *
  rw [FloatFmt.largest]; split <;> omega

theorem nan_lt (f : FloatFmt) : f.nan < 2 ^ f.bits := by
  have hbits : 2 ^ f.bits = 2 * 2 ^ (f.ebits + f.fbits) := by rw [FloatFmt.bits, add_assoc, pow_add, pow_one]
  have hhalf : 2 ^ (f.fbits - 1) ≤ 2 ^ (f.ebits + f.fbits) := Nat.pow_le_pow_right (by decide) (by omega)
  have := infinity_lt f
  rw [FloatFmt.nan]; split <;> omega

theorem deliverInf_lt (f : FloatFmt) (sm : SatMode) (neg : Bool) : (f.deliverInf sm neg).1 < 2 ^ f.bits := by
  simp only [FloatFmt.deliverInf]
  split
  · exact signBit_add_lt (largest_lt f) neg
  · split
    · exact signBit_add_lt (infinity_lt f) neg
    · exact nan_lt f

/-- A rounded significand of a number whose exponent field leaves the highest one free stays below the sign bit. -/
theorem significand_lt {f : FloatFmt} {top emin : Int} {u : Nat} (hle : u ≤ 2 ^ (f.fbits + 1)) (hmin : emin ≤ top)
    (htop : (if u ≥ 2 ^ (f.fbits + 1) then top + 1 else top) + 2 ≤ emin + (2 ^ f.ebits : Nat)) :
    (top - emin).toNat * 2 ^ f.fbits + u < 2 ^ (f.ebits + f.fbits) := by
  have hone : 1 ≤ 2 ^ f.fbits := Nat.one_le_two_pow
  rw [pow_succ] at hle htop
  rw [pow_add]
  obtain ⟨n, hn⟩ : ∃ n : Nat, top = emin + n := ⟨(top - emin).toNat, by omega⟩
  rw [hn, show (emin + n - emin).toNat = n by omega]
  split at htop
  · calc n * 2 ^ f.fbits + u < (n + 3) * 2 ^ f.fbits := by rw [add_mul]; omega
      _ ≤ _ := Nat.mul_le_mul_right _ (by omega)
  · calc n * 2 ^ f.fbits + u < (n + 2) * 2 ^ f.fbits := by rw [add_mul]; omega
      _ ≤ _ := Nat.mul_le_mul_right _ (by omega)

theorem round_lt {f : FloatFmt} (he : 0 < f.ebits) (rm : Rm) (sm : SatMode) (neg : Bool) (m : Nat) (e : Int) :
    (f.round rm sm neg m e).1 < 2 ^ f.bits := by
  unfold FloatFmt.round
  split
  · exact signBit_add_lt (m := 0) (by positivity) neg
  extract_lets +lift top emin unb utop mant lim past sub tiny
  have hlargest : f.signBit neg + f.largest < 2 ^ f.bits := signBit_add_lt (largest_lt f) neg
  by_cases hpast : past = true
  · rw [if_pos hpast]
    split
    · exact hlargest
    · split
      · split
        · exact signBit_add_lt (infinity_lt f) neg
        · exact nan_lt f
      · exact hlargest
  rw [if_neg hpast]
  by_cases htop : top ≥ emin
  · rw [if_pos htop]
    have hunb : unb.1 ≤ 2 ^ (f.fbits + 1) := roundScaled_le (by omega)
    have hlim : utop ≤ lim := by
      by_contra hgt
      exact hpast (by simp [past, not_le.mp hgt])
    have hfield : lim + 2 ≤ emin + (2 ^ f.ebits : Nat) := by
      simp only [lim, emin]
      split <;> push_cast <;> omega
    exact signBit_add_lt (significand_lt hunb htop (by simp only [utop] at hlim; omega)) neg
  · rw [if_neg htop]
    have hsub : sub.1 ≤ 2 ^ f.fbits := roundScaled_le (by omega)
    have hexp : 2 ^ f.fbits < 2 ^ (f.ebits + f.fbits) := Nat.pow_lt_pow_right (by decide) (by omega)
    exact signBit_add_lt (hsub.trans_lt hexp) neg

theorem deliver_lt {f : FloatFmt} (he : 0 < f.ebits) (rm : Rm) (sm : SatMode) (v : FVal) :
    (f.deliver rm sm v).1 < 2 ^ f.bits := by
  cases v with
  | nan => exact nan_lt f
  | inf neg => exact deliverInf_lt f sm neg
  | fin neg m e => exact round_lt he rm sm neg m e

/-! ## Results by type -/

theorem floatOut_lt {t : VType} (h : t.isFloat = true) (sm : SatMode) (r : FVal × Nat) : (floatOut t sm r).1 < 2 ^ t.bits :=
  of_bits h ▸ deliver_lt (ebits_pos t) .rne sm r.1

theorem numOut_lt (s : State) (t : VType) (z : Int) (v : FVal × Nat) : (s.numOut t z v).1 < 2 ^ t.bits := by
  rw [State.numOut]; split
  · exact floatOut_lt ‹_› _ _
  · exact writeNum_lt _ _ _

theorem minMax2_lt {nf : NarrowFmt} {t : VType} (isMax : Bool) {a b : Nat} (ha : a < 2 ^ t.bits) (hb : b < 2 ^ t.bits) :
    minMax2 nf t isMax a b < 2 ^ t.bits := by
  rw [minMax2]; split
  case isTrue hfloat =>
    simp only [FloatFmt.minMax]
    split_ifs
    · exact of_bits hfloat ▸ nan_lt _
    · exact ha
    · exact hb
  case isFalse => exact writeNum_lt _ _ _

end Sys2Proof.Machine
end

section
/-! PROOFS. combine(S) of VRED and VSCAN is the rule of 09 R265 over the list of the active elements. -/

namespace Sys2Proof.Machine

/-! ## The active elements -/

theorem activeElems_succ (p : PWord) (x : Nat → Nat) (n : Nat) :
    activeElems p x (n + 1) = activeElems p x n ++ if p.getLsbD n then [x n] else [] := by
  cases hp : p.getLsbD n <;> simp [activeElems, List.range_succ, hp]

theorem activeElems_lt {p : PWord} {x : Nat → Nat} {b : Nat} (hx : ∀ j, x j < b) (n : Nat) : ∀ y ∈ activeElems p x n, y < b := by
  intro y hy
  obtain ⟨j, -, rfl⟩ := List.mem_map.1 hy
  exact hx j

/-- What the elements of a list leave of an empty S, one after the other. -/
def combineAll (nf : NarrowFmt) (t : VType) (op : RedOp) (l : List Nat) : Combine := l.foldl (Combine.insert nf t op) .empty

section
variable (nf : NarrowFmt) (t : VType) (op : RedOp) (p : PWord) (x : Nat)

theorem combineAll_activeElems_succ (n : Nat) :
    combineAll nf t op (activeElems p (lane x t.bits) (n + 1)) =
      if p.getLsbD n then (combineAll nf t op (activeElems p (lane x t.bits) n)).insert nf t op (lane x t.bits n)
      else combineAll nf t op (activeElems p (lane x t.bits) n) := by
  rw [combineAll, activeElems_succ, List.foldl_append]
  split <;> rfl

theorem combineGo_combineAll (n j : Nat) :
    combineGo nf t op p x n j (combineAll nf t op (activeElems p (lane x t.bits) j)) =
      combineAll nf t op (activeElems p (lane x t.bits) (j + n)) := by
  induction n generalizing j with
  | zero => rfl
  | succ n ih => rw [combineGo, ← combineAll_activeElems_succ, ih, add_right_comm, add_assoc]

end

section
variable {nf : NarrowFmt} {t : VType} {op : RedOp}

/-! ## Sums of integers -/

theorem toInt_intVal (z : Int) : (intVal z).toInt = z := by
  simp only [intVal, FVal.toInt, Int.toNat_zero, pow_zero, Nat.cast_one, mul_one, decide_eq_true_eq]
  split <;> omega

theorem fAdd_intVal (a b : Int) : (fAdd (intVal a) (intVal b)).1 = intVal (a + b) := by
  have hsigned (z : Int) : (if decide (z < 0) then -((z.natAbs : Int) * (2 ^ 0 : Nat)) else (z.natAbs : Int) * (2 ^ 0 : Nat)) = z := by
    simp only [decide_eq_true_eq, pow_zero, Nat.cast_one, mul_one]
    split <;> omega
  have hsum : dyAdd (decide (a < 0)) a.natAbs 0 (decide (b < 0)) b.natAbs 0 = (a + b, 0) := by
    simp only [dyAdd, min_self, sub_self, Int.toNat_zero, hsigned]
  simp only [intVal, fAdd, hsum]
  by_cases h : a + b = 0
  · have hsign : (decide (a < 0) && decide (b < 0) && a.natAbs == 0 && b.natAbs == 0) = false := by
      by_contra hzero
      simp only [Bool.not_eq_false, Bool.and_eq_true, decide_eq_true_eq, beq_iff_eq] at hzero
      omega
    simp [h, hsign]
  · simp [h]

theorem insert_add_int (h : t.isFloat = false) (k : Combine) (x : Nat) :
    k.insert nf t .add x =
      { k with any := true, sum := if k.any then (fAdd k.sum (intVal (readNum nf t x))).1 else intVal (readNum nf t x) } := by
  simp only [Combine.insert, sumVal, h, intVal]
  rfl

theorem foldl_insert_add_int (h : t.isFloat = false) (l : List Nat) {k : Combine} {z : Int} (hany : k.any = true)
    (hsum : k.sum = intVal z) :
    l.foldl (Combine.insert nf t .add) k = { k with sum := intVal (z + (l.map (readNum nf t)).sum) } := by
  induction l generalizing k z with
  | nil => simp [← hsum]
  | cons x rest ih =>
    rw [List.foldl_cons, insert_add_int h, if_pos hany, hsum, fAdd_intVal, ih rfl rfl, ← hany, List.map_cons, List.sum_cons,
      add_assoc]

theorem result_add_int (sm : SatMode) (h : t.isFloat = false) (x : Nat) (rest : List Nat) :
    (combineAll nf t .add (x :: rest)).result nf sm t .add = combineRule nf sm t .add (x :: rest) := by
  rw [combineAll, List.foldl_cons, insert_add_int h, foldl_insert_add_int h rest rfl rfl]
  simp [Combine.result, combineRule, h, toInt_intVal]

/-! ## Sums of floating-point values -/

theorem insert_add_float (h : t.isFloat = true) (k : Combine) (x : Nat) :
    k.insert nf t .add x =
      { k with
        any := true
        nan := k.nan || (fval t x).isNan
        pinf := k.pinf || fval t x == .inf false
        ninf := k.ninf || fval t x == .inf true
        sum := if (fval t x).isNan || (fval t x).isInf then k.sum
          else if k.any then (fAdd k.sum (fval t x)).1 else fval t x } := by
  have hval : sumVal nf t x = fval t x := if_pos h
  cases hx : fval t x with
  | nan => simp [Combine.insert, hval, hx, FVal.isNan]
  | inf neg => cases neg <;> simp [Combine.insert, hval, hx, FVal.isNan, FVal.isInf]
  | fin neg m e => simp [Combine.insert, hval, hx, FVal.isNan, FVal.isInf]

/-- A mark that an element sets is set after a list where it was set before or one of the elements sets it. -/
theorem foldl_insert_mark (mark : Combine → Bool) (sets : Nat → Bool)
    (h : ∀ k x, mark (k.insert nf t op x) = (mark k || sets x)) (l : List Nat) (k : Combine) :
    mark (l.foldl (Combine.insert nf t op) k) = (mark k || l.any sets) := by
  induction l generalizing k with
  | nil => simp
  | cons x rest ih => rw [List.foldl_cons, ih, h, List.any_cons, Bool.or_assoc]

/-- The same from an empty S, which has no mark. -/
theorem combineAll_mark (mark : Combine → Bool) {sets : Nat → Bool} (hempty : mark .empty = false)
    (h : ∀ k x, mark (k.insert nf t op x) = (mark k || sets x)) (l : List Nat) :
    mark (combineAll nf t op l) = l.any sets := by
  rw [combineAll, foldl_insert_mark mark sets h, hempty, Bool.false_or]

theorem sum_foldl_insert_add_float (h : t.isFloat = true) {l : List Nat}
    (hfin : ∀ y ∈ l, ((fval t y).isNan || (fval t y).isInf) = false) {k : Combine} (hany : k.any = true) :
    (l.foldl (Combine.insert nf t .add) k).sum = l.foldl (fun v y => (fAdd v (fval t y)).1) k.sum := by
  induction l generalizing k with
  | nil => rfl
  | cons x rest ih =>
    rw [List.forall_mem_cons] at hfin
    rw [List.foldl_cons, ih hfin.2 (by rw [insert_add_float h]), insert_add_float h]
    simp [hfin.1, hany]

/-- No NaN and no infinity among the elements: each is a finite value. -/
theorem finite_of_any_false {l : List Nat} (hnan : (l.any fun y => (fval t y).isNan) = false)
    (hpinf : (l.any fun y => fval t y == .inf false) = false) (hninf : (l.any fun y => fval t y == .inf true) = false) :
    ∀ y ∈ l, ((fval t y).isNan || (fval t y).isInf) = false := by
  intro y hy
  have hyn := List.any_eq_false.1 hnan y hy
  have hyp := List.any_eq_false.1 hpinf y hy
  have hym := List.any_eq_false.1 hninf y hy
  cases hv : fval t y with
  | nan => simp [hv, FVal.isNan] at hyn
  | inf neg => cases neg <;> simp [hv] at hyp hym
  | fin neg m e => rfl

/-- Invalid where infinities of both signs meet, then a NaN, then an infinity, then the exact sum rounded once (R265). -/
theorem result_add_float (sm : SatMode) (h : t.isFloat = true) (x : Nat) (rest : List Nat) :
    (combineAll nf t .add (x :: rest)).result nf sm t .add = combineRule nf sm t .add (x :: rest) := by
  have hany : (combineAll nf t .add (x :: rest)).any = true :=
    combineAll_mark (·.any) (sets := fun _ => true) rfl (fun k y => by rw [insert_add_float h, Bool.or_true]) _
  have hnan := combineAll_mark (nf := nf) (·.nan) rfl (fun k y => by rw [insert_add_float h]) (x :: rest)
  have hpinf := combineAll_mark (nf := nf) (·.pinf) rfl (fun k y => by rw [insert_add_float h]) (x :: rest)
  have hninf := combineAll_mark (nf := nf) (·.ninf) rfl (fun k y => by rw [insert_add_float h]) (x :: rest)
  have hsum (hfin : ∀ y ∈ x :: rest, ((fval t y).isNan || (fval t y).isInf) = false) :
      (combineAll nf t .add (x :: rest)).sum = rest.foldl (fun v y => (fAdd v (fval t y)).1) (fval t x) := by
    rw [List.forall_mem_cons] at hfin
    rw [combineAll, List.foldl_cons, sum_foldl_insert_add_float h hfin.2 (by rw [insert_add_float h]), insert_add_float h, hfin.1]
    rfl
  have hfinite hn hp hm := hsum (finite_of_any_false hn hp hm)
  rw [← hnan, ← hpinf, ← hninf] at hfinite
  simp only [combineRule, Combine.result, h, ← hnan, ← hpinf, ← hninf, hany]
  cases hn : (combineAll nf t .add (x :: rest)).nan with
  | true => simp
  | false =>
    cases hp : (combineAll nf t .add (x :: rest)).pinf with
    | true => cases hm : (combineAll nf t .add (x :: rest)).ninf <;> simp
    | false =>
      cases hm : (combineAll nf t .add (x :: rest)).ninf with
      | true => simp
      | false => simp [hfinite hn hp hm]

/-! ## The other operations -/

/-- An operation that takes the first element by `first` and joins each further one by `join`. -/
theorem combineAll_code {first : Nat → Nat} {join : Nat → Nat → Nat}
    (h : ∀ (k : Combine) x, k.insert nf t op x = { k with any := true, code := if k.any then join k.code x else first x })
    (x : Nat) (rest : List Nat) :
    combineAll nf t op (x :: rest) = { Combine.empty with any := true, code := rest.foldl join (first x) } := by
  have hrest (l : List Nat) (k : Combine) (hany : k.any = true) :
      l.foldl (Combine.insert nf t op) k = { k with code := l.foldl join k.code } := by
    induction l generalizing k with
    | nil => rfl
    | cons y rest ih => rw [List.foldl_cons, h, if_pos hany, ih _ rfl, ← hany, List.foldl_cons]
  rw [combineAll, List.foldl_cons, h, hrest rest _ rfl]
  rfl

theorem result_combineAll (sm : SatMode) (l : List Nat) :
    (combineAll nf t op l).result nf sm t op = combineRule nf sm t op l := by
  cases l with
  | nil => rfl
  | cons x rest =>
    cases op with
    | add =>
      cases h : t.isFloat with
      | true => exact result_add_float sm h x rest
      | false => exact result_add_int sm h x rest
    | min | max | and | or | xor =>
      rw [combineAll_code fun _ _ => rfl]
      rfl

/-! ## The result fits its container -/

/-- Joining elements that fit a container gives one that fits it. -/
theorem foldl_lt {join : Nat → Nat → Nat} {b : Nat} (hjoin : ∀ {u v}, u < b → v < b → join u v < b) {l : List Nat}
    (hl : ∀ y ∈ l, y < b) {x : Nat} (hx : x < b) : l.foldl join x < b :=
  List.foldlRecOn (motive := (· < b)) l join hx fun _ hu v hv => hjoin hu (hl v hv)

theorem combineRule_lt (nf : NarrowFmt) (sm : SatMode) (t : VType) (op : RedOp) {l : List Nat} (hl : ∀ y ∈ l, y < 2 ^ t.bits) :
    (combineRule nf sm t op l).1 < 2 ^ t.bits := by
  cases l with
  | nil => exact Nat.two_pow_pos _
  | cons x rest =>
    obtain ⟨hx, hrest⟩ := List.forall_mem_cons.1 hl
    have hbits {g : Nat → Nat → Nat} (hg : ∀ {u v}, u < 2 ^ t.bits → v < 2 ^ t.bits → g u v < 2 ^ t.bits) :
        (if t.isNarrow then writeNum nf t (rest.foldl g x : Nat) else rest.foldl g x) < 2 ^ t.bits := by
      split
      · exact writeNum_lt _ _ _
      · exact foldl_lt hg hrest hx
    cases op with
    | add =>
      simp only [combineRule]
      split
      · exact writeNum_lt _ _ _
      next hint =>
        have hfloat : t.isFloat = true := eq_true_of_ne_false hint
        have hnan : (FloatFmt.of t).nan < 2 ^ t.bits := of_bits hfloat ▸ nan_lt _
        split_ifs
        · exact hnan
        · exact hnan
        all_goals exact floatOut_lt hfloat _ _
    | min | max => exact foldl_lt (minMax2_lt _) hrest (minMax2_lt _ hx hx)
    | and => exact hbits fun _ hv => Nat.and_lt_two_pow _ hv
    | or => exact hbits fun hu hv => Nat.or_lt_two_pow hu hv
    | xor => exact hbits fun hu hv => Nat.xor_lt_two_pow hu hv

end

end Sys2Proof.Machine
end

section
/-! PROOFS. Reductions and scans (09 R265). -/

namespace Sys2Proof.Machine

/-! ## The elements of a scan -/

section
variable (nf : NarrowFmt) (sm : SatMode) (t : VType) (op : RedOp) (p : PWord) (x : Nat)

/-- Element j of VSCAN with its flags: combine over the active elements up to it, 0 where it is inactive. -/
def scanElem (j : Nat) : Nat × Nat :=
  masked p (fun _ => 0) (fun j => combineRule nf sm t op (activeElems p (lane x t.bits) (j + 1))) j

/-- The elements of VSCAN from j on, as the model packs them behind the active elements below j. -/
def scanFrom (n j : Nat) : Nat × Nat :=
  scanGo nf sm t op p x n j (combineAll nf t op (activeElems p (lane x t.bits) j))

theorem scanElem_lt (j : Nat) : (scanElem nf sm t op p x j).1 < 2 ^ t.bits := by
  rw [scanElem, masked]; split
  · exact combineRule_lt nf sm t op (activeElems_lt (lane_lt x t.bits) _)
  · exact Nat.two_pow_pos _

theorem scanFrom_succ (n j : Nat) : scanFrom nf sm t op p x (n + 1) j =
    ((scanElem nf sm t op p x j).1 + (scanFrom nf sm t op p x n (j + 1)).1 * 2 ^ t.bits,
      (scanElem nf sm t op p x j).2 ||| (scanFrom nf sm t op p x n (j + 1)).2) := by
  simp only [scanFrom, scanGo, scanElem, masked, ← result_combineAll, combineAll_activeElems_succ, mul_comm (2 ^ t.bits)]
  split
  · rfl
  · simp

theorem scanFrom_lt (n j : Nat) : (scanFrom nf sm t op p x n j).1 < 2 ^ (t.bits * n) := by
  induction n generalizing j with
  | zero => exact Nat.one_pos
  | succ n ih =>
    rw [scanFrom_succ, mul_add, mul_one, add_comm (t.bits * n)]
    exact add_mul_two_pow_lt (scanElem_lt nf sm t op p x j) (ih _)

theorem lane_scanFrom {n i : Nat} (j : Nat) (hi : i < n) :
    lane (scanFrom nf sm t op p x n j).1 t.bits i = (scanElem nf sm t op p x (j + i)).1 := by
  have hfit := scanElem_lt nf sm t op p x j
  induction n generalizing i j with
  | zero => omega
  | succ n ih =>
    rw [scanFrom_succ]
    cases i with
    | zero =>
      rw [lane_add_mul_of_le (by omega), lane, mul_zero, Nat.shiftRight_zero, Nat.mod_eq_of_lt hfit, add_zero]
    | succ i =>
      have hnext := lane_add_mul_of_lt (b := (scanFrom nf sm t op p x n (j + 1)).1) (n := 1) (j := i) (by rwa [mul_one])
      rw [mul_one, add_comm 1] at hnext
      rw [hnext, ih (j + 1) (by omega) (scanElem_lt ..), add_assoc, add_comm 1]

theorem testBit_scanFrom (n j k : Nat) : (scanFrom nf sm t op p x n j).2.testBit k = true ↔
    ∃ i, i < n ∧ (scanElem nf sm t op p x (j + i)).2.testBit k = true := by
  induction n generalizing j with
  | zero => simp [scanFrom, scanGo]
  | succ n ih =>
    rw [scanFrom_succ, Nat.testBit_or, Bool.or_eq_true, ih]
    constructor
    · rintro (hbit | ⟨i, hi, hbit⟩)
      · exact ⟨0, by omega, hbit⟩
      · exact ⟨i + 1, by omega, by rwa [add_comm i, ← add_assoc]⟩
    · rintro ⟨i, hi, hbit⟩
      cases i with
      | zero => exact .inl hbit
      | succ i => exact .inr ⟨i, by omega, by rwa [add_assoc, add_comm 1]⟩

end

/-! ## The obligation -/

/-- VRED lands combine over the active elements in element 0 of a register of zeros. -/
theorem reduce_eq_landing (s : State) (d a : VReg) (op : RedOp) (m : Fin 8) (t : VType) :
    s.reduce false d a op m t =
      let r := combineRule s.nf s.iss.sat t op (activeElems (s.rdP 1 m) (s.elem 0 t a) t.count)
      s.landing 4 [.v [(d, BitVec.ofNat 4096 r.1)] s.vProd, .fps (BitVec.ofNat 7 r.2)] := by
  have hgo := combineGo_combineAll s.nf t op (s.rdP 1 m) (s.rdV 0 t.bits a).toNat t.count 0
  rw [zero_add] at hgo
  rw [State.reduce, ← land_landFlags, ← result_combineAll]
  exact congrArg (fun k => (s.land 4 (.v [(d, BitVec.ofNat 4096 (k.result s.nf s.iss.sat t op).1)] s.vProd)).landFlags 4
    (k.result s.nf s.iss.sat t op).2) hgo

/-- Settles O38: the model's running S gives the rule's combine over the active elements, at the end (VRED) and at each active element
(VSCAN). -/
theorem vectorReductions : Obligations.VectorReductions := by
  intro s d a op m t hfmt _ comb
  have hform : ∀ u ∈ [t], s.fmtOk u := by simpa using hfmt
  constructor
  · intro hscore
    have hfit : (comb t.count).1 < 2 ^ (t.bits * t.count) :=
      (combineRule_lt s.nf s.iss.sat t op (activeElems_lt (lane_lt _ _) _)).trans_le
        (Nat.pow_le_pow_right (by decide) (Nat.le_mul_of_pos_right _ (count_pos t)))
    refine ⟨BitVec.ofNat 4096 (comb t.count).1, ?_, ?_⟩
    · exact (vecForm_eq_next hscore hform).trans (congrArg _ (reduce_eq_landing s d a op m t))
    · rw [BitVec.toNat_ofNat, ← bits_mul_count t, Nat.mod_eq_of_lt hfit]
  · intro hscore
    exact vectorResult_of_packed (vecForm_eq_next hscore hform) (bits_mul_count t) (scanFrom_lt ..)
      (fun j hj => (lane_scanFrom _ _ _ _ _ _ 0 hj).trans (by rw [zero_add]; rfl))
      fun k => (testBit_scanFrom ..).trans (by simp only [zero_add]; rfl)

end Sys2Proof.Machine
end

section
/-! PROOFS. The element-wise vector forms: fused operations, logic, shifts, moves and permutations (09 R255, R257 to R264). -/

namespace Sys2Proof.Machine

/-! ## Element-wise forms of a type -/

theorem elem_lt (s : State) (pos : Nat) (t : VType) (r : VReg) (j : Nat) : s.elem pos t r j < 2 ^ t.bits := lane_lt _ _ _

theorem zero_lt_container (t : VType) (_ : Nat) : 0 < 2 ^ t.bits := Nat.two_pow_pos _

/-- A form of type t that neither scores nor meets a format too wide for its elements has the vector result of its elements,
where they fit their containers. -/
theorem vectorResult_of_vecForm {i : Instr} {s : State} {lat : Nat} {d : VReg} {t : VType} {ts : List VType} {k : State → State}
    {p : PWord} {f : Nat → Nat × Nat} {other : Nat → Nat} (hexec : exec i s = s.vecForm i lat ts k)
    (hk : k s = s.landLanes lat d { bits := t.bits, depth := typeDepth t, value := masked p other f })
    (hscore : s.scoreHit i lat = false) (hfmt : ∀ u ∈ ts, s.fmtOk u)
    (hf : ∀ j, (f j).1 < 2 ^ t.bits) (hother : ∀ j, other j < 2 ^ t.bits) :
    VectorResult i s lat d t.bits t.count p f other [] :=
  vectorResult_of_landLanes (hexec.trans ((vecForm_eq_next hscore hfmt).trans (congrArg _ hk))) (two_pow_typeDepth t)
    (bits_mul_count t) hf hother

theorem fmtOk_singleton {s : State} {t : VType} (h : s.fmtOk t) : ∀ u ∈ [t], s.fmtOk u := by simpa using h

theorem fmtOk_nil (s : State) : ∀ u ∈ [], s.fmtOk u := by simp

/-! ## Permutations (R263) -/

/-- Changing bit c of j moves j by 2^c, up where the bit is clear. -/
theorem xor_two_pow (j c : Nat) : j ^^^ 2 ^ c = if j / 2 ^ c % 2 = 0 then j + 2 ^ c else j - 2 ^ c := by
  have hdiv : (j ^^^ 2 ^ c) / 2 ^ c = j / 2 ^ c ^^^ 1 := by rw [Nat.xor_div_two_pow, Nat.div_self (Nat.two_pow_pos c)]
  have hmod : (j ^^^ 2 ^ c) % 2 ^ c = j % 2 ^ c := by rw [Nat.xor_mod_two_pow, Nat.mod_self, Nat.xor_zero]
  have hj := Nat.div_add_mod j (2 ^ c)
  rw [← Nat.div_add_mod (j ^^^ 2 ^ c) (2 ^ c), hdiv, hmod]
  split
  case isTrue h =>
    rw [Nat.xor_one_of_even (Nat.even_iff.2 h), mul_add, mul_one]
    omega
  case isFalse h =>
    have hodd : Odd (j / 2 ^ c) := Nat.odd_iff.2 (Nat.mod_two_ne_zero.1 h)
    have hle : 2 ^ c ≤ 2 ^ c * (j / 2 ^ c) := Nat.le_mul_of_pos_right _ hodd.pos
    rw [Nat.xor_one_of_odd hodd, Nat.mul_sub, mul_one]
    omega

/-- Settles O37: each form picks the element of a that stands at its position; VSHUF's butterfly changes one bit of it. -/
theorem vectorPermutations : Obligations.VectorPermutations := by
  intro s d a b r m t p x y n zero
  have hx (g : Nat → Nat) (j : Nat) : x (g j) < 2 ^ t.bits := elem_lt ..
  refine ⟨fun _ hscore => ?_, fun _ hscore => ?_, fun hscore => ?_⟩
  · exact vectorResult_of_vecForm rfl rfl hscore (fmtOk_nil s) (hx _) (zero_lt_container t)
  · have hpick := vectorResult_of_vecForm (i := .vshuf d a p m t) rfl rfl hscore (fmtOk_nil s) (hx (shufAt p n)) (zero_lt_container t)
    cases p with
    | bfly c =>
      simp only [shufAt, xor_two_pow] at hpick
      exact hpick
    | dup0 | rev | evod | zip => exact hpick
  · exact vectorResult_of_vecForm rfl rfl hscore (fmtOk_nil s) (hx _) (zero_lt_container t)

/-! ## Shifts (R259) -/

/-- Bits above the width of a number do not reach the shifted number. -/
theorem shlEl_eq (nf : NarrowFmt) (t : VType) (a c : Nat) :
    shlEl nf t a c = if numWidth nf t ≤ c then 0 else writeNum nf t (a * 2 ^ c : Nat) := by
  have hcode : writeNum nf t (a % 2 ^ numWidth nf t * 2 ^ c : Nat) = writeNum nf t (a * 2 ^ c : Nat) :=
    writeNum_congr (by exact_mod_cast Nat.mod_mul_mod a (2 ^ c) (2 ^ numWidth nf t))
  simp only [shlEl, hcode]

theorem signedOf_lt (w n : Nat) : signedOf w n < (2 ^ w : Nat) := by
  have hcode : n % 2 ^ w < 2 ^ w := Nat.mod_lt _ (Nat.two_pow_pos w)
  simp only [signedOf]
  split_ifs <;> omega

theorem neg_signedOf_le (w n : Nat) : -signedOf w n ≤ (2 ^ w : Nat) := by
  have hpos := Nat.two_pow_pos w
  simp only [signedOf]
  split_ifs <;> omega

/-- A count of the width or more leaves the sign alone, as a count of the width does. -/
theorem sarEl_eq (nf : NarrowFmt) (t : VType) (a c : Nat) :
    sarEl nf t a c = writeNum nf t (signedOf (numWidth nf t) a / (2 ^ min c (numWidth nf t) : Nat)) := by
  rw [sarEl]
  by_cases hc : numWidth nf t ≤ c
  · rw [if_pos hc, min_eq_right hc]
    split
    case isTrue hneg => rw [Int.ediv_eq_neg_one_of_neg_of_le hneg (neg_signedOf_le _ _)]
    case isFalse hpos => rw [Int.ediv_eq_zero_of_lt (not_lt.mp hpos) (signedOf_lt _ _)]
  · rw [if_neg hc, min_eq_left (not_le.mp hc).le]

/-- Settles O35: every form is its own element function, but that VSHL drops the bits above the width first and VSAR tells a count of
the width or more apart, which `shlEl_eq` and `sarEl_eq` show to be the rule's shifts. -/
theorem vectorLogicAndMoves : Obligations.VectorLogicAndMoves := by
  intro s d a b r m t x y w zero
  have hx (j : Nat) : x j < 2 ^ t.bits := elem_lt ..
  have hy (j : Nat) : y j < 2 ^ t.bits := elem_lt ..
  have hzero := zero_lt_container t
  have hshift (j z) : (if w ≤ y j then 0 else writeNum s.nf t z) < 2 ^ t.bits := by
    split
    · exact hzero j
    · exact writeNum_lt _ _ _
  refine ⟨fun hscore => ?and, fun hscore => ?or, fun hscore => ?xor, fun hfmt _ hscore => ?shl, fun hfmt _ hscore => ?shr,
    fun hfmt _ hscore => ?sar, fun hscore => ?sel, fun hscore => ?mov, fun hscore => ?bcst⟩
  case and => exact vectorResult_of_vecForm rfl rfl hscore (fmtOk_nil s) (fun j => Nat.and_lt_two_pow _ (hy j)) hzero
  case or => exact vectorResult_of_vecForm rfl rfl hscore (fmtOk_nil s) (fun j => Nat.or_lt_two_pow (hx j) (hy j)) hzero
  case xor => exact vectorResult_of_vecForm rfl rfl hscore (fmtOk_nil s) (fun j => Nat.xor_lt_two_pow (hx j) (hy j)) hzero
  case shl =>
    simp only [w, ← shlEl_eq] at hshift ⊢
    exact vectorResult_of_vecForm rfl rfl hscore (fmtOk_singleton hfmt) (fun j => hshift j _) hzero
  case shr => exact vectorResult_of_vecForm rfl rfl hscore (fmtOk_singleton hfmt) (fun j => hshift j _) hzero
  case sar =>
    simp only [w, ← sarEl_eq]
    exact vectorResult_of_vecForm rfl rfl hscore (fmtOk_singleton hfmt) (fun j => writeNum_lt ..) hzero
  case sel => exact vectorResult_of_vecForm rfl rfl hscore (fmtOk_nil s) hx hy
  case mov => exact vectorResult_of_vecForm rfl rfl hscore (fmtOk_nil s) hx hzero
  case bcst => exact vectorResult_of_vecForm rfl rfl hscore (fmtOk_nil s) (fun _ => Nat.mod_lt _ (Nat.two_pow_pos _)) hzero

/-! ## Fused operations (R255, R257) -/

theorem dot4El_int (nf : NarrowFmt) (sm : SatMode) {t : VType} (h : t.isFloat = false) (x y : Nat → Nat) (d : Nat) :
    dot4El nf sm t x y d =
      ((((d : Int) + readNum nf t (x 0) * readNum nf t (y 0) + readNum nf t (x 1) * readNum nf t (y 1)
        + readNum nf t (x 2) * readNum nf t (y 2) + readNum nf t (x 3) * readNum nf t (y 3)) % (2 ^ 32 : Nat)).toNat, 0) := by
  rw [dot4El, h]
  rfl

theorem dot4El_lt (nf : NarrowFmt) (sm : SatMode) (t : VType) (x y : Nat → Nat) (d : Nat) : (dot4El nf sm t x y d).1 < 2 ^ 32 := by
  cases h : t.isFloat with
  | true =>
    rw [show dot4El nf sm t x y d = floatOut .fp32 sm _ from if_pos h]
    exact floatOut_lt rfl sm _
  | false => exact dot4El_int nf sm h x y d ▸ toNat_emod_two_pow_lt _ 32

/-- VDOT4 sums into each 32-bit element of d the products of the four pairs of 8-bit elements in its place (R257). -/
theorem vectorResult_vdot4 {s : State} {d a b : VReg} {m : Fin 8} {t : VType} (hbits : t.bits = 8) (hfmt : s.fmtOk t)
    (hscore : s.scoreHit (.vdot4 d a b m t) 4 = false) :
    VectorResult (.vdot4 d a b m t) s 4 d 32 128 (s.rdP 3 m)
      (fun j => dot4El s.nf s.iss.sat t (fun k => s.elem 1 t a (4 * j + k)) (fun k => s.elem 2 t b (4 * j + k)) (s.elem 0 .u32 d j))
      (s.elem 0 .u32 d) [] := by
  refine vectorResult_of_landLanes (depth := 7) ?_ rfl rfl (fun j => dot4El_lt ..) (elem_lt s 0 .u32 d)
  refine (vecForm_eq_next hscore (fmtOk_singleton hfmt)).trans ?_
  simp only [State.elem, hbits]
  rfl

/-- Settles O34: the fused forms compute the rule's exact result by element, and VDOT4 reads four elements of 8 bits for each one of
32. -/
theorem vectorFused : Obligations.VectorFused := by
  intro s d a b m t hfmt z x y n f
  have hform := fmtOk_singleton hfmt
  have hz (j : Nat) : z j < 2 ^ t.bits := elem_lt ..
  refine ⟨fun hscore => ?fma, fun hscore => ?fms, fun hscore => ?fnma, fun hbits hint hscore => ?dotInt,
    fun hbits _ hscore => ?dotFloat⟩
  case fma | fms | fnma => exact vectorResult_of_vecForm rfl rfl hscore hform (fun j => numOut_lt ..) hz
  case dotInt =>
    have hdot := vectorResult_vdot4 hbits hfmt hscore
    simp only [dot4El_int _ _ hint, add_zero] at hdot
    exact hdot
  case dotFloat => exact vectorResult_vdot4 hbits hfmt hscore

end Sys2Proof.Machine
end
